-- ==== Sys2Proof/Word.lean ====
section
/-!
DEFINITION. Words of the machine: a bit pattern together with the 4-bit residue it carries (spec R37, R40).
-/
namespace Sys2Proof

abbrev Byte := BitVec 8
abbrev W32 := BitVec 32
abbrev W64 := BitVec 64

/-- A register or array word: its bits `v` and its carried residue code `r` (R37); code 15 is poison (R40).
The two parts are stored apart, as the hardware stores them, so that a stale residue is a state of its own. -/
structure RWord (n : Nat) where
  v : BitVec n
  r : BitVec 4
deriving DecidableEq, Repr

/-- A sparse map in canonical form: keys strictly rising, no entry equal to the map's default value. -/
abbrev SMap (α : Type) := List (Nat × α)

end Sys2Proof
end

