-- ==== Sys2Proof/Config.lean ====
section
/-!
DEFINITION. What an implementation fixes and the free values: constants without a body, so that no proof can rest on
a value of them. Each is named in the assumption log.
-/
namespace Sys2Proof.Config

/-- Nanoseconds of package time that pass in step `n` (log 1). -/
opaque stepNs : Nat → Nat
/-- Clock cycles that pass in step `n` on core `c`, numbered 48 × die + COREID (log 1). -/
opaque stepCycles : (n c : Nat) → Nat
/-- Extra cycles from bank conflicts (event 0x0C of R369) of the matrix instruction that step `n` issues on core `c`
(log 29). -/
opaque conflictCycles : (n c : Nat) → Nat
/-- Does the cached copy that access `n` finds still exist (log 5)? -/
opaque keepsCopy : Nat → Bool
/-- Does access `n` allocate a copy in the L1D or the waystation cache (log 5)? -/
opaque allocates : Nat → Bool
/-- Does the translation entry that access `n` finds still exist (log 6)? -/
opaque keepsTlb : Nat → Bool
/-- Do the units that the replay of access `n` passes hold one generation by then (R252; log 18)? -/
opaque catchesUp : Nat → Bool
/-- Does the fetched or cached instruction line that fetch `n` finds still exist (log 7)? -/
opaque keepsLine : Nat → Bool
/-- A value the spec leaves undefined, at its `n`-th occurrence (log 8). -/
opaque freeWord : Nat → BitVec 64
/-- Fuses: bit i set when compute die i has both memory-side cache dies (R14). (PRESUMED; log 58) -/
opaque dualFuses : BitVec 8
/-- Which of the 4,096 banks of its home die's two stacks holds a 64-byte block of device memory, modulo 4,096 (R16, R379; log 12). -/
opaque bankOf : Nat → Nat
/-- Which 4 KiB frame of its die's memory stands at a frame index within a bank, modulo the die's frames (R16, R379; log 12). -/
opaque bankFrame : Nat → Nat → Nat
/-- Fuses: minimum firmware version (R399). (PRESUMED; log 58) -/
opaque minVersion : BitVec 32
/-- Does an Ed25519 signature over these bytes verify under the fused key (R399)? (PRESUMED; log 58) -/
opaque verifyEd25519 : List Byte → List Byte → Bool
/-- Does an ML-DSA-65 signature over these bytes verify under the fused key (R399)? (PRESUMED; log 58) -/
opaque verifyMlDsa65 : List Byte → List Byte → Bool
/-- The bytes of the answer to an SPDM 1.3 request (R399; DMTF SPDM states them, not this spec). (PRESUMED; log 58) -/
opaque spdmAnswer : List Byte → List Byte → List Byte

end Sys2Proof.Config
end

