-- ==== Sys2Proof/Syntax.lean ====
section
/-!
DEFINITION. The instructions: one constructor per row of the opcode table. A word instruction carries the fields of its
96-bit word as they stand in the word (R105, R112 to R117), because a field outside its legal range is not a decoding
accident but raises ILLEGAL_FIELD when the word issues (R120). The table's other rows are events of the part (spec 95):
they carry the names of what they act on.
-/
namespace Sys2Proof

/-- The fields of an instruction word other than its major opcode (R105). `hi` is bits [95:64], which the A format
reads as IMM32 and the formats M, J, L, E, X and Y redefine. -/
structure Fields where
  sub  : BitVec 4
  gsel : BitVec 5
  gneg : Bool
  hold : BitVec 2
  dst  : BitVec 8
  sa   : BitVec 8
  sb   : BitVec 8
  sc   : BitVec 8
  ty   : BitVec 5
  rm   : BitVec 3
  sat  : Bool
  immf : Bool
  scls : BitVec 2
  hi   : BitVec 32
deriving DecidableEq, Repr

/-- One constructor per row of the opcode table: the word instructions in opcode order, the word whose opcode is no
instruction, and the events of the part. -/
inductive Instr where
  /-- NOP, opcode 0x00 (R121). -/
  | nop (f : Fields)
  /-- SADD, opcode 0x01 (R129). -/
  | sadd (f : Fields)
  /-- SSUB, opcode 0x02 (R129). -/
  | ssub (f : Fields)
  /-- SMUL, opcode 0x03 (R129). -/
  | smul (f : Fields)
  /-- SMULH, opcode 0x04 (R129). -/
  | smulh (f : Fields)
  /-- SDIV, opcode 0x05 (R130). -/
  | sdiv (f : Fields)
  /-- SREM, opcode 0x06 (R130). -/
  | srem (f : Fields)
  /-- SAND, opcode 0x07 (R129). -/
  | sand (f : Fields)
  /-- SOR, opcode 0x08 (R129). -/
  | sor (f : Fields)
  /-- SXOR, opcode 0x09 (R129). -/
  | sxor (f : Fields)
  /-- SSHL, opcode 0x0A (R131). -/
  | sshl (f : Fields)
  /-- SSHR, opcode 0x0B (R131). -/
  | sshr (f : Fields)
  /-- SSRA, opcode 0x0C (R131). -/
  | ssra (f : Fields)
  /-- SMIN, opcode 0x0D (R129). -/
  | smin (f : Fields)
  /-- SMAX, opcode 0x0E (R129). -/
  | smax (f : Fields)
  /-- SMOV, opcode 0x0F (R129). -/
  | smov (f : Fields)
  /-- SSEL, opcode 0x10 (R129). -/
  | ssel (f : Fields)
  /-- SCMP, opcode 0x11 (R132). -/
  | scmp (f : Fields)
  /-- SLEA, opcode 0x12 (R129). -/
  | slea (f : Fields)
  /-- SCLZ, opcode 0x13 (R129). -/
  | sclz (f : Fields)
  /-- SPOPC, opcode 0x14 (R129). -/
  | spopc (f : Fields)
  /-- SBFX, opcode 0x15 (R131). -/
  | sbfx (f : Fields)
  /-- SBFI, opcode 0x16 (R131). -/
  | sbfi (f : Fields)
  /-- SREAD, opcode 0x17 (R134). -/
  | sread (f : Fields)
  /-- SWRITE, opcode 0x18 (R134). -/
  | swrite (f : Fields)
  /-- BLOP, opcode 0x19 (R133). -/
  | blop (f : Fields)
  /-- BRA, opcode 0x20 (R136). -/
  | bra (f : Fields)
  /-- BRX, opcode 0x21 (R136). -/
  | brx (f : Fields)
  /-- CALL, opcode 0x22 (R136). -/
  | call (f : Fields)
  /-- CALLX, opcode 0x23 (R136). -/
  | callx (f : Fields)
  /-- RET, opcode 0x24 (R138). -/
  | ret (f : Fields)
  /-- BRV, opcode 0x25 (R206). -/
  | brv (f : Fields)
  /-- RCV, opcode 0x26 (R208). -/
  | rcv (f : Fields)
  /-- LOOP, opcode 0x27 (R150). -/
  | loop (f : Fields)
  /-- LBRK, opcode 0x28 (R160). -/
  | lbrk (f : Fields)
  /-- LSAVE, opcode 0x29 (R158). -/
  | lsave (f : Fields)
  /-- LREST, opcode 0x2A (R158). -/
  | lrest (f : Fields)
  /-- EXIT, opcode 0x2B (R139). -/
  | exit (f : Fields)
  /-- YIELD, opcode 0x2C (R139). -/
  | yield (f : Fields)
  /-- SLEEP, opcode 0x2D (R139). -/
  | sleep (f : Fields)
  /-- TRAP, opcode 0x30 (R145). -/
  | trap (f : Fields)
  /-- TRET_RETRY, opcode 0x31 (R144). -/
  | tretRetry (f : Fields)
  /-- TRET_SKIP, opcode 0x31 (R144). -/
  | tretSkip (f : Fields)
  /-- FENCE, opcode 0x32 (R336). -/
  | fence (f : Fields)
  /-- FENCEQ, opcode 0x33 (R58). -/
  | fenceq (f : Fields)
  /-- FENCEI, opcode 0x34 (R104). -/
  | fencei (f : Fields)
  /-- SETPRI, opcode 0x35 (R139). -/
  | setpri (f : Fields)
  /-- GENSYNC, opcode 0x36 (R253). -/
  | gensync (f : Fields)
  /-- CSRD, opcode 0x37 (R146). -/
  | csrd (f : Fields)
  /-- CSWR, opcode 0x38 (R146). -/
  | cswr (f : Fields)
  /-- TLBINV, opcode 0x39 (R259). -/
  | tlbinv (f : Fields)
  /-- PROBE, opcode 0x3A (R260). -/
  | probe (f : Fields)
  /-- VADD, opcode 0x40 (R169). -/
  | vadd (f : Fields)
  /-- VSUB, opcode 0x41 (R169). -/
  | vsub (f : Fields)
  /-- VMUL, opcode 0x42 (R169). -/
  | vmul (f : Fields)
  /-- VMULH, opcode 0x43 (R169). -/
  | vmulh (f : Fields)
  /-- VMAD, opcode 0x44 (R169). -/
  | vmad (f : Fields)
  /-- VAND, opcode 0x45 (R169). -/
  | vand (f : Fields)
  /-- VOR, opcode 0x46 (R169). -/
  | vor (f : Fields)
  /-- VXOR, opcode 0x47 (R169). -/
  | vxor (f : Fields)
  /-- VANDN, opcode 0x48 (R169). -/
  | vandn (f : Fields)
  /-- VSHL, opcode 0x49 (R170). -/
  | vshl (f : Fields)
  /-- VSHR, opcode 0x4A (R170). -/
  | vshr (f : Fields)
  /-- VSRA, opcode 0x4B (R170). -/
  | vsra (f : Fields)
  /-- VMIN, opcode 0x4C (R169). -/
  | vmin (f : Fields)
  /-- VMAX, opcode 0x4D (R169). -/
  | vmax (f : Fields)
  /-- VABS, opcode 0x4E (R169). -/
  | vabs (f : Fields)
  /-- VNEG, opcode 0x4F (R169). -/
  | vneg (f : Fields)
  /-- VCMP, opcode 0x50 (R173). -/
  | vcmp (f : Fields)
  /-- VSEL, opcode 0x51 (R169). -/
  | vsel (f : Fields)
  /-- VMOV, opcode 0x52 (R169). -/
  | vmov (f : Fields)
  /-- VPOPC, opcode 0x53 (R169). -/
  | vpopc (f : Fields)
  /-- VCLZ, opcode 0x54 (R169). -/
  | vclz (f : Fields)
  /-- VBFX, opcode 0x55 (R171). -/
  | vbfx (f : Fields)
  /-- VBFI, opcode 0x56 (R171). -/
  | vbfi (f : Fields)
  /-- VADDS, opcode 0x57 (R172). -/
  | vadds (f : Fields)
  /-- VDOT4, opcode 0x58 (R172). -/
  | vdot4 (f : Fields)
  /-- VIOTA, opcode 0x59 (R175). -/
  | viota (f : Fields)
  /-- VRES, opcode 0x5A (R175). -/
  | vres (f : Fields)
  /-- PLOP, opcode 0x5B (R173). -/
  | plop (f : Fields)
  /-- PMOV, opcode 0x5C (R173). -/
  | pmov (f : Fields)
  /-- VCVTI, opcode 0x5D (R174). -/
  | vcvti (f : Fields)
  /-- VDYMUL, opcode 0x5E (R172). -/
  | vdymul (f : Fields)
  /-- VFADD, opcode 0x70 (R186). -/
  | vfadd (f : Fields)
  /-- VFSUB, opcode 0x71 (R186). -/
  | vfsub (f : Fields)
  /-- VFMUL, opcode 0x72 (R186). -/
  | vfmul (f : Fields)
  /-- VFMA, opcode 0x73 (R187). -/
  | vfma (f : Fields)
  /-- VFMIN, opcode 0x74 (R189). -/
  | vfmin (f : Fields)
  /-- VFMAX, opcode 0x75 (R189). -/
  | vfmax (f : Fields)
  /-- VFCMP, opcode 0x76 (R190). -/
  | vfcmp (f : Fields)
  /-- VFSGN, opcode 0x77 (R191). -/
  | vfsgn (f : Fields)
  /-- VFRCP, opcode 0x78 (R188). -/
  | vfrcp (f : Fields)
  /-- VFRSQ, opcode 0x79 (R188). -/
  | vfrsq (f : Fields)
  /-- VFEX2, opcode 0x7A (R188). -/
  | vfex2 (f : Fields)
  /-- VFLG2, opcode 0x7B (R188). -/
  | vflg2 (f : Fields)
  /-- VFCLS, opcode 0x7C (R192). -/
  | vfcls (f : Fields)
  /-- VFRND, opcode 0x7D (R193). -/
  | vfrnd (f : Fields)
  /-- VCVT, opcode 0x7E (R195). -/
  | vcvt (f : Fields)
  /-- VSEED, opcode 0x7F (R198). -/
  | vseed (f : Fields)
  /-- VFDOT2, opcode 0x80 (R194). -/
  | vfdot2 (f : Fields)
  /-- VPACK, opcode 0x81 (R199). -/
  | vpack (f : Fields)
  /-- VUNPK, opcode 0x82 (R200). -/
  | vunpk (f : Fields)
  /-- VQSCL, opcode 0x83 (R201). -/
  | vqscl (f : Fields)
  /-- VSHFL, opcode 0x90 (R215). -/
  | vshfl (f : Fields)
  /-- VLROT, opcode 0x91 (R215). -/
  | vlrot (f : Fields)
  /-- VREADL, opcode 0x92 (R215). -/
  | vreadl (f : Fields)
  /-- VVOTE, opcode 0x93 (R216). -/
  | vvote (f : Fields)
  /-- VSCAN, opcode 0x94 (R216). -/
  | vscan (f : Fields)
  /-- VRED, opcode 0x95 (R216). -/
  | vred (f : Fields)
  /-- REGROUP, opcode 0x96 (R217). -/
  | regroup (f : Fields)
  /-- VCPRS, opcode 0x97 (R215). -/
  | vcprs (f : Fields)
  /-- SETEXM, opcode 0x98 (R211). -/
  | setexm (f : Fields)
  /-- GETEXM, opcode 0x99 (R211). -/
  | getexm (f : Fields)
  /-- PATHINFO, opcode 0x9A (R211). -/
  | pathinfo (f : Fields)
  /-- VLD, opcode 0xA0 (R237). -/
  | vld (f : Fields)
  /-- VST, opcode 0xA1 (R237). -/
  | vst (f : Fields)
  /-- VLDS, opcode 0xA2 (R237). -/
  | vlds (f : Fields)
  /-- VSTS, opcode 0xA3 (R237). -/
  | vsts (f : Fields)
  /-- SLD, opcode 0xA4 (R238). -/
  | sld (f : Fields)
  /-- SST, opcode 0xA5 (R238). -/
  | sst (f : Fields)
  /-- VATOM, opcode 0xA6 (R239). -/
  | vatom (f : Fields)
  /-- SATOM, opcode 0xA7 (R239). -/
  | satom (f : Fields)
  /-- VPRF, opcode 0xA8 (R240). -/
  | vprf (f : Fields)
  /-- LDQ, opcode 0xA9 (R242). -/
  | ldq (f : Fields)
  /-- STQ, opcode 0xAA (R242). -/
  | stq (f : Fields)
  /-- SETQ, opcode 0xAB (R243). -/
  | setq (f : Fields)
  /-- GETQ, opcode 0xAC (R243). -/
  | getq (f : Fields)
  /-- CMAINT_WB, opcode 0xAD (R244). -/
  | cmaintWb (f : Fields)
  /-- CMAINT_INV, opcode 0xAD (R244). -/
  | cmaintInv (f : Fields)
  /-- CMAINT_WBINV, opcode 0xAD (R244). -/
  | cmaintWbinv (f : Fields)
  /-- CMAINT_ZERO, opcode 0xAD (R244). -/
  | cmaintZero (f : Fields)
  /-- VLDF, opcode 0xAE (R241). -/
  | vldf (f : Fields)
  /-- XCOPY, opcode 0xC0 (R270). -/
  | xcopy (f : Fields)
  /-- XGATH, opcode 0xC1 (R270). -/
  | xgath (f : Fields)
  /-- XSCAT, opcode 0xC2 (R270). -/
  | xscat (f : Fields)
  /-- XFORM, opcode 0xC3 (R270). -/
  | xform (f : Fields)
  /-- XFILL, opcode 0xC4 (R270). -/
  | xfill (f : Fields)
  /-- XCOLL, opcode 0xC5 (R285). -/
  | xcoll (f : Fields)
  /-- CHBIND, opcode 0xC6 (R282). -/
  | chbind (f : Fields)
  /-- CHPUT, opcode 0xC7 (R282). -/
  | chput (f : Fields)
  /-- CHTAKE, opcode 0xC8 (R282). -/
  | chtake (f : Fields)
  /-- CHWAIT_DATA, opcode 0xC9 (R282). -/
  | chwaitData (f : Fields)
  /-- CHWAIT_ROOM, opcode 0xC9 (R282). -/
  | chwaitRoom (f : Fields)
  /-- XSTAT, opcode 0xCA (R283). -/
  | xstat (f : Fields)
  /-- MMA, opcode 0xD0 (R296). -/
  | mma (f : Fields)
  /-- MZERO, opcode 0xD1 (R305). -/
  | mzero (f : Fields)
  /-- MDRAIN, opcode 0xD2 (R304). -/
  | mdrain (f : Fields)
  /-- MLOAD, opcode 0xD3 (R306). -/
  | mload (f : Fields)
  /-- MTOKEN, opcode 0xD4 (R305). -/
  | mtoken (f : Fields)
  /-- MSTAT_TILE, opcode 0xD5 (R307). -/
  | mstatTile (f : Fields)
  /-- MSTAT_CNT, opcode 0xD5 (R307). -/
  | mstatCnt (f : Fields)
  /-- BINIT, opcode 0xE0 (R331). -/
  | binit (f : Fields)
  /-- BARRIVE, opcode 0xE1 (R331). -/
  | barrive (f : Fields)
  /-- BWAIT, opcode 0xE2 (R332). -/
  | bwait (f : Fields)
  /-- BTEST, opcode 0xE3 (R331). -/
  | btest (f : Fields)
  /-- CBAR_SYNC, opcode 0xE4 (R335). -/
  | cbarSync (f : Fields)
  /-- CBAR_ARRIVE, opcode 0xE4 (R335). -/
  | cbarArrive (f : Fields)
  /-- CBAR_REC, opcode 0xE4 (R335). -/
  | cbarRec (f : Fields)
  /-- CONTEND, opcode 0xE5 (R341). -/
  | contend (f : Fields)
  /-- CRESULT_WAIT, opcode 0xE6 (R341). -/
  | cresultWait (f : Fields)
  /-- CRESULT_TEST, opcode 0xE6 (R341). -/
  | cresultTest (f : Fields)
  /-- CWITHDRAW, opcode 0xE7 (R341). -/
  | cwithdraw (f : Fields)
  /-- MARK, opcode 0xE8 (R367). -/
  | mark (f : Fields)
  /-- BRKPT, opcode 0xE9 (R366). -/
  | brkpt (f : Fields)
  /-- RPLBEGIN_REC, opcode 0xEA (R371). -/
  | rplbeginRec (f : Fields)
  /-- RPLBEGIN_CMP, opcode 0xEA (R371). -/
  | rplbeginCmp (f : Fields)
  /-- RPLEND, opcode 0xEB (R372). -/
  | rplend (f : Fields)
  /-- SNAP, opcode 0xEC (R367). -/
  | snap (f : Fields)
  /-- ILLEGAL_OP (R119): word `w`, whose opcode is not an instruction. -/
  | illegalOp (w : BitVec 96)
  /-- REGROUP_EXCHANGE (R218): wave `wk` is one of the participants. -/
  | regroupExchange (wk : Nat)
  /-- CHWAIT_WAKE (R282): path `eid` of wave `wk`. -/
  | chwaitWake (wk eid : Nat)
  /-- BWAIT_WAKE (R332): path `eid` of wave `wk`. -/
  | bwaitWake (wk eid : Nat)
  /-- PROMISE_MISS (R332): path `eid` of wave `wk`. -/
  | promiseMiss (wk eid : Nat)
  /-- CBAR_WAKE (R335): path `eid` of wave `wk`. -/
  | cbarWake (wk eid : Nat)
  /-- CRESULT_WAKE (R341): path `eid` of wave `wk`. -/
  | cresultWake (wk eid : Nat)
  /-- IBP_HIT (R366): path `eid` of wave `wk`, breakpoint register `i`. -/
  | ibpHit (wk eid i : Nat)
  /-- RPLBEGIN_GATHERED (R371): crew by handle. -/
  | rplbeginGathered (crew : Nat)
  /-- RPLEND_GATHERED (R372): crew by handle. -/
  | rplendGathered (crew : Nat)
  /-- SLEEP_DEADLINE (R139): path `eid` of wave `wk`. -/
  | sleepDeadline (wk eid : Nat)
  /-- MTOKEN_READY (R305): path `eid` of wave `wk`. -/
  | mtokenReady (wk eid : Nat)
  /-- QUAD_ISSUE_CYCLE (R90): quad `4 * core + q`, cores numbered `48 * die + COREID`. -/
  | quadIssueCycle (quad : Nat)
  /-- PATH_PROMOTE (R90): path `eid` of wave `wk`. -/
  | pathPromote (wk eid : Nat)
  /-- LINE_FETCH_COMPLETE (R99): path `eid` of wave `wk`. -/
  | lineFetchComplete (wk eid : Nat)
  /-- PAGE_REQUEST_DEFERRED (R255): function. -/
  | pageRequestDeferred (fn : Nat)
  /-- ENGINE_OP_RUN (R272): operation by handle. -/
  | engineOpRun (h : Nat)
  /-- ENGINE_FIRING (R281): operation by handle. -/
  | engineFiring (h : Nat)
  /-- ENGINE_WRITE_COUNTED (R269): operation by handle. -/
  | engineWriteCounted (h : Nat)
  /-- ENGINE_OP_END (R271): operation by handle. -/
  | engineOpEnd (h : Nat)
  /-- COURIER_BLOCK_RETURN (R370): core, context, issuing wave, latency in ns. -/
  | courierBlockReturn (core pasid wk ns : Nat)
  /-- MATRIX_PASS (R301): pass by place in the queue; `flaw` is what faulty multipliers add to the pass's sums, by element 64 r + n (empty: none). -/
  | matrixPass (i : Nat) (flaw : List (Nat × BitVec 128))
  /-- KICK_REREAD (R79): function, waiting kick by place. -/
  | kickReread (fn i : Nat)
  /-- REPLAY_START (R80): function, route number. -/
  | replayStart (fn route : Nat)
  /-- NODE_BEGIN (R75): function, route and node. -/
  | nodeBegin (fn route node : Nat)
  /-- DEPENDENCE_REREAD (R70): consignment by handle. -/
  | dependenceReread (cons : Nat)
  /-- CONSIGNMENT_BEGIN (R71): consignment by handle. -/
  | consignmentBegin (cons : Nat)
  /-- CARAVAN_HANDOVER (R85): caravan by handle. -/
  | caravanHandover (cav : Nat)
  /-- CARAVAN_START (R85): caravan by handle. -/
  | caravanStart (cav : Nat)
  /-- CARAVAN_HOLD (R87): caravan by handle. -/
  | caravanHold (cav : Nat)
  /-- HOLD_PREEMPT (R357): held caravan by handle. -/
  | holdPreempt (cav : Nat)
  /-- CONSIGNMENT_COMPLETE (R72): consignment by handle. -/
  | consignmentComplete (cons : Nat)
  /-- PURSE_REFILL (R92): energy drawn by everything but the matrix engines in the previous µs, in 1/84000 nJ. -/
  | purseRefill (drawn : Nat)
  /-- GOVERNOR_STEP (R96): core, live lanes summed over, and number of, vector instructions of the previous µs. -/
  | governorStep (core live issued : Nat)
  /-- PARKLIM_EXPIRY (R354): path `eid` of wave `wk`. -/
  | parklimExpiry (wk eid : Nat)
  /-- CREW_REQUEUE_PLACE (R355): crew by handle. -/
  | crewRequeuePlace (crew : Nat)
  /-- WAVE_WATCHDOG_EXPIRY (R356): wave. -/
  | waveWatchdogExpiry (wk : Nat)
  /-- CREW_WATCHDOG_EXPIRY (R356): crew by handle. -/
  | crewWatchdogExpiry (crew : Nat)
  /-- CREW_SAVE (R358): crew by handle. -/
  | crewSave (crew : Nat)
  /-- CREW_RESTORE (R361): crew by handle. -/
  | crewRestore (crew : Nat)
  /-- ROUND_OPEN (R340): line of the bazaar plane. -/
  | roundOpen (line : Nat)
  /-- ROUND_CLOSE (R338): line of the bazaar plane. -/
  | roundClose (line : Nat)
  /-- TRACE_SAMPLE (R365): core, context. -/
  | traceSample (core pasid : Nat)
  /-- HOME_WRITE (R319): pending store by handle. -/
  | homeWrite (sid : Nat)
  /-- INVALIDATE (R319): receiving die, store by handle. -/
  | invalidate (die sid : Nat)
  /-- INVALIDATE_ACK (R319): acknowledging die, store by handle. -/
  | invalidateAck (die sid : Nat)
  /-- WAYSTATION_EVICT_REPORT (R319): reporting die, 4 KiB region of physical memory. -/
  | waystationEvictReport (die region : Nat)
  /-- REPLICA_LOCK (R321): replica die, store by handle. -/
  | replicaLock (die sid : Nat)
  /-- REPLICA_UPDATE (R321): replica die, store by handle. -/
  | replicaUpdate (die sid : Nat)
  /-- REPLICA_STALL_TIMEOUT (R322): path `eid` of wave `wk` whose load stalls. -/
  | replicaStallTimeout (wk eid : Nat)
  /-- CACHE_PARTIAL_MERGE (R235): pending store by handle, 32-bit word number of physical memory. -/
  | cachePartialMerge (sid w : Nat)
  /-- HBM_WRITE (R377): 64-byte block of physical memory. -/
  | hbmWrite (blk : Nat)
  /-- LEHR_WINDOW (R381): bank identity. -/
  | lehrWindow (bank : Nat)
  /-- LEHR_REENCODE_GROUP (R382): bank identity. -/
  | lehrReencodeGroup (bank : Nat)
  /-- HISTOGRAM_STORE (R383). -/
  | histogramStore
  /-- LINK_FAIL (R387): link number. -/
  | linkFail (link : Nat)
  /-- ENGINE_RESET (R386): function, SEQ and TARGET of the command. -/
  | engineReset (fn seq target : Nat)
  /-- LINK_RESET (R387): function, SEQ and TARGET of the command. -/
  | linkReset (fn seq target : Nat)
  /-- DIE_RESET (R388): function, SEQ and TARGET of the command. -/
  | dieReset (fn seq target : Nat)
  /-- DIE_RESET_COMPLETE (R388): die. -/
  | dieResetComplete (die : Nat)
  /-- HOME_STALL_TIMEOUT (R388): resetting home die, stalled store by handle. -/
  | homeStallTimeout (die sid : Nat)
  /-- PARTITION_RESET (R389): function, SEQ of the command. -/
  | partitionReset (fn seq : Nat)
  /-- RSTCMD_REFUSED (R385): function, value written. -/
  | rstcmdRefused (fn : Nat) (value : BitVec 64)
  /-- HARDWARE_PREFETCH (R254): core, wave on whose behalf, address. -/
  | hardwarePrefetch (core wk : Nat) (va : BitVec 64)
  /-- WAYSTATION_FILL (R319): requesting die, 64-byte block of physical memory. -/
  | waystationFill (die blk : Nat)
  /-- ACCEPT_DONE_RECEIVE (R319): store by handle. -/
  | acceptDoneReceive (sid : Nat)
  /-- REPLICA_LOCK_ACK (R321): replica die, store by handle. -/
  | replicaLockAck (die sid : Nat)
  /-- HOST_LINK_COMPLETION (R327): store by handle. -/
  | hostLinkCompletion (sid : Nat)
  /-- DIE_RESET_RESUME (R388): die. -/
  | dieResetResume (die : Nat)
  /-- RCMD_REGISTER (R73): function, route number. -/
  | rcmdRegister (fn route : Nat)
  /-- PRG_RESPONSE_INVALID (R256): function and Page Request Group index. -/
  | prgResponseInvalid (fn idx : Nat)
  /-- HOST_WRITE (R326): function, context, address, bytes, relaxed-ordering attribute. -/
  | hostWrite (fn pasid : Nat) (va : BitVec 64) (bytes : List (BitVec 8)) (relaxed : Bool)
  /-- HOST_READ (R326): function, context, address, length. -/
  | hostRead (fn pasid : Nat) (va : BitVec 64) (len : Nat)
  /-- REGISTER_WRITE (R392): writing function, BAR0 offset, width in bits, value. -/
  | registerWrite (fn off width : Nat) (value : BitVec 64)
  /-- SPDM_REQUEST (R399): function, request bytes. -/
  | spdmRequest (fn : Nat) (req : List (BitVec 8))
  /-- PACKAGE_RESET (R399): firmware image and its two signatures. -/
  | packageReset (image sig1 sig2 : List (BitVec 8))
  /-- FWLOAD (R400): image in the host buffer and its two signatures. -/
  | fwload (image sig1 sig2 : List (BitVec 8))
  /-- FLIT_RECEIVE (R398): port, whether the flit code checks. -/
  | flitReceive (port : Nat) (ok : Bool)
  /-- LINK_FLIT_RECEIVE (R387): link, whether the flit code checks. -/
  | linkFlitReceive (link : Nat) (ok : Bool)
  /-- PORT_TRAINED (R392): port. -/
  | portTrained (port : Nat)
  /-- HBM_READ (R378): block, symbols in error with their error patterns. -/
  | hbmRead (blk : Nat) (syms : List (Nat × BitVec 8))
  /-- LEHR_SCRUB (R380): block, symbols in error, whether a write entered coherence order after the read. -/
  | lehrScrub (blk : Nat) (syms : List (Nat × BitVec 8)) (raced : Bool)
  /-- HISTCLEAR (R400). -/
  | histclear
  /-- ATS_INVALIDATE (R259): context, first address and length of the invalidated range. -/
  | atsInvalidate (pasid : Nat) (va : BitVec 64) (size : Nat)
  /-- PRG_RESPONSE_SUCCESS (R256): function and Page Request Group index. -/
  | prgResponseSuccess (fn idx : Nat)
  /-- PRG_RESPONSE_FAILURE (R256): function and Page Request Group index. -/
  | prgResponseFailure (fn idx : Nat)
  /-- LINK_RETRAIN_DONE (R387): link number. -/
  | linkRetrainDone (link : Nat)
  /-- KICK (R79): function, width of the register write in bits, value written. -/
  | kick (fn width : Nat) (value : BitVec 64)
  /-- RCMD_RETIRE (R73): function, route number. -/
  | rcmdRetire (fn route : Nat)
  /-- RCMD_INVALID (R73): function, value written to RCMD. -/
  | rcmdInvalid (fn : Nat) (value : BitVec 64)
  /-- BPREL (R393): function, value written. -/
  | bprel (fn : Nat) (value : BitVec 64)
  /-- CTXCMD_LOAD (R394): function, context. -/
  | ctxcmdLoad (fn pasid : Nat)
  /-- CTXCMD_RETIRE (R394): function, context. -/
  | ctxcmdRetire (fn pasid : Nat)
  /-- LEHRACK (R382): function, bank identity. -/
  | lehrack (fn bank : Nat)
  /-- HISTREAD (R400): histogram number. -/
  | histread (arg : Nat)
  /-- PWRLIM_WRITE (R401): writing function, value. -/
  | pwrlimWrite (fn : Nat) (value : BitVec 64)
  /-- MGMTCMD_REFUSED (R400): value written. -/
  | mgmtcmdRefused (value : BitVec 64)
  /-- PRECMD_CONTEXT (R393): function, context. -/
  | precmdContext (fn pasid : Nat)
  /-- PRECMD_CONSIGNMENT (R393): function, route and node. -/
  | precmdConsignment (fn route node : Nat)
  /-- PTCTL_STOP (R395): writing function. -/
  | ptctlStop (fn : Nat)
  /-- PTCTL_RESUME (R395): writing function. -/
  | ptctlResume (fn : Nat)
  /-- POWER_LOSS (R383). -/
  | powerLoss
deriving DecidableEq, Repr

end Sys2Proof
end

