-- ==== Sys2Proof/Machine/Discipline.lean ====
section
/-!
DEFINITION. The field discipline of every instruction word: which fields an instruction uses, what they may hold, and
the lowest bit of the first field that offends (R105 to R120 and each instruction's own description). Checks are
listed from bit 0 upward, as R120 takes the fields.
-/
namespace Sys2Proof.Machine

/-- What the issuing wave allows: V registers, accumulator tiles, barriers, channel handles, the WIDs of its crew, its
own WID, and whether its object is of legacy width and it is the upper half-wave. -/
structure Lim where
  v     : Nat
  acc   : Nat
  nbar  : Nat
  nchan : Nat
  wids  : BitVec 16
  wid   : Nat
  w32   : Bool
  upper : Bool
deriving DecidableEq, Repr

/-- The largest allotment an object can declare (R62, R63): what well-formedness is judged by. -/
def limMax : Lim :=
  { v := 256, acc := 32, nbar := 16, nchan := 32, wids := 0xFFFF, wid := 0, w32 := false, upper := false }

/-- How an instruction uses a register field. -/
inductive Use where
  | none          -- unused: must be 0
  | any           -- every value is legal
  | vr            -- a V register (32-bit word)
  | vt            -- a V register, an even pair when TY is a 64-bit type
  | v64           -- an even V pair
  | vg (n : Nat)  -- n consecutive V registers, the first a multiple of n
  | sr            -- an S register
  | sPair         -- an even S register from 2 to 62 (R294)
  | br            -- a B register
  | bLow          -- a B register in the low 3 bits, the rest 0
  | bDst          -- a B register other than B7
  | pr            -- a P register
  | pLow          -- a P register in the low 4 bits, the rest 0
  | pDst          -- a P register other than P15
  | qr            -- a Q register in the low 4 bits, the rest 0
  | tile (n : Nat)   -- n consecutive accumulator tiles from the low 5 bits, the rest 0
  | upTo (n : Nat)   -- 0 to n
  | within (m n : Nat)  -- m to n
deriving DecidableEq, Repr

/-- The check of one register field that starts at bit `base`: the offending bit, if any. -/
def useErr (l : Lim) (wide : Bool) (base : Nat) (u : Use) (x : BitVec 8) : Option Nat :=
  let n := x.toNat
  let bad (ok : Bool) : Option Nat := if ok then none else some base
  let split (lo : Nat) (ok : Bool) : Option Nat :=
    if n % 2 ^ lo + 0 = n then (if ok then none else some base) else (if ok then some (base + lo) else some base)
  match u with
  | .none    => bad (n == 0)
  | .any     => none
  | .vr       => bad (n < l.v)
  | .vt      => bad (if wide then n % 2 == 0 && n + 1 < l.v else n < l.v)
  | .v64     => bad (n % 2 == 0 && n + 1 < l.v)
  | .vg k    => bad (n % k == 0 && n + k - 1 < l.v)
  | .sr       => bad (n ≤ 63)
  | .sPair   => bad (n % 2 == 0 && 2 ≤ n && n ≤ 62)
  | .br       => bad (n ≤ 7)
  | .bLow    => split 3 true
  | .bDst    => bad (n ≤ 6)
  | .pr       => bad (n ≤ 15)
  | .pLow    => split 4 true
  | .pDst    => bad (n ≤ 14)
  | .qr       => split 4 true
  | .tile k  => split 5 (n % 32 + k ≤ l.acc)
  | .upTo k  => bad (n ≤ k)
  | .within j k => bad (j ≤ n && n ≤ k)

/-- The first offending bit of a list of checks. (DEDUCED; log 24) -/
def firstBad : List (Option Nat) → Option Nat
  | [] => none
  | some b :: _ => some b
  | none :: t => firstBad t

def need (bit : Nat) (ok : Bool) : Option Nat := if ok then none else some bit

/-- What an instruction word asks of its fields: the first offending bit, if any (R120), and the V registers it names as
sources, each register of a pair or group by itself (R110). -/
structure Disc where
  err : Option Nat
  vs  : List Nat := []
deriving DecidableEq, Repr

/-- A discipline without V sources. -/
def Disc.of (e : Option Nat) : Disc := { err := e }

/-- The V registers that a source field names. -/
def useVs (wide : Bool) (u : Use) (x : BitVec 8) : List Nat :=
  let n := x.toNat
  match u with
  | .vr   => [n]
  | .vt   => if wide then [n, n + 1] else [n]
  | .v64  => [n, n + 1]
  | .vg k => (List.range k).map fun j => n + j
  | _     => []

/-! ## Types (R20) -/

def tyInt : List Nat := [1, 2, 3, 4, 5, 6, 7, 8]
def tyInt32 : List Nat := [1, 2, 3, 4, 5, 6]
def tySgn : List Nat := [1, 3, 5, 7]
def tyScalar : List Nat := [5, 6, 7, 8]
def tyFp : List Nat := [9, 10, 11, 12]
def tyBits : List Nat := [0, 8]
def tyAll : List Nat := [0, 1, 2, 3, 4, 5, 6, 7, 8, 9, 10, 11, 12, 13, 14, 15]

/-- Is the type a 64-bit one, that occupies an even-odd pair of V registers (R21)? -/
def tyWide (ty : BitVec 5) : Bool := ty == 7 || ty == 8 || ty == 12

/-! ## The A format -/

/-- How an A-format instruction uses its fields. `b` and `c` say how SB and SC are used; `bs` and `cs` that SCLS may
select an S register there. -/
structure AUse where
  c    : Bool := false
  sub  : Bool := true
  dst  : Use := .vt
  a    : Use := .vt
  b    : Use := .none
  bs   : Bool := false
  c3   : Use := .none
  cs   : Bool := false
  tys  : List Nat
  rm   : Bool := true
  sat  : Bool := false
  imm  : Bool := false
  hold : Bool := true
  scls : Option (BitVec 2) := none   -- a fixed SCLS, where the description requires one

def isVUse : Use → Bool
  | .vr => true | .vt => true | .v64 => true | .vg _ => true | _ => false

/-- The register class that SCLS gives SB (bit 0) or SC (bit 1). -/
def sclsUse (scls : BitVec 2) (bit : Nat) (may : Bool) (u : Use) : Use :=
  if may && scls.getLsbD bit then .sr else u

def aErr (l : Lim) (f : Fields) (u : AUse) : Disc :=
  let wide := tyWide f.ty && u.tys.contains f.ty.toNat
  let ub := sclsUse f.scls 0 u.bs u.b
  let uc := sclsUse f.scls 1 u.cs u.c3
  { vs := useVs wide u.a f.sa ++ (if f.immf then [] else useVs wide ub f.sb) ++ useVs wide uc f.sc
    err := firstBad [
    need 8 u.sub,
    need 12 (!u.c || 16 ≤ f.gsel.toNat),
    need 18 (f.hold == 0 || u.hold && !u.c &&
      ((f.hold == 1 && isVUse u.a) || (f.hold == 2 && isVUse ub && !f.immf) || (f.hold == 3 && isVUse uc))),
    useErr l wide 20 u.dst f.dst,
    useErr l wide 28 u.a f.sa,
    (if f.immf && u.imm then useErr l wide 36 .none f.sb else useErr l wide 36 ub f.sb),
    useErr l wide 44 uc f.sc,
    need 52 (u.tys.contains f.ty.toNat),
    need 57 u.rm,
    need 60 (u.sat || !f.sat),
    need 61 (u.imm || !f.immf),
    need 62 (match u.scls with
      | some k => f.scls == k
      | none => (u.bs && !f.immf || !f.scls.getLsbD 0) && (u.cs || !f.scls.getLsbD 1)),
    need 64 (f.immf || f.hi == 0)] }

def rmUpTo6 (f : Fields) : Bool := f.rm.toNat ≤ 6
def rmZero (f : Fields) : Bool := f.rm == 0
def subUpTo (f : Fields) (n : Nat) : Bool := f.sub.toNat ≤ n

/-- Scalar instructions of opcodes 0x01 to 0x16 (R128). -/
def scalarErr (l : Lim) (f : Fields) (subMax : Nat) (dst a b c3 : Use) (sat imm : Bool) : Disc :=
  aErr l f { c := true, sub := subUpTo f subMax, dst := dst, a := a, b := b, c3 := c3, tys := tyScalar,
             rm := rmZero f, sat := sat, imm := imm, scls := some 0 }

/-- Vector instructions whose B source is a V register, an S register or an immediate. -/
def vecErr (l : Lim) (f : Fields) (tys : List Nat) (sat : Bool) : Disc :=
  aErr l f { sub := subUpTo f 0, b := .vt, bs := true, tys := tys, rm := rmZero f, sat := sat, imm := true }

def fpErr (l : Lim) (f : Fields) (tys : List Nat) (subMax : Nat) (b c3 : Use) (rm sat : Bool) : Disc :=
  aErr l f { sub := subUpTo f subMax, b := b, bs := b != .none, c3 := c3, cs := c3 != .none, tys := tys,
             rm := if rm then rmUpTo6 f else rmZero f, sat := sat, imm := b != .none }

/-! ## The M format (R112, R230, R231) -/

def mOff (f : Fields) : BitVec 20 := f.hi.extractLsb' 0 20
def mHint (f : Fields) : BitVec 4 := f.hi.extractLsb' 20 4
def mScope (f : Fields) : BitVec 3 := f.hi.extractLsb' 24 3
def mOrd (f : Fields) : BitVec 2 := f.hi.extractLsb' 27 2
def mPol (f : Fields) : BitVec 3 := f.hi.extractLsb' 29 3

/-- Which ORD values an access takes (R231). -/
inductive Ords where
  | rlx | load | store | all | fence
deriving DecidableEq, Repr

def ordOk : Ords → BitVec 2 → Bool
  | .rlx, o => o == 0
  | .load, o => o == 0 || o == 1
  | .store, o => o == 0 || o == 2
  | .all, _ => true
  | .fence, o => o != 0

structure MUse where
  c    : Bool := false
  sub  : Bool := true
  dst  : Use := .none
  a    : Use := .sr
  c3   : Use := .none
  ty   : Bool := true
  scls : List Nat := [0, 1, 2]
  off  : Bool := true
  ords : Ords := .rlx
  scope : Option (List Nat) := none   -- a scope list of the instruction's own
  pol  : Bool := false
  hint : Bool := false

def mErr (l : Lim) (f : Fields) (u : MUse) : Disc :=
  let wide := tyWide f.ty
  let sb : Use := if u.scls == [2] then .none else if f.scls == 0 then .vr else if f.scls == 1 then .sr else .none
  { vs := useVs wide sb f.sb ++ useVs wide u.c3 f.sc
    err := firstBad [
    need 8 u.sub,
    need 12 (!u.c || 16 ≤ f.gsel.toNat),
    need 18 (f.hold == 0),
    useErr l wide 20 u.dst f.dst,
    useErr l wide 28 u.a f.sa,
    useErr l wide 36 sb f.sb,
    useErr l wide 44 u.c3 f.sc,
    need 52 u.ty,
    need 57 (f.rm == 0),
    need 60 (!f.sat),
    need 61 (!f.immf),
    need 62 (u.scls.contains f.scls.toNat),
    need 64 (u.off || mOff f == 0),
    need 84 (mHint f == 15 || u.hint && (mHint f).toNat ≤ 7),
    need 88 (match u.scope with
      | some k => k.contains (mScope f).toNat
      | none => if mOrd f == 0 then mScope f == 0 else (mScope f).toNat ≤ 5),
    need 91 (ordOk u.ords (mOrd f)),
    need 93 (if u.pol then (mPol f).toNat ≤ 3 else mPol f == 0)] }

def tyIs (f : Fields) (tys : List Nat) : Bool := tys.contains f.ty.toNat

/-! ## The J, L and Y formats (R113, R114, R117) -/

/-- The fields that J and Y instructions leave zero, with the uses of DST and SA. (DEDUCED; log 24) -/
def yErr (l : Lim) (f : Fields) (c sub : Bool) (dst a : Use) (hi : List (Option Nat)) : Option Nat :=
  firstBad ([
    need 8 sub,
    need 12 (!c || 16 ≤ f.gsel.toNat),
    need 18 (f.hold == 0),
    useErr l false 20 dst f.dst,
    useErr l false 28 a f.sa,
    need 36 (f.sb == 0),
    need 44 (f.sc == 0),
    need 52 (f.ty == 0),
    need 57 (f.rm == 0),
    need 60 (!f.sat),
    need 61 (!f.immf),
    need 62 (f.scls == 0)] ++ hi)

def yNum (f : Fields) : BitVec 16 := f.hi.extractLsb' 0 16

/-- NUM free, [95:80] zero. -/
def numAny (f : Fields) : List (Option Nat) := [need 80 (f.hi.extractLsb' 16 16 == 0)]
/-- NUM at most n bits wide, [95:80] zero. -/
def numBits (f : Fields) (n : Nat) : List (Option Nat) :=
  [need (64 + n) ((yNum f).toNat < 2 ^ n), need 80 (f.hi.extractLsb' 16 16 == 0)]
/-- The offset of the J format zero. -/
def hiZero (f : Fields) : List (Option Nat) := [need 64 (f.hi == 0)]

/-- Special registers (R134). -/
def isSpecial (n : Nat) : Bool :=
  n ≤ 7 || n == 0x10 || n == 0x11 || n == 0x18 || n == 0x20 || n == 0x21 || (0x28 ≤ n && n ≤ 0x2E) ||
  (0x30 ≤ n && n ≤ 0x33) || (0x38 ≤ n && n ≤ 0x3A)

/-- Special registers that only handler mode writes (R134). -/
def isHandlerOnly (n : Nat) : Bool :=
  n == 0x20 || n == 0x21 || (0x28 ≤ n && n ≤ 0x2E) || (0x30 ≤ n && n ≤ 0x33) || n == 0x39

/-- Context control registers (R146): the NUMs that R204, R220, R245, R324, R350 and R363 give. -/
def isContext (n : Nat) : Bool :=
  n == 0x100 || (0x110 ≤ n && n ≤ 0x113) || (0x120 ≤ n && n ≤ 0x12F) || (0x130 ≤ n && n ≤ 0x132) || n == 0x140 ||
  (0x150 ≤ n && n ≤ 0x152) || (0x160 ≤ n && n ≤ 0x167) || (0x170 ≤ n && n ≤ 0x178) || (0x180 ≤ n && n ≤ 0x18F)

def loopErr (l : Lim) (f : Fields) : Option Nat :=
  let immc := f.hi.getLsbD 28
  firstBad [
    need 8 (f.sub == 0), need 12 (16 ≤ f.gsel.toNat), need 18 (f.hold == 0),
    need 20 (f.dst.toNat ≤ 3),
    useErr l false 28 (if immc then .none else .sr) f.sa,
    need 36 (immc || (f.sb == 0 && f.sc == 0)),
    need 52 (f.ty == 0), need 57 (f.rm == 0), need 60 (!f.sat), need 61 (!f.immf), need 62 (f.scls == 0),
    need 64 (f.hi.extractLsb' 0 16 != 0),
    need 80 ((f.hi.extractLsb' 16 8).toNat % 8 == 0 && (f.hi.extractLsb' 16 8).toNat ≤ 64),
    need 88 ((f.hi.extractLsb' 24 4).toNat ≤ 8),
    need 93 (f.hi.extractLsb' 29 3 == 0)]

/-! ## The E format (R115, R267, R271, R282) -/

def eKi (f : Fields) : BitVec 5 := f.hi.extractLsb' 0 5
def eKiv (f : Fields) : Bool := f.hi.getLsbD 5
def eKo (f : Fields) : BitVec 5 := f.hi.extractLsb' 6 5
def eKov (f : Fields) : Bool := f.hi.getLsbD 11
def eOpf (f : Fields) : BitVec 16 := f.hi.extractLsb' 16 16

structure EUse where
  sub : Bool := true
  dst : Use := .sr
  a   : Use := .none
  b   : Use := .none
  c3  : Use := .none
  rnd : Bool := false          -- RM and SAT used
  ki  : Bool := false          -- KI may be used
  kiv : Bool := false          -- KIV must be 1
  ko  : Bool := false
  opf : List (Option Nat) := []

def eErr (l : Lim) (f : Fields) (u : EUse) : Option Nat :=
  firstBad ([
    need 8 u.sub, need 12 (16 ≤ f.gsel.toNat), need 18 (f.hold == 0),
    useErr l false 20 u.dst f.dst, useErr l false 28 u.a f.sa, useErr l false 36 u.b f.sb,
    useErr l false 44 u.c3 f.sc,
    need 52 (f.ty == 0),
    need 57 (if u.rnd then f.rm.toNat ≤ 6 && f.rm != 5 else f.rm == 0),
    need 60 (u.rnd || !f.sat), need 61 (!f.immf), need 62 (f.scls == 0),
    need 64 (if eKiv f then (eKi f).toNat < l.nchan else eKi f == 0),
    need 69 ((u.ki || !eKiv f) && (!u.kiv || eKiv f)),
    need 70 (if eKov f then (eKo f).toNat < l.nchan else eKo f == 0),
    need 75 (u.ko || !eKov f),
    need 76 (f.hi.extractLsb' 12 4 == 0)] ++ u.opf)

/-- OPF of the data instructions (R271). -/
def opfData (f : Fields) (ascl : Bool) : List (Option Nat) :=
  [need 80 (!f.hi.getLsbD 16 || f.dst != 0), need 81 (ascl || !f.hi.getLsbD 17), need 82 (f.hi.extractLsb' 18 6 == 0),
   need 88 (eKiv f || eKov f || f.hi.extractLsb' 24 8 == 0)]
def opfZero (f : Fields) : List (Option Nat) := [need 80 (eOpf f == 0)]
def opfCount (f : Fields) : List (Option Nat) := [need 80 (eOpf f != 0)]

/-! ## The X format (R116, R291 to R294, R304 to R307) -/

def xOctm (f : Fields) : BitVec 8 := f.hi.extractLsb' 0 8
def xAkind (f : Fields) : Bool := f.hi.getLsbD 8
def xBkind (f : Fields) : Bool := f.hi.getLsbD 9
def xBty (f : Fields) : BitVec 5 := f.hi.extractLsb' 10 5
def xAnch (f : Fields) : BitVec 8 := f.hi.extractLsb' 16 8

/-- Number of set bits of an octet mask. -/
def octCount (m : BitVec 8) : Nat :=
  (List.range 8).foldl (fun n j => if m.getLsbD j then n + 1 else n) 0

def ty8 (n : Nat) : Bool := n == 1 || n == 2 || n == 13 || n == 14

/-- The pairs of operand types that MMA takes (R292). -/
def mmaTypes (ta tb : Nat) : Bool :=
  (ty8 ta && (ty8 tb || tb == 15)) || (ta == 15 && (ty8 tb || tb == 15)) || ((ta == 9 || ta == 10) && (tb == 9 || tb == 10))

structure XUse where
  sub  : Bool := true
  tile : Bool := true          -- DST names tiles
  one  : Bool := false         -- DST names one tile, whatever OCTM holds
  a    : Use := .none
  b    : Use := .none
  ty   : Bool := true
  rm   : Bool := true
  sat  : Bool := false
  octm : Bool := true
  ak   : Bool := false
  bk   : Bool := false
  bty  : Bool := true
  anch : Bool := false

/-- The octets a legacy half-wave may name (R291). -/
def octHalf (l : Lim) (m : BitVec 8) : Bool :=
  !l.w32 || (if l.upper then m.extractLsb' 0 4 == 0 else m.extractLsb' 4 4 == 0)

def xErr (l : Lim) (f : Fields) (u : XUse) : Option Nat :=
  firstBad [
    need 8 u.sub, need 12 (16 ≤ f.gsel.toNat), need 18 (f.hold == 0),
    (if u.tile then useErr l false 20 (.tile (if u.one then 1 else octCount (xOctm f))) f.dst
     else useErr l false 20 .none f.dst),
    useErr l false 28 u.a f.sa, useErr l false 36 u.b f.sb,
    need 44 (f.sc == 0), need 52 u.ty, need 57 u.rm, need 60 (u.sat || !f.sat), need 61 (!f.immf),
    need 62 (f.scls == 0),
    need 64 (u.octm && octHalf l (xOctm f)),
    need 72 (u.ak || !xAkind f), need 73 ((u.bk || !xBkind f) && (!(l.w32 && u.bk) || xBkind f)),
    need 74 u.bty,
    need 79 (!f.hi.getLsbD 15), need 80 (u.anch || xAnch f == 0), need 88 (f.hi.extractLsb' 24 8 == 0)]

/-- A register group or a memory pair (R293, R294). -/
def xOperand (kind : Bool) (n : Nat) : Use := if kind then .sPair else .vg n

/-- MDRAIN and MLOAD name 8 registers per tile from a multiple of 8 (R304). -/
def drainUse (l : Lim) (f : Fields) : Bool :=
  xAkind f || (f.sa.toNat % 8 == 0 && f.sa.toNat + 8 * octCount (xOctm f) ≤ l.v)

/-! ## Every word instruction -/

def vcvtErr (l : Lim) (f : Fields) : Disc :=
  let s := f.sub.toNat; let d := f.ty.toNat
  aErr l f { sub := s != 0 && !(tyInt.contains s && tyInt.contains d), dst := .vt,
             a := if s == 7 || s == 8 || s == 12 then .v64 else .vr,
             tys := [1, 2, 3, 4, 5, 6, 7, 8, 9, 10, 11, 12, 13, 14, 15],
             rm := rmUpTo6 f && !(d == 15 && f.rm == 6), sat := true }

def vatomTys (sub : Nat) : List Nat :=
  if sub ≤ 2 then [5, 6, 7, 8] else if sub ≤ 7 then [0, 8] else if sub == 8 then [11] else []

def regroupErr (l : Lim) (f : Fields) : Option Nat :=
  let cnt := (f.hi.extractLsb' 8 7).toNat
  let wm := f.hi.extractLsb' 16 16
  firstBad [
    need 8 (f.sub == 0), need 18 (f.hold == 0), need 20 (f.dst == 0),
    need 28 (f.sa.toNat < l.v && f.sa.toNat + cnt ≤ l.v), need 36 (f.sb == 0), need 44 (f.sc == 0),
    need 52 (f.ty == 0), need 57 (f.rm == 0), need 60 (!f.sat), need 61 f.immf, need 62 (f.scls == 0),
    need 72 (1 ≤ cnt && cnt ≤ 64), need 79 (!f.hi.getLsbD 15),
    need 80 (wm.getLsbD l.wid && (wm &&& ~~~l.wids) == 0)]

def pmovErr (l : Lim) (f : Fields) : Disc :=
  let s := f.sub.toNat
  aErr l f { sub := s ≤ 3,
             dst := if s == 1 then .sr else if s == 3 then .vr else .pDst,
             a := if s == 0 then .none else if s == 2 then .vr else .pr,
             b := if s == 0 then .vr else .none, bs := s == 0, tys := [0], rm := rmZero f, imm := s == 0,
             scls := some (if s == 0 && !f.immf then 1 else 0) }

def dataErr (l : Lim) (f : Fields) (sub : Bool) (a b c3 : Use) (rnd ki ko ascl : Bool) : Option Nat :=
  eErr l f { sub := sub, a := a, b := b, c3 := c3, rnd := rnd, ki := ki, ko := ko, opf := opfData f ascl }

def objErr (l : Lim) (f : Fields) (sub : Bool) (dst c3 : Use) (ords : Ords) : Disc :=
  mErr l f { c := true, sub := sub, dst := dst, c3 := c3, ty := f.ty == 0, scls := [2], ords := ords }

def cbarErr (l : Lim) (f : Fields) (sub : Nat) : Option Nat :=
  yErr l f true (f.sub.toNat == sub) (if sub == 2 then .sr else .none) .none
    [need 64 ((yNum f).toNat % 16 < l.nbar),
     need 68 (if sub == 2 then (yNum f).toNat / 16 % 32 == 0 else (yNum f).toNat / 16 % 32 ≤ 16),
     need 73 ((yNum f).toNat < 2 ^ 9), need 80 (f.hi.extractLsb' 16 16 == 0)]

/-- CMAINT with SUB n: POL and HINT are unused (R244). (DEDUCED; log 24) -/
def cmaintErr (l : Lim) (f : Fields) (n : Nat) : Disc :=
  mErr l f { c := true, sub := f.sub.toNat == n, ty := f.ty == 0, scls := [2], scope := some [2, 3, 4] }

def atomData (f : Fields) : Use :=
  if f.sub == 7 then (if tyWide f.ty then .vg 4 else .vg 2) else .vt

/-- Is the opcode an instruction (R118, R119)? -/
def isOpcode (n : Nat) : Bool :=
  n ≤ 0x19 || (0x20 ≤ n && n ≤ 0x2D) || (0x30 ≤ n && n ≤ 0x3A) ||
  (0x40 ≤ n && n ≤ 0x5E) || (0x70 ≤ n && n ≤ 0x83) || (0x90 ≤ n && n ≤ 0x9A) || (0xA0 ≤ n && n ≤ 0xAE) || (0xC0 ≤ n && n ≤ 0xCA) || (0xD0 ≤ n && n ≤ 0xD5) || (0xE0 ≤ n && n ≤ 0xEC)

/-- The field discipline of every instruction word under the limits `l`. Events have no fields to offend; the opcode of a
word without an instruction is none (R119). (DEDUCED; log 24) -/
def disc (l : Lim) : Instr → Disc
  | .nop f => .of (firstBad [need 8 (f.sub == 0), need 12 (f.gsel == 0), need 17 (!f.gneg),
           yErr l f false true .none .none [need 64 (f.hi == 0)]])
  | .sadd f => scalarErr l f 0 .sr .sr .sr .none true true
  | .ssub f => scalarErr l f 0 .sr .sr .sr .none true true
  | .smul f => scalarErr l f 0 .sr .sr .sr .none false true
  | .smulh f => scalarErr l f 0 .sr .sr .sr .none false true
  | .sdiv f => scalarErr l f 0 .sr .sr .sr .none false true
  | .srem f => scalarErr l f 0 .sr .sr .sr .none false true
  | .sand f => scalarErr l f 0 .sr .sr .sr .none false true
  | .sor f => scalarErr l f 0 .sr .sr .sr .none false true
  | .sxor f => scalarErr l f 0 .sr .sr .sr .none false true
  | .sshl f => scalarErr l f 0 .sr .sr .sr .none false true
  | .sshr f => scalarErr l f 0 .sr .sr .sr .none false true
  | .ssra f => scalarErr l f 0 .sr .sr .sr .none false true
  | .smin f => scalarErr l f 0 .sr .sr .sr .none false true
  | .smax f => scalarErr l f 0 .sr .sr .sr .none false true
  | .smov f => scalarErr l f 0 .sr .none .sr .none false true
  | .ssel f => scalarErr l f 0 .sr .sr .sr .bLow false true
  | .scmp f => scalarErr l f 5 .bDst .sr .sr .none false true
  | .slea f => scalarErr l f 4 .sr .sr .sr .none false true
  | .sclz f => scalarErr l f 0 .sr .sr .none .none false false
  | .spopc f => scalarErr l f 0 .sr .sr .none .none false false
  | .sbfx f => scalarErr l f 0 .sr .sr .sr .none false true
  | .sbfi f => scalarErr l f 0 .sr .sr .sr .sr false true
  | .sread f =>
      let lane := yNum f == 0
      .of (yErr l f true (f.sub == if lane then 1 else 0) (if lane then .vr else .sr) .none
        [need 64 (isSpecial (yNum f).toNat), need 80 (f.hi.extractLsb' 16 16 == 0)])
  | .swrite f => .of (yErr l f true (f.sub == 0) .none .sr
             [need 64 (isSpecial (yNum f).toNat), need 80 (f.hi.extractLsb' 16 16 == 0)])
  | .blop f => aErr l f { c := true, sub := subUpTo f 5, dst := .bDst, a := .br, b := .br, tys := [0], rm := rmZero f,
                          scls := some 0 }
  | .bra f => .of (yErr l f true (f.sub == 0) .none .none [])
  | .brx f => .of (yErr l f true (f.sub == 0) .none .sr (hiZero f))
  | .call f => .of (yErr l f true (f.sub == 0) .none .none [])
  | .callx f => .of (yErr l f true (f.sub == 0) .none .sr (hiZero f))
  | .ret f => .of (yErr l f true (f.sub == 0) .none .none (hiZero f))
  | .brv f => .of (yErr l f false (f.sub == 0) .none .none [])
  | .rcv f => .of (yErr l f true (f.sub == 0) .none .none (hiZero f))
  | .loop f => .of (loopErr l f)
  | .lbrk f => .of (yErr l f true (f.sub == 0) .none .none (numBits f 0))
  | .lsave f => mErr l f { c := true, sub := f.sub == 0, ty := f.ty == 0, scls := [2] }
  | .lrest f => mErr l f { c := true, sub := f.sub == 0, ty := f.ty == 0, scls := [2] }
  | .exit f => .of (yErr l f true (f.sub == 0) .none .none (numBits f 0))
  | .yield f => .of (yErr l f true (f.sub == 0) .none .none (numBits f 0))
  | .sleep f => .of (yErr l f true (f.sub == 0) .none .none (numAny f))
  | .trap f => .of (yErr l f true (f.sub == 0) .none .none (numAny f))
  | .tretRetry f => .of (yErr l f true (f.sub == 0) .none .none (need 64 (!(yNum f).getLsbD 0) :: need 65 ((yNum f).toNat < 2) :: numAny f))
  | .tretSkip f => .of (yErr l f true (f.sub == 0) .none .none (need 64 ((yNum f).getLsbD 0) :: need 65 ((yNum f).toNat < 2) :: numAny f))
  | .fence f => mErr l f { c := true, sub := f.sub == 0, dst := .sr, a := .none, ty := f.ty == 0, scls := [2],
                           off := false, ords := .fence, scope := some [0, 1, 2, 3, 4, 5] }
  | .fenceq f => .of (yErr l f true (f.sub == 0) .none .none (numBits f 0))
  | .fencei f => .of (yErr l f true (f.sub == 0) .none .none (numBits f 0))
  | .setpri f => .of (yErr l f true (f.sub == 0) .none .none (numBits f 2))
  | .gensync f => .of (yErr l f true (f.sub == 0) .sr .none (numBits f 0))
  | .csrd f => .of (yErr l f true (f.sub == 0) .sr .none (need 64 (isContext (yNum f).toNat) :: numAny f))
  | .cswr f => .of (yErr l f true (f.sub == 0) .none .sr (need 64 (isContext (yNum f).toNat) :: numAny f))
  | .tlbinv f => mErr l f { c := true, sub := subUpTo f 2, a := if f.sub == 2 then .none else .sr, ty := f.ty == 0,
                            scls := [2], off := f.sub != 2, scope := some [3, 4] }
  | .probe f => mErr l f { c := true, sub := subUpTo f 3, dst := .sr, ty := f.ty == 0, scls := [2] }
  | .vadd f => vecErr l f tyInt true
  | .vsub f => vecErr l f tyInt true
  | .vmul f => vecErr l f tyInt32 false
  | .vmulh f => vecErr l f tyInt32 false
  | .vmad f => aErr l f { sub := subUpTo f 0, b := .vt, bs := true, c3 := .vt, cs := true, tys := tyInt32,
                          rm := rmZero f, imm := true }
  | .vand f => vecErr l f tyBits false
  | .vor f => vecErr l f tyBits false
  | .vxor f => vecErr l f tyBits false
  | .vandn f => vecErr l f tyBits false
  | .vshl f => vecErr l f tyInt false
  | .vshr f => vecErr l f tyInt false
  | .vsra f => vecErr l f tySgn false
  | .vmin f => vecErr l f tyInt false
  | .vmax f => vecErr l f tyInt false
  | .vabs f => aErr l f { sub := subUpTo f 0, tys := tySgn, rm := rmZero f, sat := true }
  | .vneg f => aErr l f { sub := subUpTo f 0, tys := tyInt, rm := rmZero f, sat := true }
  | .vcmp f => aErr l f { sub := subUpTo f 5, dst := .pDst, b := .vt, bs := true, tys := tyInt, rm := rmZero f,
                          imm := true }
  | .vsel f => aErr l f { sub := subUpTo f 0, b := .vt, bs := true, c3 := .pLow, tys := 0 :: tyInt, rm := rmZero f,
                          imm := true }
  | .vmov f => aErr l f { sub := subUpTo f 0, a := .none, b := .vt, bs := true, tys := 0 :: tyInt, rm := rmZero f,
                          imm := true }
  | .vpopc f => aErr l f { sub := subUpTo f 0, tys := [0, 2, 4, 6], rm := rmZero f }
  | .vclz f => aErr l f { sub := subUpTo f 0, tys := [0, 2, 4, 6], rm := rmZero f }
  | .vbfx f => vecErr l f [5, 6] false
  | .vbfi f => aErr l f { sub := subUpTo f 0, b := .vt, bs := true, c3 := .vt, cs := true, tys := [6], rm := rmZero f,
                          imm := true }
  | .vadds f => aErr l f { sub := subUpTo f 0, b := .vt, bs := true, c3 := .vt, cs := true, tys := tyInt32,
                           rm := rmZero f, sat := true, imm := true }
  | .vdot4 f => aErr l f { sub := subUpTo f 0, b := .vt, bs := true, c3 := .vt, cs := true, tys := [1, 2],
                           rm := rmZero f, sat := true, imm := true }
  | .viota f => aErr l f { sub := subUpTo f 0, a := .none, tys := [6], rm := rmZero f }
  | .vres f => aErr l f { sub := subUpTo f 0, tys := [6], rm := rmZero f }
  | .plop f => aErr l f { sub := subUpTo f 5, dst := .pDst, a := .pr, b := if 4 ≤ f.sub.toNat then .none else .pr,
                          tys := [0], rm := rmZero f, scls := some 0 }
  | .pmov f => pmovErr l f
  | .vcvti f => aErr l f { sub := 1 ≤ f.sub.toNat && f.sub.toNat ≤ 8,
                           a := if f.sub == 7 || f.sub == 8 then .v64 else .vr, tys := tyInt, rm := rmZero f, sat := true }
  | .vdymul f => aErr l f { sub := subUpTo f 0, b := .vr, bs := true, tys := [1, 3, 5], rm := rmZero f, sat := true,
                            imm := true }
  | .vfadd f => fpErr l f tyFp 0 .vt .none true true
  | .vfsub f => fpErr l f tyFp 0 .vt .none true true
  | .vfmul f => fpErr l f tyFp 0 .vt .none true true
  | .vfma f => fpErr l f tyFp 3 .vt .vt true true
  | .vfmin f => fpErr l f tyFp 1 .vt .none false false
  | .vfmax f => fpErr l f tyFp 1 .vt .none false false
  | .vfcmp f => aErr l f { sub := subUpTo f 7, dst := .pDst, b := .vt, bs := true, tys := tyFp, rm := rmZero f,
                           imm := true }
  | .vfsgn f => fpErr l f tyFp 4 (if 3 ≤ f.sub.toNat then .none else .vt) .none false false
  | .vfrcp f => fpErr l f tyFp 0 .none .none true true
  | .vfrsq f => fpErr l f tyFp 0 .none .none true true
  | .vfex2 f => fpErr l f [9, 10, 11] 0 .none .none true true
  | .vflg2 f => fpErr l f [9, 10, 11] 0 .none .none true true
  | .vfcls f => aErr l f { sub := subUpTo f 0, dst := .vr, tys := [9, 10, 11, 12, 13, 14], rm := rmZero f }
  | .vfrnd f => fpErr l f tyFp 0 .none .none true false
  | .vcvt f => vcvtErr l f
  | .vseed f => aErr l f { sub := subUpTo f 0, dst := .none, a := .none, b := .vr, bs := true, tys := [6],
                           rm := rmZero f, imm := true, hold := false }
  | .vfdot2 f => fpErr l f [9, 10] 0 .vr .vr true true
  | .vpack f =>
      if f.ty == 9 || f.ty == 10 || f.ty == 3 || f.ty == 4 then
        aErr l f { sub := subUpTo f 0, b := .vr, bs := true, tys := [3, 4, 9, 10], rm := rmZero f }
      else
        aErr l f { sub := subUpTo f 1, b := .vr, bs := true, c3 := .vr, cs := true, tys := [1, 2, 13, 14, 15],
                   rm := rmZero f }
  | .vunpk f => aErr l f { sub := subUpTo f (if f.ty == 9 || f.ty == 10 || f.ty == 3 || f.ty == 4 then 1 else 3),
                           tys := [1, 2, 3, 4, 9, 10, 13, 14, 15], rm := rmZero f }
  | .vqscl f =>
      if f.sub == 0 then
        aErr l f { b := .vr, bs := true, tys := [1, 13, 14, 15], rm := rmUpTo6 f && !(f.ty == 15 && f.rm == 6),
                   sat := true, imm := true }
      else aErr l f { sub := subUpTo f 1, tys := [1, 13, 14, 15], rm := rmZero f }
  | .vshfl f => aErr l f { sub := subUpTo f 3, b := .vr, bs := true, c3 := .vt, cs := true, tys := tyBits,
                           rm := rmZero f, imm := true }
  | .vlrot f => aErr l f { sub := subUpTo f 2, b := .vr, bs := true, c3 := .vt, cs := true, tys := tyBits,
                           rm := rmZero f, imm := true }
  | .vreadl f => aErr l f { sub := subUpTo f 0, dst := .sr, b := .sr, c3 := .sr, tys := tyBits, rm := rmZero f,
                            imm := true, scls := some (if f.immf then 2 else 3) }
  | .vvote f =>
      let s := f.sub.toNat
      aErr l f { sub := s ≤ 3, dst := if s == 0 then .sr else .bDst, a := if s == 3 then .vr else .pr, tys := [0],
                 rm := rmZero f }
  | .vscan f => aErr l f { sub := subUpTo f 3, tys := tyInt32, rm := rmZero f }
  | .vred f => aErr l f { sub := subUpTo f 5, dst := .sr, tys := if f.sub.toNat ≤ 2 then tyInt else tyBits,
                          rm := rmZero f }
  | .regroup f => .of (regroupErr l f)
  | .vcprs f => aErr l f { sub := subUpTo f 0, b := .pLow, c3 := .vt, cs := true, tys := tyBits, rm := rmZero f }
  | .setexm f => aErr l f { sub := subUpTo f 0, dst := .none, a := .none, b := .sr, tys := [0], rm := rmZero f,
                            hold := false, scls := some 1 }
  | .getexm f => aErr l f { sub := subUpTo f 1, dst := .sr, a := .none, tys := [0], rm := rmZero f, hold := false }
  | .pathinfo f => aErr l f { sub := subUpTo f 0, dst := .sr, a := .none, tys := [0], rm := rmZero f, hold := false }
  | .vld f =>
      let n := f.sub.toNat
      mErr l f { sub := n ≤ 2 && (n == 0 || tyIs f [0, 5, 6, 11]), dst := if n == 0 then .vt else .vg (2 ^ n),
                 ty := tyIs f tyAll, ords := .load, pol := true, hint := true }
  | .vst f =>
      let n := f.sub.toNat
      mErr l f { sub := n ≤ 2 && (n == 0 || tyIs f [0, 5, 6, 11]), c3 := if n == 0 then .vt else .vg (2 ^ n),
                 ty := tyIs f tyAll, ords := .store, pol := true, hint := true }
  | .vlds f => mErr l f { sub := f.sub == 0, dst := .vt, ty := tyIs f tyAll, scls := [1], ords := .load, pol := true,
                          hint := true }
  | .vsts f => mErr l f { sub := f.sub == 0, c3 := .vt, ty := tyIs f tyAll, scls := [1], ords := .store, pol := true,
                          hint := true }
  | .sld f => mErr l f { c := true, sub := f.sub == 0, dst := .sr, ty := tyIs f tyAll, scls := [1, 2], ords := .load,
                         pol := true, hint := true }
  | .sst f => mErr l f { c := true, sub := f.sub == 0, c3 := .sr, ty := tyIs f tyAll, scls := [1, 2], ords := .store,
                         pol := true, hint := true }
  | .vatom f => mErr l f { sub := subUpTo f 8, dst := .vt, c3 := atomData f, ty := tyIs f (vatomTys f.sub.toNat),
                           ords := .all, pol := true, hint := true }
  | .satom f => mErr l f { c := true, sub := subUpTo f 8, dst := .sr,
                           c3 := if f.sub == 7 then .within 1 62 else .sr,
                           ty := tyIs f (vatomTys f.sub.toNat), scls := [1, 2],
                           ords := .all, pol := true, hint := true }
  | .vprf f => mErr l f { sub := subUpTo f 2, ty := f.ty == 0, hint := true }
  | .ldq f => mErr l f { c := true, sub := f.sub == 0, dst := .qr,
                         ty := f.ty == 0, scls := [2], ords := .load }
  | .stq f => mErr l f { c := true, sub := f.sub == 0, c3 := .qr,
                         ty := f.ty == 0, scls := [2], ords := .store }
  | .setq f => aErr l f { c := true, sub := subUpTo f 0, dst := .qr, a := .none, b := .sr, c3 := .upTo 14, tys := [0],
                          rm := rmZero f, imm := true, scls := some 0 }
  | .getq f => aErr l f { c := true, sub := subUpTo f 0, dst := .sr, a := .qr, c3 := .upTo 14, tys := [0],
                          rm := rmZero f, scls := some 0 }
  | .cmaintWb f => cmaintErr l f 0
  | .cmaintInv f => cmaintErr l f 1
  | .cmaintWbinv f => cmaintErr l f 2
  | .cmaintZero f => cmaintErr l f 3
  | .vldf f => mErr l f { sub := f.sub == 0, dst := .vr, ty := f.ty == 4, ords := .load, pol := true, hint := true }
  | .xcopy f => .of (dataErr l f (f.sub == 0) .qr .qr .none true true true true)
  | .xgath f => .of (dataErr l f (f.sub == 0) .qr .qr .none true true true true)
  | .xscat f => .of (dataErr l f (f.sub == 0) .qr .qr .none true true true true)
  | .xform f => .of (dataErr l f (f.sub == 0) .qr .qr .sr true true true true)
  | .xfill f => .of (dataErr l f (f.sub == 0) .none .qr .sr false false true true)
  | .xcoll f => .of (dataErr l f (subUpTo f 3) .qr .qr .sr true false false false)
  | .chbind f => .of (eErr l f { sub := f.sub == 0, dst := .none, c3 := .sr, ki := true, kiv := true, opf := opfZero f })
  | .chput f => .of (eErr l f { sub := f.sub == 0, dst := .none, ki := true, kiv := true, opf := opfCount f })
  | .chtake f => .of (eErr l f { sub := f.sub == 0, dst := .none, ki := true, kiv := true, opf := opfCount f })
  | .chwaitData f => .of (eErr l f { sub := f.sub == 0, dst := .none, ki := true, kiv := true, opf := opfCount f })
  | .chwaitRoom f => .of (eErr l f { sub := f.sub == 1, dst := .none, ki := true, kiv := true, opf := opfCount f })
  | .xstat f => .of (eErr l f { sub := subUpTo f 5, ki := f.sub == 4, kiv := f.sub == 4, opf := opfZero f })
  | .mma f => .of (xErr l f { sub := f.sub == 0, a := xOperand (xAkind f) 16, b := xOperand (xBkind f) 16,
                              ty := (mmaTypes f.ty.toNat (xBty f).toNat || mmaTypes f.ty.toNat 1 || mmaTypes f.ty.toNat 9),
                              rm := rmZero f, octm := xOctm f != 0, ak := true, bk := true,
                              bty := mmaTypes f.ty.toNat (xBty f).toNat, anch := true })
  | .mzero f => .of (xErr l f { sub := f.sub == 0, ty := f.ty == 0, rm := rmZero f, octm := xOctm f != 0,
                                bty := xBty f == 0, anch := true })
  | .mdrain f => .of (xErr l f { sub := subUpTo f 1, a := if xAkind f then .sPair else if drainUse l f then .any else .within 1 0,
                                 ty := tyIs f [9, 10, 11], rm := rmUpTo6 f, sat := true, octm := xOctm f != 0, ak := true,
                                 bty := xBty f == 0 })
  | .mload f => .of (xErr l f { sub := subUpTo f 1, a := if xAkind f then .sPair else if drainUse l f then .any else .within 1 0,
                                ty := tyIs f [5, 9, 10, 11], rm := rmZero f, octm := xOctm f != 0, ak := true,
                                bty := xBty f == 0 })
  | .mtoken f =>
      .of (xErr { l with w32 := false } f
             { sub := f.sub == 0, tile := false, ty := f.ty == 0, rm := rmZero f,
               octm := 1 ≤ (xOctm f).toNat && (xOctm f).toNat ≤ 32, bty := xBty f == 0 })
  | .mstatTile f => .of (xErr l f { sub := f.sub == 0, one := true, a := .sr, ty := f.ty == 0, rm := rmZero f,
                                    octm := xOctm f == 0, bty := xBty f == 0 })
  | .mstatCnt f => .of (xErr l f { sub := f.sub == 1, tile := false, a := .sr, ty := f.ty == 0, rm := rmZero f,
                                   octm := xOctm f == 0, bty := xBty f == 0 })
  | .binit f => objErr l f (f.sub == 0) .none .sr .rlx
  | .barrive f => objErr l f (f.sub == 0) .none .none .store
  | .bwait f => objErr l f (subUpTo f 1) .none .sr .load
  | .btest f => objErr l f (f.sub == 0) .bDst .sr .load
  | .cbarSync f => .of (cbarErr l f 0)
  | .cbarArrive f => .of (cbarErr l f 1)
  | .cbarRec f => .of (cbarErr l f 2)
  | .contend f =>
      .of (firstBad [(aErr l { f with hi := 0 }
                       { c := true, sub := subUpTo f 0, dst := .none, a := .sr, b := .sr, c3 := .sr,
                         tys := [0], rm := rmZero f, imm := true, scls := some 0 }).err,
                     need 64 (f.immf || f.hi == 0), need 72 (!f.immf || f.hi.toNat < 256)])
  | .cresultWait f => aErr l f { c := true, sub := f.sub == 0, dst := .sr, a := .none, tys := [0], rm := rmZero f,
                                 scls := some 0 }
  | .cresultTest f => aErr l f { c := true, sub := f.sub == 1, dst := .sr, a := .none, tys := [0], rm := rmZero f,
                                 scls := some 0 }
  | .cwithdraw f => aErr l f { c := true, sub := f.sub == 0, dst := .sr, a := .none, tys := [0], rm := rmZero f,
                               scls := some 0 }
  | .mark f => .of (yErr l f true (f.sub == 0) .none .none (numAny f))
  | .brkpt f => .of (yErr l f true (f.sub == 0) .none .none (numAny f))
  | .rplbeginRec f => .of (yErr l f true (f.sub == 0) .none .sr (numBits f 0))
  | .rplbeginCmp f => .of (yErr l f true (f.sub == 1) .none .sr (numBits f 0))
  | .rplend f => .of (yErr l f true (f.sub == 0) .none .none (numBits f 0))
  | .snap f => .of (yErr l f true (f.sub == 0) .none .sr (numBits f 0))
  | .illegalOp w => .of (need 0 (!isOpcode (w.extractLsb' 0 8).toNat))
  | _ => .of none

/-- The first offending bit of instruction `i` under the limits `l`, or none where every field is legal (R120). -/
def fieldErr (l : Lim) (i : Instr) : Option Nat := (disc l i).err

/-- The V registers that an instruction word names as sources (R110). The register groups of the matrix array are no part of
it: passes read them after issue (R299). (DEDUCED; log 29) -/
def vSources (l : Lim) (i : Instr) : List Nat := (disc l i).vs

end Sys2Proof.Machine
end

