-- ==== Sys2Proof/Machine/State.lean ====
section
/-!
DEFINITION. The state of the EXK-940 as plain data: every piece of state the spec names, the reasons a step can stop,
and the state right after package reset. What reads and writes it stands in the other files of this folder.
-/
namespace Sys2Proof.Machine

/-- Reasons the machine stops. -/
inductive Fault where
  /-- Raised by an access to physical memory that is not translated (STK backing, save record, context block) and
  whose address names neither device HBM nor host memory (R249). Safe: the machine stops where the spec gives no
  memory. -/
  | noSuchMemory (pa : Nat)
deriving DecidableEq, Repr

/-- Reasons an instruction has no meaning. -/
inductive Refusal where
  /-- Raised by an arm of `exec` that has no meaning yet. Safe: nothing is claimed of it. -/
  | notModelled (mnemonic : String)
deriving DecidableEq, Repr

/-! ## Values -/

/-- An exact value: a finite one is (−1)^neg × m × 2^e, with `more` when its magnitude lies above that by less than any
bit that rounding looks at. -/
inductive FV where
  | nan
  | inf (neg : Bool)
  | fin (neg : Bool) (m : Nat) (e : Int) (more : Bool)
deriving DecidableEq, Repr

/-! ## Memory -/

/-- The sideband pair of a 64-byte block (R54). -/
structure Pair where
  fmt   : BitVec 8
  scale : BitVec 8
deriving DecidableEq, Repr

/-- The content of a memory, in canonical form. `cells` lists the bytes that differ from 0; `resx` the 32-bit words
(by word number) whose carried residue differs from the residue of their bits (poison included, R40); `pairs` the
64-byte blocks (by block number) whose pair is not RAW and 127; `marks` the 64-byte blocks that HBM holds as poisoned
sectors (R257), rising. -/
structure Mem where
  cells : List Host.Cell
  resx  : SMap (BitVec 4)
  pairs : SMap Pair
  marks : List Nat
deriving DecidableEq, Repr

/-- A 64-byte block with the residues of its 16 words and its pair, as a cache holds it. -/
structure Blk where
  data : BitVec 512
  rs   : BitVec 64
  pair : Pair
deriving DecidableEq, Repr

/-- A copy of block `blk` in the L1D of `core` (numbered 48 × die + COREID; R227), pinned by crew `pin` (R229); `inv`: an
invalidation has reached it and takes effect once the core's stores to the block are performed at home (R314). -/
structure L1Copy where
  core : Nat
  blk  : Nat
  data : Blk
  pin  : Option Nat
  inv  : Bool
deriving DecidableEq, Repr

/-- A copy of block `blk` in the waystation cache of `die` (R228). -/
structure WayCopy where
  die  : Nat
  blk  : Nat
  data : Blk
deriving DecidableEq, Repr

/-- Where a store stands on its way home (R314, R319). -/
inductive StoreStage where
  | buffered   -- core-visible only
  | sent       -- on its way to a remote home: the writer's die has taken it (R319)
  | locking    -- replicated page: locks sent, home not written (R321 step 1)
  | atHome     -- performed at home, acknowledgements outstanding
  | done       -- DONE, or for host memory the flushing read, may be returned
deriving DecidableEq, Repr

/-- One store of a wave or an engine operation to one 64-byte block of physical memory. -/
structure PStore where
  sid    : Nat
  seq    : Nat               -- its place in the order in which its die sent stores (R319)
  pasid  : Nat
  va     : Option Nat        -- virtual address of the block, where it is translated
  tag    : BitVec 16         -- generation of its translation (R251)
  hm     : Bool              -- issued in handler mode
  after  : List Nat          -- stores on their way that its agent has observed before it (R323)
  core   : Nat
  wk     : Nat               -- issuing wave
  eid    : Nat               -- issuing path
  crew   : Nat               -- crew by handle
  cons   : Nat               -- its consignment by handle
  op     : Option Nat        -- engine operation that wrote it
  blk    : Nat
  mask   : BitVec 64         -- bytes written
  data   : BitVec 512
  poison : BitVec 16         -- words whose store data carries residue 15
  pair   : Pair
  home   : Nat               -- home die
  rep    : Bool              -- replicated page (R321)
  relSy  : Bool              -- write of a release at system scope (R327)
  stage  : StoreStage
  wait   : BitVec 8          -- dies whose acknowledgement or unlock is outstanding
  got    : BitVec 8          -- replica dies that have acknowledged the lock
  told   : Bool              -- ACCEPT has reached the writer's die
  part   : BitVec 16         -- partial words still to be merged at home (R235)
  t0     : BitVec 64         -- package time of its acceptance
deriving DecidableEq, Repr

/-- A translation held by a die (R251): leaf entry of the page at `va` (its page-aligned address), with the
generation tag and the poison bits that came with the fill. -/
structure Tlb where
  die   : Nat
  pasid : Nat
  va    : Nat
  bits  : Nat                -- page size is 2^bits
  leaf  : BitVec 64
  gen   : BitVec 16
  addr  : Nat                -- physical address of the leaf entry
  pbits : List Nat           -- its copy of the poison bitmap: 4 KiB pages whose bit is set (R257, R258), rising
deriving DecidableEq, Repr

/-- A record in a core's layout-record cache (R58). -/
structure LrcLine where
  core  : Nat
  pa    : Nat
  words : List (RWord 32)
deriving DecidableEq, Repr

/-- An instruction line held by a core (R104). -/
structure ILine where
  core  : Nat
  pasid : Nat
  line  : BitVec 58
  data  : BitVec 512
deriving DecidableEq, Repr

/-- A GENSYNC that runs (R253): the path that raised the generation, by crew, WID and entry, and the units that do not hold the
new value yet: 0 to 7 the TLB of a die, 8 to 15 the memory controllers of a die. -/
structure GenSync where
  crew   : Nat
  wid    : Nat
  eid    : Nat
  behind : List Nat
deriving DecidableEq, Repr

structure MemSys where
  phys    : Mem                       -- device HBM and host memory (R249), the home copies
  dsc     : List ((Nat × Nat) × Mem)  -- die scratch of (context, die) (R224)
  pbits   : List Nat                  -- poison bitmap: 4 KiB pages whose bit is set (R257), rising
  stores  : List PStore               -- oldest first
  nextSid : Nat
  l1d     : List L1Copy
  way     : List WayCopy
  dir     : SMap (BitVec 8)           -- sharer directory: 4 KiB region ↦ die mask (R319)
  locks   : List (Nat × Nat)          -- locked replica blocks: (die, block) (R321)
  lost    : List (Nat × Nat)          -- replica copies that missed a commit: (die, home block) (R321)
  tlb     : List Tlb
  syncs   : SMap GenSync              -- generations that are being raised, by context (R253)
  lrc     : List LrcLine
  ilines  : List ILine
deriving DecidableEq, Repr

/-! ## Waves -/

/-- A loop level in the layout LSAVE stores (R147), with the residues of its eight words (word j at [4j+3:4j]). -/
structure LoopLevel where
  bits : BitVec 256
  rs   : BitVec 32
deriving DecidableEq, Repr

/-- A return record (R137); `spill` is its slot of the return area when it has been spilled. -/
structure RetRec where
  addr  : BitVec 64
  ldep  : BitVec 3
  spill : Option Nat
deriving DecidableEq, Repr

/-- One accumulator element (R288, R289). -/
structure Elem where
  e    : BitVec 128
  res  : BitVec 4
  spec : BitVec 2
  ovf  : Bool
  stk  : Bool
deriving DecidableEq, Repr

/-- One checksum cell (R290). -/
structure CkCell where
  v   : BitVec 136
  r   : BitVec 4
  ovf : Bool
deriving DecidableEq, Repr

/-- An accumulator tile: element (r, n) at key 64 r + n, unlisted elements and cells zero. -/
structure Tile where
  anchor : BitVec 8
  elems  : SMap Elem
  cr     : SMap CkCell
  cc     : SMap CkCell
deriving DecidableEq, Repr

/-- What an issued instruction is waiting for (R360). -/
inductive Wait where
  | none
  /-- SLEEP: package time of the deadline. -/
  | sleep (deadline : BitVec 64)
  /-- BWAIT: number of its address register, object address, awaited phase, t0, armed (R332). -/
  | bwait (sa : Nat) (obj : BitVec 64) (b : Bool) (t0 : BitVec 64) (armed : Bool)
  /-- CHWAIT: handle, count, room rather than data (R282). -/
  | chwait (k n : Nat) (room : Bool)
  /-- CBAR.sync: barrier, phase at the arrival, t0 (R335). -/
  | cbar (n : Nat) (phase : Bool) (t0 : BitVec 64)
  /-- CRESULT.wait: destination S register (R341). -/
  | cresult (dst : Nat)
  /-- REGROUP: number, participants, first register, count, survivors (R218). -/
  | regroup (num : BitVec 8) (wmask : BitVec 16) (sa cnt : Nat) (exec : BitVec 64)
  /-- MTOKEN: half-tokens (R305). -/
  | mtoken (n : Nat)
  /-- FENCE: package time of its issue, scope, and the die of the last message it waited for (R336). -/
  | fence (t0 : BitVec 64) (scope : Nat) (msg : Option Nat)
  /-- RPLBEGIN: RCB address, compare mode (R371). -/
  | rplbegin (rcb : BitVec 64) (cmp : Bool)
  /-- RPLEND (R372). -/
  | rplend
  /-- Held by a debugger: a BRKPT, or a CBAR.sync whose phase has completed meanwhile; it retires when the path is released
  (R366). -/
  | brkpt
  /-- An access that stalls on a locked replica block or on a resetting home since the given package time (R322, R388). -/
  | replica (t0 : BitVec 64)
deriving DecidableEq, Repr

/-- The STATE field of a path-table entry (R202). -/
inductive PState where
  | running | waiting | join | loopExit | parked
deriving DecidableEq, Repr

/-- A live path-table entry (R202). `eid` names the entry for as long as it lives and rises in order of creation;
`parent` and `taken` place it in the join chain (R203). A join keeps its children's key at the split in `pc`, `tc`. While
the entry is spilled, `idx` is its spill slot (R204). -/
structure Path where
  idx     : Nat
  eid     : Nat
  parent  : Option Nat
  taken   : Bool
  st      : PState
  pia     : BitVec 64
  mask    : BitVec 64
  exm     : BitVec 64
  rca     : BitVec 64
  half    : Bool
  level   : BitVec 6
  ldep    : BitVec 3
  s       : SMap (RWord 64)      -- S1 to S15
  b       : SMap (RWord 1)       -- B0 to B6
  ws      : BitVec 16            -- write bits of S1 to S15 (bit i: Si)
  wb      : BitVec 8             -- write bits of B0 to B6
  recs    : List RetRec          -- return records this entry pushed, newest first (R137)
  age     : Nat                  -- R90
  yielded : Bool                 -- YIELD in the previous cycle (R139)
  pc      : BitVec 48            -- key: retired instructions (R373)
  tc      : BitVec 16            -- key: transfers (R373)
  epc     : BitVec 48            -- what children that have ended add to the keys of a merge (R373)
  etc     : BitVec 16
  wait    : Wait
  held    : Option (BitVec 64)   -- package time since which a debugger holds it (R366)
  ibpSkip : Bool                 -- TRET.retry of an IBP hit: next issue is not checked again (R366)
  xfer    : Option (BitVec 64)   -- arrived by a checked transfer from this address, or 0 (R100)
  line    : Option (BitVec 58 × BitVec 512)   -- the fetch line delivered to the path (R99)
  park    : Option Nat           -- handle of its park (R255)
  tokWait : Bool                 -- token-bound (R89)
  owes    : Bool                 -- spilled entries are to return before it issues: a refill has faulted (R205)
  hexit   : Bool                 -- an exit entry of a level opened in handler mode (R147, R161)
  sdep    : BitVec 3             -- of a join: the levels it was inside when LSAVE closed them (R148, R158)
  obs     : List Nat             -- stores on their way that the agent has observed (R315)
deriving DecidableEq, Repr

/-- A MATRIX_CHECK not yet raised (R302): tiles of the failed instruction, address, TINFO. -/
structure MCheck where
  eid   : Nat
  tiles : BitVec 32
  addr  : BitVec 64
  info  : BitVec 64
deriving DecidableEq, Repr

/-- A held copy of the operand latch (R111): the path that holds it, the physical V register it copies, and how many
instructions of the path may still issue before it is dropped. Its value is the register's, for a write to the register
drops it. -/
structure Held where
  eid  : Nat
  reg  : Nat
  life : Nat
deriving DecidableEq, Repr

/-- A wave in its slot. -/
structure Wave where
  die     : Nat
  core    : Nat                  -- COREID
  slot    : Nat                  -- 16 × QUADID + index (R12)
  half    : Bool
  w32     : Bool
  pasid   : Nat
  crew    : Nat                  -- handle of its crew
  wid     : Nat
  role    : Nat
  vregs   : Nat                  -- allotment in units of 8 registers (R63)
  acc     : Nat                  -- accumulator tiles
  stkidx  : BitVec 32            -- R223
  ended   : Bool
  paths   : List Path            -- live table entries, by index
  spilled : List Path            -- spill stack, newest first (R205)
  nextEid : Nat
  sreg    : SMap (RWord 64)      -- S16 to S63
  p       : SMap (RWord 64)      -- P0 to P14
  d       : Nat                  -- open loop levels
  lc      : SMap LoopLevel       -- LC0 to LC3
  v       : SMap (RWord 32)      -- register v, physical lane L at key 64 v + L
  gen     : SMap (RWord 32)      -- generator states that differ from launch (R35)
  lid     : SMap (BitVec 6)      -- LIDs that differ from the physical lane (R213)
  q       : SMap (RWord 32)      -- word w of Qn at key 16 n + w
  tiles   : SMap Tile
  chkctl  : BitVec 64
  inj     : BitVec 64
  tcause  : BitVec 64
  tia     : BitVec 64
  tlanes  : BitVec 64
  tpath   : BitVec 64
  taddr   : BitVec 64
  tinfo   : BitVec 64
  tvec    : BitVec 64
  tscr    : SMap (BitVec 64)     -- TSCR0 to TSCR3
  subcnt  : BitVec 64            -- R258
  hmode   : Bool
  hpath   : Nat                  -- path in the handler, when hmode
  hsave   : Option Nat           -- IBP hit to skip at TRET.retry (R366)
  prio    : BitVec 2
  tokwait : BitVec 32
  corr    : BitVec 32
  rpl     : BitVec 32
  mcheck  : List MCheck
  wdog    : BitVec 64            -- wave watchdog: package time of the last retirement, later by time that does not count (R356)
  logIdx  : Nat                  -- keys appended in the replay region (R373)
  latch   : List Held            -- held copies of its paths, oldest first (R111)
deriving DecidableEq, Repr

/-! ## Crews and contexts -/

/-- A crew barrier (R334). -/
structure Barrier where
  phase : Bool
  arr   : BitVec 5
  cnt   : BitVec 5
  mask  : BitVec 16
  last  : BitVec 16
  lwid  : BitVec 16
  lwait : BitVec 48
deriving DecidableEq, Repr

/-- A bound channel (R280, R282): the record's scratchpad offset, the shape read at CHBIND, the pointers with their
phases, and whether a wave has advanced a side since CHBIND. -/
structure Chan where
  off     : Nat
  ssize   : Nat
  sbase   : Nat
  fire    : Nat
  scount  : Nat
  prod    : BitVec 17            -- [15:0] PIDX, [16] PPH
  cons    : BitVec 17            -- [15:0] CIDX, [16] CPH
  pAdv    : Bool
  cAdv    : Bool
deriving DecidableEq, Repr

/-- An open replay region (R371). -/
structure Region where
  rcb    : BitVec 64
  cmp    : Bool
  counts : SMap Nat              -- keys recorded by each wave in the recording pass
deriving DecidableEq, Repr

/-- A value that an operation has landed in block `blk` under an adaptive scale: its byte, its nibble, whether it is poison
(R273). -/
structure Landed where
  blk : Nat
  off : Nat
  nib : Nat
  psn : Bool
  x   : FV
deriving DecidableEq, Repr

/-- A collective that has failed: its GROUP, its kind, and the ranks whose operations have not yet stopped with it (R285). -/
structure CollFail where
  group : BitVec 64
  coll  : BitVec 4
  ranks : List Nat
deriving DecidableEq, Repr

/-- An accepted engine operation (R268). -/
structure EngOp where
  h      : Nat
  kind   : BitVec 8              -- major opcode
  coll   : BitVec 4              -- SUB of XCOLL
  core   : Nat                   -- 48 × die + COREID
  wk     : Nat
  ident  : BitVec 16             -- R277, ENG set
  pasid  : Nat
  crew   : Nat
  ia     : BitVec 64             -- address of the issuing instruction
  hm     : Bool                  -- issued in handler mode
  src    : List (RWord 32)       -- copied records, 16 words each
  dst    : List (RWord 32)
  srcQ   : Nat                   -- Q numbers that supplied the records
  dstQ   : Nat
  srcIx  : List (RWord 32)       -- index record of the source, of the destination (R49)
  dstIx  : List (RWord 32)
  crowd  : List (RWord 32)       -- crowd record of XCOLL once read (R284)
  opnd   : BitVec 64             -- permutation, fill value or crowd record address
  obj    : Option Nat            -- scratchpad offset of the object
  arr    : Bool
  ascl   : Bool
  rm     : BitVec 3
  sat    : Bool
  nf     : Nat
  ki     : Option Nat
  ko     : Option Nat
  firing : Nat                   -- next firing
  landed : Bool                  -- every element has landed
  counts : List Nat              -- destination bytes of writes not yet counted
  left   : Nat                   -- bytes accepted and not yet counted
  scales : List (Nat × Nat)      -- unbound destination blocks written, with the scales of their sources (R272)
  vals   : List Landed           -- values landed under an adaptive scale in unbound blocks (R273)
  subs   : List Nat              -- poisoned sectors already counted on SUBCNT (R258)
  stall  : Option Nat            -- handle of the park it stalls on
  late   : Option (BitVec 64)    -- package time since which it stalls on a locked replica (R322)
  stop   : Option (BitVec 8)     -- subcode
deriving DecidableEq, Repr

/-- A record of the error log before it is written (R396). -/
structure LogRec where
  cls   : Nat
  code  : Nat
  carav : BitVec 32 := 0
  die   : Nat := 0
  core  : Nat := 0
  crew  : BitVec 16 := 0
  node  : BitVec 16 := 0xFFFF
  seq   : BitVec 16 := 0
  route : BitVec 16 := 0
  t     : List (BitVec 64) := []     -- TCAUSE, TIA, TLANES, TPATH, TADDR, TINFO
  w9    : BitVec 64 := 0
deriving DecidableEq, Repr

/-- Crew states (R362). `placed`: its place is reserved, and it is to start at its tick (R85, R355). -/
inductive CrewState where
  | placed | resident | saving | saved | restoring | requeued | ended
deriving DecidableEq, Repr

structure Crew where
  h       : Nat
  fn      : Nat
  pasid   : Nat
  cons    : Nat                  -- consignment by handle
  cav     : Nat                  -- caravan by handle
  carav   : BitVec 32
  idx     : BitVec 16            -- CREW
  die     : Nat
  core    : Nat
  code    : BitVec 64            -- code object base
  args    : BitVec 64
  nwaves  : Nat
  nbar    : Nat
  nchan   : Nat
  scrSize : Nat                  -- SCRATCH
  scr     : Mem                  -- scratchpad allotment (R221)
  bars    : SMap Barrier
  chans   : SMap Chan
  engErr  : BitVec 8             -- R279
  idem    : Bool
  st      : CrewState
  requeues : Nat
  start   : BitVec 64            -- package time at which it becomes ready
  cwdog   : BitVec 64            -- crew watchdog: package time of its start, later by time that does not count (R356)
  recNo   : Option Nat           -- save record in use
  abort   : Option LogRec        -- log record of an abort that waits for the end of its save or restore (R362)
  saved   : SMap Wave            -- waves of a saved crew, by WID
  savedOps : List EngOp          -- its cancelled operations (R286); `wk` holds the WID
  region  : Option Region
  logged  : SMap Nat             -- recorded key counts of the last recording pass, by WID
deriving DecidableEq, Repr

/-- A context, by PASID: its control registers by NUM (all reset to 0), its generation (R251), and the function that
loaded it (R394). -/
structure Ctx where
  regs : SMap (BitVec 64)
  gen  : BitVec 16
  owner : Option Nat
deriving DecidableEq, Repr

/-! ## Engines and the matrix array -/

/-- An octet pass in the array of a quad (R298 to R301), with the operands read at issue. -/
structure Pass where
  quad : Nat
  wk   : Nat
  eid  : Nat
  ia   : BitVec 64
  tile : Nat
  tiles : BitVec 32              -- tiles of its MMA
  oct  : Nat
  last : Bool                    -- last pass of its MMA
  ta   : BitVec 5
  tb   : BitVec 5
  sh   : BitVec 8
  a    : List (RWord 32)         -- 8 rows of 16 words
  ascl : List (BitVec 8)         -- block scales of the A rows (127 without SCL)
  b    : List (RWord 32)         -- 16 words for each of 64 columns
  bscl : List (BitVec 8)         -- block scales of each B row: columns 0 to 31, columns 32 to 63
deriving DecidableEq, Repr

/-! ## Bazaar plane -/

inductive ContestState where
  | pending
  | inRound (bnd : BitVec 64)
  | closed (word : BitVec 64)
  | voided
deriving DecidableEq, Repr

/-- The contest entry of a wave slot (R339, R341). -/
structure Contest where
  slot : Nat                     -- 3072 × die + 64 × COREID + slot; above 24,575: of a saved wave (R343)
  wk   : Nat                     -- its wave; above 49,151: of a saved wave
  cid  : BitVec 8
  comp : BitVec 48               -- compound key
  nb   : BitVec 64
  ret  : BitVec 64               -- retirement time of CONTEND
  orphan : Bool                  -- its wave has ended (R343)
  st   : ContestState
deriving DecidableEq, Repr

structure Round where
  line : Nat
  cid  : BitVec 8
  bnd  : BitVec 64
  again : Option (BitVec 64)     -- a repeated round admits only entries eligible after this time (R344)
  run  : Bool                    -- open; false: a voided round to be repeated
deriving DecidableEq, Repr

/-! ## Parks -/

inductive CpWhat where
  | cons (h : Nat)
  | node (route node : Nat)
  | reg (route : Nat)
  | compl (h : Nat)
  | rcompl (route : Nat)
  | kick (h : Nat)
deriving DecidableEq, Repr

/-- What a page request was sent for (R255). -/
inductive ParkWho where
  | path (wk eid : Nat)
  | op (h : Nat)
  | cp (x : CpWhat)
deriving DecidableEq, Repr

/-- A park (R255): `idx` is its Page Request Group index, or none while all 512 are in use. -/
structure Park where
  h     : Nat
  fn    : Nat
  idx   : Option Nat
  who   : ParkWho
  pasid : Nat
  crew  : Nat
  cause : BitVec 8
  cinfo : BitVec 8
  lanes : BitVec 64
  addr  : BitVec 64
  low   : BitVec 64              -- lowest faulting virtual address
  kind  : BitVec 4
  write : Bool
  hint  : BitVec 4
  gen   : BitVec 16
  pages : List Nat
  t0    : BitVec 64              -- package time of the park, less time not resident
  dead  : Bool                   -- its path is gone: the response is consumed without effect (R353)
  denied : Bool                  -- its response was no success; its path is to enter the handler (R256)
deriving DecidableEq, Repr

/-! ## Command processor -/

/-- A route node (R74): packet and control part. -/
structure Node where
  packet : BitVec 512
  ctl    : BitVec 512
deriving DecidableEq, Repr

structure Kick where
  seq     : BitVec 16
  slot    : Nat
  patches : List (Nat × BitVec 64)
deriving DecidableEq, Repr

/-- A running replay (R75, R80). -/
structure Replay where
  seq     : BitVec 16
  params  : List (BitVec 64)
  counts  : SMap Nat             -- arrivals per node
  ready   : List Nat             -- nodes that have reached NPRED
  running : List Nat             -- LAUNCH nodes whose consignment has not completed
  begins  : Nat
  failed  : Bool
deriving DecidableEq, Repr

/-- A registered route (R73, R74). -/
structure Route where
  fn       : Nat
  num      : Nat
  pasid    : Nat
  rcompl   : BitVec 64
  patch    : BitVec 64
  maxBegin : BitVec 32
  nodes    : List Node
  params   : List (BitVec 64)
  retiring : Bool
  queue    : List Kick
  cur      : Option Replay
deriving DecidableEq, Repr

/-- A kick whose patch table has not matched yet (R79). -/
structure KickTry where
  h     : Nat
  fn    : Nat
  value : BitVec 64
  tries : Nat
  next  : BitVec 64
deriving DecidableEq, Repr

inductive ConsState where
  | waiting | ready | begun | failed
deriving DecidableEq, Repr

/-- A consignment (R59, R70 to R72): its packet after parameter substitution. -/
structure Cons where
  h       : Nat
  fn      : Nat
  route   : Nat
  node    : Nat
  seq     : BitVec 16
  pasid   : Nat
  packet  : BitVec 512
  st      : ConsState
  order   : Nat                  -- order of readiness, then of begin (R61)
  hdr     : BitVec 1536          -- header of its code object, read at its begin (R62)
  obs     : List Nat             -- stores on their way that its ended paths have observed (R72, R315)
  total   : Nat                  -- caravans
  ended   : Nat                  -- caravans that have ended
  failed  : Bool
  unmet   : List Nat             -- words of its packet that name dependences not yet met (R70)
  reread  : Option (BitVec 64)   -- package time by which they are read again, once they have been read (R70)
deriving DecidableEq, Repr

inductive CavState where
  | queued | starting (t : BitVec 64) | running
deriving DecidableEq, Repr

/-- A caravan (R85 to R87). -/
structure Cav where
  h     : Nat
  cons  : Nat
  carav : BitVec 32
  st    : CavState
  head  : Option (BitVec 64)     -- package time since which it heads its queue
  held  : Option (BitVec 64)     -- package time since which it is held
deriving DecidableEq, Repr

/-- What the device has sent to the host. -/
inductive HostMsg where
  | msix (fn vec : Nat)
  | pageRequest (fn idx pasid page : Nat) (write last : Bool)
  | readData (fn : Nat) (bytes : List (BitVec 8))
  | spdm (fn : Nat) (bytes : List (BitVec 8))
deriving DecidableEq, Repr

/-! ## Package -/

inductive BankState where
  | normal | pending (slot : Nat) | converting (group : Nat) | strong
deriving DecidableEq, Repr

structure Bank where
  st    : BankState
  count : Nat                    -- corrected events in the window
  since  : BitVec 64             -- package time at which its window began (R381)
  queued : Bool                  -- has reached THRESH and waits for its stack
deriving DecidableEq, Repr

inductive DieState where
  | online | deferred | resetting (since : BitVec 64)
deriving DecidableEq, Repr

structure Link where
  up      : Bool
  retries : Nat                  -- consecutive retries (R387)
deriving DecidableEq, Repr

/-- A fabric port's retries (R398): consecutive ones, and the package times of the latest, newest first. -/
structure Port where
  streak : Nat
  times  : List (BitVec 64)
deriving DecidableEq, Repr

/-- The path that a trace record names (R364): its wave, table index, half and mask, its crew and the wave's identity. -/
structure TracePath where
  wid   : Nat
  half  : Bool
  idx   : Nat
  crew  : BitVec 16
  ident : BitVec 16
  mask  : BitVec 64
deriving DecidableEq, Repr

/-- What a quad has issued last (R365): the context, the path, the address. -/
structure QuadIssue where
  pasid : Nat
  path  : TracePath
  pia   : BitVec 64
deriving DecidableEq, Repr

structure Pkg where
  size    : Nat                  -- partition size code in force (R392)
  regs    : SMap (BitVec 64)     -- package registers by BAR0 offset, where they differ from reset
  limit   : Nat                  -- power limit in force, W (R401)
  purse   : SMap Nat             -- energy per die in 1/84000 nJ (R92)
  qbuf    : SMap Nat             -- half-tokens per quad (R93)
  last    : SMap (Nat × Nat)     -- path that each quad issued last (wave, entry) (R90)
  issued  : SMap QuadIssue        -- what each quad issued last, as a sample names it (R365)
  drawn   : Nat                  -- half-tokens drawn from the purses in this µs (R392)
  overs   : Nat                  -- consecutive µs over the limit (R96)
  refilled : Nat                 -- the latest 1,000 ns tick with a refill (R92)
  gov     : SMap Nat             -- per core: the latest tick with a governor step (R96)
  mhz     : SMap Nat             -- core clocks that differ from 2250 MHz, in MHz
  bound   : BitVec 8             -- dies that had a token-bound path in this µs (R96)
  wasBound : BitVec 8            -- the same of the previous µs
  vecs    : SMap (Nat × Nat)     -- per core: vector instructions issued in this µs, and their live lanes (R96)
  cyc     : List Nat             -- per core, by 48 × die + COREID: thousandths of a cycle run since package reset (R96, R134; log 1)
  dies    : SMap DieState
  links   : SMap Link
  ports   : SMap Port
  routes  : SMap (List Nat)      -- changed routes: pair 8 s + h ↦ intermediate dies (R387)
  strays  : List (Nat × Nat)     -- pairs back on their default route, with a store still on the changed one (R324)
  banks   : SMap Bank
  strong  : List Nat             -- non-volatile: strong banks (R382)
  hist    : SMap (BitVec 64)     -- non-volatile: lifetime histograms (R383)
  gath    : SMap (BitVec 64)     -- histogram events not stored yet
  stored  : BitVec 64            -- package time of the last histogram store
  recovery : Bool                -- R399
  version : BitVec 32            -- running firmware image
  image   : List (BitVec 8)
deriving DecidableEq, Repr

/-- A function's registers (R392), by BAR0 offset where they differ from reset, and its queues. -/
structure Fn where
  regs    : SMap (BitVec 64)
  prStop  : Bool                 -- page requests stopped (R256)
  slots   : List Nat             -- retire area slots in use (R382)
  rstq    : List (BitVec 64)     -- reset commands that wait, oldest first (R385)
deriving DecidableEq, Repr

structure State where
  steps   : Nat                  -- counter of the free values (the model's own)
  agenda  : List Instr           -- what moves next, before anything else (the model's own)
  sel     : Option (Nat × Nat)   -- path that issues next: wave key, entry (the model's own)
  badPa   : Option Nat           -- physical address this step accessed that names no memory (the model's own)
  ptime   : BitVec 64            -- PTIME (R5)
  stop    : Bool                 -- PTCTL.STOP (R395)
  stopped : Bool                 -- PTCTL.STOPPED
  waves   : SMap Wave            -- resident waves at 2 × (3072 × die + 64 × COREID + slot) + half
  crews   : List Crew
  ctxs    : SMap Ctx
  dbg     : SMap (BitVec 64)     -- per-core context registers (R363): (512 × PASID + core) × 4096 + NUM
  ms      : MemSys
  ops     : List EngOp           -- oldest first
  fails   : List CollFail        -- collectives whose failure some participants have still to hear of (R285)
  courier : SMap (BitVec 64)     -- per core: T of the courier's previous promise (R277)
  passes  : List Pass            -- oldest first
  contests : List Contest
  rounds  : List Round
  parks   : List Park
  routes  : List Route
  tries   : List KickTry
  regPend : List (Nat × Nat)     -- registrations that wait (R73): function, route
  cons    : List Cons
  cavs    : List Cav
  nextH   : Nat                  -- next handle
  fns     : SMap Fn
  outbox  : List HostMsg         -- newest first
  pkg     : Pkg
deriving DecidableEq, Repr

/-! ## Reset (DESIGN CHOICE; log 2) -/

def Mem.empty : Mem := { cells := [], resx := [], pairs := [], marks := [] }

def MemSys.reset : MemSys :=
  { phys := Mem.empty, dsc := [], pbits := [], stores := [], nextSid := 0, l1d := [], way := [], dir := [],
    locks := [], lost := [], tlb := [], syncs := [], lrc := [], ilines := [] }

def Pkg.reset : Pkg :=
  { size := 0, regs := [], limit := 2400, purse := [], qbuf := [], last := [], issued := [], drawn := 0, overs := 0, refilled := 0,
    gov := [], mhz := [], bound := 0, wasBound := 0, vecs := [], cyc := List.replicate 384 0, dies := [], links := [], ports := [], routes := [], strays := [], banks := [], strong := [], hist := [], gath := [],
    stored := 0, recovery := false, version := 0, image := [] }

/-- The machine right after package reset: no context loaded (R394), no route registered (R73), no wave resident,
empty purses and token buffers (R92), every register at its Reset column. (DESIGN CHOICE; log 3) -/
def State.reset : State :=
  { steps := 0, agenda := [], sel := none, badPa := none, ptime := 0, stop := false, stopped := false, waves := [], crews := [],
    ctxs := [], dbg := [], ms := MemSys.reset, ops := [], fails := [], courier := [], passes := [], contests := [], rounds := [],
    parks := [], routes := [], tries := [], regPend := [], cons := [], cavs := [], nextH := 0, fns := [], outbox := [],
    pkg := Pkg.reset }

end Sys2Proof.Machine
end

