-- ==== Sys2Proof/Machine/Assoc.lean ====
section
/-!
DEFINITION. Sparse maps: sorted lists of (key, value) in which an entry equal to the default is not listed, so that
equal maps are equal data.
-/
namespace Sys2Proof.Machine

/-- The listed value at key `k`. -/
def slook : SMap α → Nat → Option α
  | [], _ => none
  | (j, x) :: m, k => if j = k then some x else slook m k

/-- The value at key `k`, with default `d`. -/
def sget (d : α) (m : SMap α) (k : Nat) : α := (slook m k).getD d

/-- The map without key `k`. -/
def sdel : SMap α → Nat → SMap α
  | [], _ => []
  | (j, x) :: m, k => if j = k then sdel m k else (j, x) :: sdel m k

/-- The map with `x` listed at key `k`. -/
def sput : SMap α → Nat → α → SMap α
  | [], k, x => [(k, x)]
  | (j, y) :: m, k, x =>
    if j = k then (k, x) :: m else if k < j then (k, x) :: (j, y) :: m else (j, y) :: sput m k x

/-- The map with value `x` at key `k`: listed unless it is the default. -/
def sset [DecidableEq α] (d : α) (m : SMap α) (k : Nat) (x : α) : SMap α :=
  if x = d then sdel m k else sput m k x

/-- Keys strictly rising from `lo`. -/
def sorted (lo : Nat) : SMap α → Bool
  | [] => true
  | (j, _) :: m => lo ≤ j && sorted (j + 1) m

/-- A rising list of numbers with `k` in it. -/
def ninsert : List Nat → Nat → List Nat
  | [], k => [k]
  | j :: m, k => if j = k then j :: m else if k < j then k :: j :: m else j :: ninsert m k

/-- A rising list of numbers without `k`. -/
def nerase : List Nat → Nat → List Nat
  | [], _ => []
  | j :: m, k => if j = k then m else if k < j then j :: m else j :: nerase m k

def nsorted (lo : Nat) : List Nat → Bool
  | [] => true
  | j :: m => lo ≤ j && nsorted (j + 1) m

/-- The entries of a map whose keys lie in [lo, hi). -/
def srange (m : SMap α) (lo hi : Nat) : SMap α := m.filter fun x => lo ≤ x.1 && x.1 < hi

/-- The distinct elements of a list, in order of first appearance. -/
def uniq [BEq α] (l : List α) : List α :=
  (l.foldl (fun acc x => if acc.any (fun y => y == x) then acc else x :: acc) []).reverse

/-- Replace the elements that satisfy `q`. -/
def lmod (l : List α) (q : α → Bool) (g : α → α) : List α := l.map fun x => if q x then g x else x

end Sys2Proof.Machine
end

