-- ==== Sys2Proof/Machine/Bits.lean ====
section
/-!
DEFINITION. Bit-field, residue and instruction-address helpers.
-/
namespace Sys2Proof.Machine

/-- The residue code of a number (R37): 0 to 14. -/
def res (x : Nat) : BitVec 4 := BitVec.ofNat 4 (x % 15)

/-- The residue code of an integer taken modulo 15. -/
def resI (x : Int) : BitVec 4 := BitVec.ofNat 4 (x % 15).toNat

/-- A pattern with its own residue. -/
def mkW (v : BitVec n) : RWord n := { v := v, r := res v.toNat }

/-- A pattern with its residue, or poison (R41). -/
def mkP (poison : Bool) (v : BitVec n) : RWord n := { v := v, r := if poison then 15 else res v.toNat }

/-- Poison (R40). -/
def bad (x : RWord n) : Bool := x.r == 15

/-- Does a source word pass its check: poison, or the residue of its bits (R176)? -/
def sound (x : RWord n) : Bool := x.r == 15 || x.r == res x.v.toNat

/-- Bits [hi:lo] of a number. -/
def bitsOf (x hi lo : Nat) : Nat := x / 2 ^ lo % 2 ^ (hi + 1 - lo)

/-- Bits [hi:lo] of a word. -/
def fld (x : BitVec n) (hi lo : Nat) : Nat := bitsOf x.toNat hi lo

/-- The word with bits [hi:lo] replaced. -/
def setFld (x : BitVec n) (hi lo : Nat) (y : Nat) : BitVec n :=
  let m : BitVec n := BitVec.ofNat n ((2 ^ (hi + 1 - lo) - 1) * 2 ^ lo)
  (x &&& ~~~m) ||| (BitVec.ofNat n (y * 2 ^ lo) &&& m)

/-- The word with bit `i` set or cleared. -/
def setBit (x : BitVec n) (i : Nat) (b : Bool) : BitVec n :=
  if b then x ||| BitVec.ofNat n (2 ^ i) else x &&& ~~~BitVec.ofNat n (2 ^ i)

/-- A pattern of `w` bits read as two's complement. -/
def toSigned (w x : Nat) : Int := if 2 * x < 2 ^ w then x else (x : Int) - 2 ^ w

/-- An integer as a pattern of `w` bits. -/
def ofSigned (w : Nat) (x : Int) : Nat := (x % 2 ^ w).toNat

/-- The linear slot number of an instruction address (R102). -/
def linear (a : BitVec 64) : Nat := a.toNat / 64 * 5 + a.toNat % 8

/-- The address of a linear slot, in 64-bit two's complement (R102). -/
def addrOf (n : Int) : BitVec 64 := BitVec.ofInt 64 (n / 5 * 64 + n % 5)

/-- The address one slot on. -/
def nextAddr (a : BitVec 64) : BitVec 64 := addrOf (linear a + 1)

/-- The bit positions of a mask, rising. -/
def lanesOf (m : BitVec n) : List Nat := (List.range n).filter fun i => m.getLsbD i

/-- The mask of a list of bit positions. -/
def maskOf (n : Nat) (l : List Nat) : BitVec n := l.foldl (fun m i => m ||| BitVec.ofNat n (2 ^ i)) 0

/-- Number of set bits. -/
def popcount (m : BitVec n) : Nat := (lanesOf m).length

/-- Number of leading zeros of a pattern of `w` bits. -/
def clz (w x : Nat) : Nat := if x = 0 then w else w - 1 - Nat.log2 x

/-- Little-endian number of a list of bytes (R2). -/
def leNat : List Byte → Nat
  | [] => 0
  | b :: t => b.toNat + 256 * leNat t

/-- The low `n` bytes of a number, little endian (R2). -/
def leBytes : Nat → Nat → List Byte
  | 0, _ => []
  | n + 1, x => BitVec.ofNat 8 x :: leBytes n (x / 256)

/-- Count up with saturation at 2^w − 1. -/
def satInc (w x : Nat) : Nat := min (x + 1) (2 ^ w - 1)

end Sys2Proof.Machine
end

