-- ==== Sys2Proof/Machine/Mem.lean ====
section
/-!
DEFINITION. The content of a memory: reading and writing whole 32-bit words with their residues, and the sideband
pairs of 64-byte blocks (R38, R54). Every write keeps the canonical form of `Mem`.
-/
namespace Sys2Proof.Machine

/-- What a byte that nothing has written reads as (log 2). -/
def unwritten : Byte := 0

/-- The pair of a block that nothing has written: RAW and 127 (R54, R55; log 2). -/
def rawPair : Pair := { fmt := 0, scale := 127 }

/-- The byte at address `a`. (DESIGN CHOICE; log 2) -/
def Mem.byte (m : Mem) (a : Nat) : Byte := sget unwritten m.cells a

/-- The bits of word `w`: bytes 4w to 4w + 3. -/
def Mem.bits (m : Mem) (w : Nat) : W32 :=
  m.byte (4 * w + 3) ++ m.byte (4 * w + 2) ++ m.byte (4 * w + 1) ++ m.byte (4 * w)

/-- Word `w` with its carried residue. -/
def Mem.word (m : Mem) (w : Nat) : RWord 32 :=
  { v := m.bits w, r := sget (res (m.bits w).toNat) m.resx w }

/-- The sideband pair of block `b`. -/
def Mem.pair (m : Mem) (b : Nat) : Pair := sget rawPair m.pairs b

/-- Write the whole word `w` with its residue. -/
def Mem.putWord (m : Mem) (w : Nat) (x : RWord 32) : Mem :=
  let c := sset unwritten (sset unwritten (sset unwritten (sset unwritten m.cells (4 * w) (x.v.extractLsb' 0 8))
    (4 * w + 1) (x.v.extractLsb' 8 8)) (4 * w + 2) (x.v.extractLsb' 16 8)) (4 * w + 3) (x.v.extractLsb' 24 8)
  { m with cells := c, resx := sset (res x.v.toNat) m.resx w x.r }

/-- Write the pair of block `b`. -/
def Mem.putPair (m : Mem) (b : Nat) (p : Pair) : Mem := { m with pairs := sset rawPair m.pairs b p }

/-- Mark or clear the sector of block `b` as poisoned in HBM (R257). -/
def Mem.mark (m : Mem) (b : Nat) (on : Bool) : Mem :=
  { m with marks := if on then ninsert m.marks b else nerase m.marks b }

/-- Write consecutive words from word `w` on. -/
def Mem.putWords (m : Mem) (w : Nat) : List (RWord 32) → Mem
  | [] => m
  | x :: t => (m.putWord w x).putWords (w + 1) t

/-- Read `n` consecutive words from word `w` on. -/
def Mem.words (m : Mem) (w n : Nat) : List (RWord 32) := (List.range n).map fun i => m.word (w + i)

/-- Read `n` bytes from address `a` on as a little-endian number. -/
def Mem.nat (m : Mem) (a n : Nat) : Nat := leNat ((List.range n).map fun i => m.byte (a + i))

/-- The canonical form: cells strictly rising and none equal to what an unlisted address reads as; listed residues of
words whose residue differs from that of their bits, pairs that differ from RAW and 127, marks rising. -/
def Memory.wf (m : Mem) : Bool :=
  sorted 0 m.cells && m.cells.all (fun c => c.2 != unwritten) &&
  sorted 0 m.resx && m.resx.all (fun x => x.2 != res (m.bits x.1).toNat) &&
  sorted 0 m.pairs && m.pairs.all (fun x => x.2 != rawPair) && nsorted 0 m.marks

end Sys2Proof.Machine
end

