-- ==== Sys2Proof/Machine/Regs.lean ====
section
/-!
DEFINITION. The issuing path's view of the machine, and reading and writing its registers (R106, R124 to R127, R156,
R165, R166).
-/
namespace Sys2Proof.Machine

/-- The state with the wave and the path of an issuing instruction taken out: `w` and `p` replace the copies in `s`
until `Th.commit` puts them back. -/
structure Th where
  s  : State
  wk : Nat
  w  : Wave
  p  : Path
deriving DecidableEq, Repr

def Wave.path (w : Wave) (eid : Nat) : Option Path := w.paths.find? fun p => p.eid == eid

/-- Replace a path by entry. -/
def Wave.putPath (w : Wave) (p : Path) : Wave := { w with paths := lmod w.paths (fun q => q.eid == p.eid) fun _ => p }

def State.wave (s : State) (wk : Nat) : Option Wave := slook s.waves wk

def State.putWave (s : State) (wk : Nat) (w : Wave) : State := { s with waves := sput s.waves wk w }

def State.crew (s : State) (h : Nat) : Option Crew := s.crews.find? fun c => c.h == h

def State.putCrew (s : State) (c : Crew) : State := { s with crews := lmod s.crews (fun x => x.h == c.h) fun _ => c }

/-- The view of path `eid` of wave `wk`. -/
def State.view (s : State) (wk eid : Nat) : Option Th :=
  match s.wave wk with
  | none => none
  | some w => match w.path eid with
    | none => none
    | some p => some { s := s, wk := wk, w := w, p := p }

/-- The state with the view's wave and path put back. -/
def Th.commit (t : Th) : State := t.s.putWave t.wk (t.w.putPath t.p)

/-- CLK of a core, numbered 48 × die + COREID (R96, R134). (DESIGN CHOICE; log 1) -/
def State.clk (s : State) (core : Nat) : BitVec 64 := BitVec.ofNat 64 (s.pkg.cyc.getD core 0 / 1000)

/-- Core number: 48 × die + COREID. -/
def Wave.coreN (w : Wave) : Nat := 48 * w.die + w.core

/-- Does the wave have lane `L`: all 64, or its half of a legacy slot (R66, R212)? -/
def Wave.lanes (w : Wave) : BitVec 64 :=
  if w.w32 then (if w.half then 0xFFFFFFFF00000000 else 0x00000000FFFFFFFF) else 0xFFFFFFFFFFFFFFFF

/-! ## Context and function registers -/

def ctxReset : Ctx := { regs := [], gen := 0, owner := none }

def State.ctx (s : State) (pasid : Nat) : Ctx := sget ctxReset s.ctxs pasid

def State.putCtx (s : State) (pasid : Nat) (c : Ctx) : State := { s with ctxs := sset ctxReset s.ctxs pasid c }

/-- A context control register that exists once per context (R146, R363). -/
def State.ctxReg (s : State) (pasid num : Nat) : BitVec 64 := sget 0 (s.ctx pasid).regs num

def State.setCtxReg (s : State) (pasid num : Nat) (x : BitVec 64) : State :=
  let c := s.ctx pasid
  s.putCtx pasid { c with regs := sset 0 c.regs num x }

/-- Does a context control register exist once per core: those of trace, counters and histogram (R363)?
(DEDUCED; log 30) -/
def perCore (num : Nat) : Bool := 0x160 ≤ num && num ≤ 0x18F && !(0x163 ≤ num && num ≤ 0x167)

/-- A context control register as a core sees it: its own copy where the register exists once per core (R363).
(DEDUCED; log 30) -/
def State.dbgReg (s : State) (pasid core num : Nat) : BitVec 64 :=
  if perCore num then sget 0 s.dbg ((512 * pasid + core) * 4096 + num) else s.ctxReg pasid num

def State.setDbgReg (s : State) (pasid core num : Nat) (x : BitVec 64) : State :=
  if perCore num then { s with dbg := sset 0 s.dbg ((512 * pasid + core) * 4096 + num) x } else s.setCtxReg pasid num x

/-- Dies per partition (R391, R392). -/
def State.partSize (s : State) : Nat := 8 / 2 ^ s.pkg.size

/-- The dies of function `fn` (R391). -/
def State.partDies (s : State) (fn : Nat) : List Nat := (List.range 8).filter fun d => d / s.partSize == fn

def State.dieSt (s : State) (d : Nat) : DieState := sget .online s.pkg.dies d

/-- Is the die online and not being reset (R82)? One whose reset is deferred (R388) is online still, and usable. (DESIGN CHOICE;
log 63) -/
def State.online (s : State) (d : Nat) : Bool := d < 8 && s.dieSt d != .resetting 0 &&
  (match s.dieSt d with | .online => true | .deferred => true | .resetting _ => false)

/-- Reset value of a function register by BAR0 offset (R324, R392). (DESIGN CHOICE; log 3) -/
def fnRegReset (off : Nat) : BitVec 64 := if off == 0x50 then 0xFFFFFFFFFFFFFFFF else 0

def fnReset : Fn := { regs := [], prStop := false, slots := [], rstq := [] }

def State.fn (s : State) (f : Nat) : Fn := sget fnReset s.fns f

def State.putFn (s : State) (f : Nat) (x : Fn) : State := { s with fns := sset fnReset s.fns f x }

def State.fnReg (s : State) (f off : Nat) : BitVec 64 := sget (fnRegReset off) (s.fn f).regs off

def State.setFnReg (s : State) (f off : Nat) (x : BitVec 64) : State :=
  let g := s.fn f
  s.putFn f { g with regs := sset (fnRegReset off) g.regs off x }

/-- Reset value of a package register by BAR0 offset (R392). (DESIGN CHOICE; log 3) -/
def pkgRegReset (off : Nat) : BitVec 64 :=
  if off == 0x100 then 0x03FF0000 else if off == 0x110 then 2400 else if off == 0x118 then 2250 * 65536
  else if off == 0x108 then 16 * 2 ^ 48 + 24 * 2 ^ 32 + 24 * 2 ^ 8 + 3 else 0

def State.pkgReg (s : State) (off : Nat) : BitVec 64 := sget (pkgRegReset off) s.pkg.regs off

def State.setPkgReg (s : State) (off : Nat) (x : BitVec 64) : State :=
  { s with pkg := { s.pkg with regs := sset (pkgRegReset off) s.pkg.regs off x } }

/-! ## Registers of a path -/

def zw (n : Nat) : RWord n := { v := 0, r := 0 }

/-- Read S[n] (R124, R126). -/
def Th.sreg (t : Th) (n : Nat) : RWord 64 :=
  if n = 0 then zw 64 else if n < 16 then sget (zw 64) t.p.s n else sget (zw 64) t.w.sreg n

/-- Write S[n]; a write to S0 is discarded, a write to S1 to S15 sets its write bit (R124, R126). -/
def Th.setS (t : Th) (n : Nat) (x : RWord 64) : Th :=
  if n = 0 then t
  else if n < 16 then { t with p := { t.p with s := sset (zw 64) t.p.s n x, ws := setBit t.p.ws n true } }
  else { t with w := { t.w with sreg := sset (zw 64) t.w.sreg n x } }

/-- Read B[n]; B7 is 1 (R125). -/
def Th.breg (t : Th) (n : Nat) : RWord 1 := if n = 7 then { v := 1, r := 1 } else sget (zw 1) t.p.b n

/-- Write B[n], n from 0 to 6 (R125, R126). -/
def Th.setB (t : Th) (n : Nat) (x : RWord 1) : Th :=
  { t with p := { t.p with b := sset (zw 1) t.p.b n x, wb := setBit t.p.wb n true } }

/-- Read P[n]; P15 is all ones (R166). -/
def Th.preg (t : Th) (n : Nat) : RWord 64 :=
  if n = 15 then { v := 0xFFFFFFFFFFFFFFFF, r := 0 } else sget (zw 64) t.w.p n

/-- Write P[n], n from 0 to 14. -/
def Th.setP (t : Th) (n : Nat) (x : RWord 64) : Th := { t with w := { t.w with p := sset (zw 64) t.w.p n x } }

/-! ### Loop levels and rotating names (R147, R155, R156) -/

def levelZero : LoopLevel := { bits := 0, rs := 0 }

def Wave.level (w : Wave) (n : Nat) : LoopLevel := sget levelZero w.lc n

def Wave.setLevel (w : Wave) (n : Nat) (x : LoopLevel) : Wave := { w with lc := sset levelZero w.lc n x }

def LoopLevel.rot (l : LoopLevel) : Nat := fld l.bits 254 248
def LoopLevel.stg (l : LoopLevel) : Nat := fld l.bits 247 244
def LoopLevel.rrb (l : LoopLevel) : Nat := fld l.bits 243 238
def LoopLevel.cdep (l : LoopLevel) : Nat := fld l.bits 237 230
def LoopLevel.hlev (l : LoopLevel) : Bool := l.bits.getLsbD 229
def LoopLevel.ncnt (l : LoopLevel) : Nat := fld l.bits 223 192
def LoopLevel.iter (l : LoopLevel) : Nat := fld l.bits 191 160
def LoopLevel.rem (l : LoopLevel) : Nat := fld l.bits 159 128
def LoopLevel.enda (l : LoopLevel) : BitVec 64 := l.bits.extractLsb' 64 64
def LoopLevel.starta (l : LoopLevel) : BitVec 64 := l.bits.extractLsb' 0 64

/-- A level with the residues of its words formed from its bits. -/
def levelOf (bits : BitVec 256) : LoopLevel :=
  { bits := bits, rs := (List.range 8).foldl (fun r j => setFld r (4 * j + 3) (4 * j)
      (res (bits.extractLsb' (32 * j) 32).toNat).toNat) 0 }

/-- A level with other bits: a changed word has its residue formed anew, or stays poison; the others keep theirs. -/
def LoopLevel.setBits (l : LoopLevel) (bits : BitVec 256) : LoopLevel :=
  { bits := bits, rs := (List.range 8).foldl (fun r j =>
      let x := bits.extractLsb' (32 * j) 32
      if x == l.bits.extractLsb' (32 * j) 32 || l.rs.extractLsb' (4 * j) 4 == 15 then r
      else setFld r (4 * j + 3) (4 * j) (res x.toNat).toNat) l.rs }

/-- The level closed. -/
def LoopLevel.closed (l : LoopLevel) : LoopLevel := l.setBits (setBit l.bits 255 false)

/-- Word j of a level with its carried residue. -/
def LoopLevel.word (l : LoopLevel) (j : Nat) : RWord 32 :=
  { v := l.bits.extractLsb' (32 * j) 32, r := l.rs.extractLsb' (4 * j) 4 }

/-- The innermost open level with a rotation size (R156). -/
def Wave.rotLevel (w : Wave) : Option LoopLevel :=
  (((List.range w.d).reverse.map w.level).find? fun l => l.rot != 0)

/-- The physical register of name Vk (R156). -/
def Wave.vname (w : Wave) (k : Nat) : Nat :=
  match w.rotLevel with
  | none => k
  | some l => if 192 ≤ k && k < 192 + l.rot then 192 + (k - 192 + l.rrb) % l.rot else k

/-- SGs of the innermost open level (R155). -/
def Wave.sg (w : Wave) (n : Nat) : Bool :=
  if w.d = 0 then true
  else
    let l := w.level (w.d - 1)
    l.stg == 0 || (n < l.stg && n ≤ l.iter && l.iter < l.ncnt + n)

/-- Read lane `L` of name Vk. -/
def Th.vreg (t : Th) (k L : Nat) : RWord 32 := sget (zw 32) t.w.v (64 * t.w.vname k + L)

/-- Write lane `L` of name Vk; every held copy of the register is dropped (R111). -/
def Th.setV (t : Th) (k L : Nat) (x : RWord 32) : Th :=
  { t with w := { t.w with
    v := sset (zw 32) t.w.v (64 * t.w.vname k + L) x,
    latch := t.w.latch.filter fun h => h.reg != t.w.vname k } }

/-! ### The operand latch (R110, R111) -/

/-- A path's held copies are dropped: it traps, parks, splits, reconverges, goes round a loop or ends (R111, R152). -/
def Wave.dropHeld (w : Wave) (eid : Nat) : Wave := { w with latch := w.latch.filter fun h => h.eid != eid }

/-- Does the path hold a copy of physical V register `reg` that an earlier instruction named? -/
def Th.holds (t : Th) (reg : Nat) : Bool := t.w.latch.any fun h => h.eid == t.p.eid && h.reg == reg && h.life ≤ 2

/-- The physical V register that HOLD names (R105, R111). -/
def Th.heldName (t : Th) (f : Fields) : Nat := t.w.vname (if f.hold == 1 then f.sa else if f.hold == 2 then f.sb else f.sc).toNat

/-- The view in which the source that HOLD names has entered the latch, whose three newest copies of a path stay (R111). -/
def Th.latched (t : Th) (f : Fields) : Th :=
  if f.hold == 0 then t
  else
    let mine := t.w.latch.filter fun h => h.eid == t.p.eid
    { t with w := { t.w with latch := (t.w.latch.filter fun h => h.eid != t.p.eid) ++ mine.drop (mine.length - 2) ++
      [{ eid := t.p.eid, reg := t.heldName f, life := 3 }] } }

/-- The wave after an instruction of the path has issued: a copy goes after the second that follows its own (R111). -/
def Wave.agedHeld (w : Wave) (eid : Nat) : Wave :=
  { w with latch := w.latch.filterMap fun h =>
    if h.eid != eid then some h else if h.life ≤ 1 then none else some { h with life := h.life - 1 } }

/-- The extra issue cycles that V sources of names `ks` cost: each read that a bank serves beyond its first, of distinct
registers that are not held (R110, R111). -/
def Th.bankExtra (t : Th) (ks : List Nat) : Nat :=
  let rs := (ks.map t.w.vname).eraseDups.filter fun r => !t.holds r
  (List.range 4).foldl (fun n b => n + ((rs.filter fun r => r % 4 == b).length - 1)) 0

/-- The LID of physical lane `L` (R213). -/
def Wave.lidOf (w : Wave) (L : Nat) : Nat :=
  (sget (BitVec.ofNat 6 (if w.w32 then L % 32 else L)) w.lid L).toNat

/-- The physical lanes of a mask in ascending LID order (R213). -/
def Wave.byLid (w : Wave) (m : BitVec 64) : List Nat :=
  (List.range 64).flatMap fun l => (lanesOf m).filter fun L => w.lidOf L == l

/-- Word `i` of shape register Qn. -/
def Th.qword (t : Th) (n i : Nat) : RWord 32 := sget (zw 32) t.w.q (16 * n + i)

def Th.setQ (t : Th) (n i : Nat) (x : RWord 32) : Th := { t with w := { t.w with q := sset (zw 32) t.w.q (16 * n + i) x } }

/-- The 16 words of Qn. -/
def Th.qrec (t : Th) (n : Nat) : List (RWord 32) := (List.range 16).map (t.qword n)

/-- The generator state of lane `L`; L + 1 at launch (R35). -/
def Th.gen (t : Th) (L : Nat) : RWord 32 := sget (mkW (BitVec.ofNat 32 (L + 1))) t.w.gen L

def Th.setGen (t : Th) (L : Nat) (x : RWord 32) : Th :=
  { t with w := { t.w with gen := sset (mkW (BitVec.ofNat 32 (L + 1))) t.w.gen L x } }

/-! ### Return records (R137, R138) -/

/-- The record list that a path sees: its own records, then those of the joins above it, newest first. The taken and
not-taken arm share what stands on their join. -/
def recsUp (w : Wave) : Nat → Path → List RetRec
  | 0, p => p.recs
  | n + 1, p => p.recs ++ (match p.parent with
    | none => []
    | some e => match w.path e with
      | none => (match w.spilled.find? (fun q => q.eid == e) with
        | none => []
        | some j => recsUp w n j)
      | some j => recsUp w n j)

def Th.recs (t : Th) : List RetRec := recsUp t.w 64 t.p

/-- TPATH.RSD: return records of the path (R142). -/
def Th.rsd (t : Th) : Nat := t.recs.length

/-- Does an instruction that would write S[n] raise SPLIT_SCALAR_WRITE (R127)? -/
def Th.splitWrite (t : Th) (n : Nat) : Bool := 16 ≤ n && t.w.paths.length > 1 && !t.w.hmode

/-! ### Memory of the crew -/

def Th.crew (t : Th) : Option Crew := t.s.crew t.w.crew

/-- Accumulator tile `n` of the wave. -/
def tileZero : Tile := { anchor := 0, elems := [], cr := [], cc := [] }

def Wave.tile (w : Wave) (n : Nat) : Tile := sget tileZero w.tiles n

def Wave.setTile (w : Wave) (n : Nat) (x : Tile) : Wave := { w with tiles := sset tileZero w.tiles n x }

/-- The limits that decode holds the instruction against (R106, R120). -/
def Th.lim (t : Th) : Lim :=
  let c := t.crew
  { v := 8 * t.w.vregs, acc := t.w.acc, nbar := (c.map (·.nbar)).getD 0, nchan := (c.map (·.nchan)).getD 0,
    wids := BitVec.ofNat 16 (2 ^ ((c.map (·.nwaves)).getD 0) - 1), wid := t.w.wid, w32 := t.w.w32,
    upper := t.w.half }

end Sys2Proof.Machine
end

