-- ==== Sys2Proof/Machine/Xlate.lean ====
section
/-!
DEFINITION. Address translation: regions, the table walk, the order of causes, and the translations a die holds
(R245 to R252, R257).
-/
namespace Sys2Proof.Machine

/-- Does the physical address name memory: device HBM of a die, or host memory (R249)? (DESIGN CHOICE; log 59) -/
def physOk (pa : Nat) : Bool :=
  (pa < 2 ^ 40 && pa % 2 ^ 37 < 96 * 2 ^ 30) || (2 ^ 55 ≤ pa && pa < 2 ^ 56)

/-- Host memory (R249). -/
def isHost (pa : Nat) : Bool := 2 ^ 55 ≤ pa

/-- The die of a device address (R249). -/
def dieOf (pa : Nat) : Nat := pa / 2 ^ 37 % 8

/-- Note an access to physical address `pa`: the step faults if it names no memory. (DESIGN CHOICE; log 59) -/
def State.touch (s : State) (pa : Nat) : State :=
  if physOk pa then s else { s with badPa := some (s.badPa.getD pa) }

/-- The free-value index of the `i`-th free choice of this step. -/
def State.ix (s : State) (i : Nat) : Nat := s.steps * 65536 + i

/-- A cause that translation reports (R250). -/
structure XErr where
  cause  : Nat
  info   : Nat        -- TINFO: [3:0] reason, [7:4] level
  served : Bool
  va     : BitVec 64
  leaf   : BitVec 64 := 0   -- the leaf entry, where one with V = 1 was read and found malformed
deriving DecidableEq, Repr

/-- A translation. -/
structure Xl where
  leaf : BitVec 64
  bits : Nat
  pa   : Nat
  pbit : Bool
  addr : Nat          -- physical address of the leaf entry
  pbits : List Nat    -- the pages of its frame whose poison bit came with it (R258)
deriving DecidableEq, Repr

/-- What an access needs of its page (R250), and whether it is speculative (R254). -/
structure Need where
  r : Bool := false
  w : Bool := false
  a : Bool := false
  x : Bool := false
  spec : Bool := false
deriving DecidableEq, Repr

/-- Page bits by PSZ (R245). -/
def pageBits (psz : Nat) : Nat :=
  match psz with
  | 0 => 12
  | 1 => 16
  | 2 => 21
  | 3 => 25
  | _ => 30

def leafV (e : BitVec 64) : Bool := e.getLsbD 0
def leafR (e : BitVec 64) : Bool := e.getLsbD 1
def leafW (e : BitVec 64) : Bool := e.getLsbD 2
def leafX (e : BitVec 64) : Bool := e.getLsbD 3
def leafA (e : BitVec 64) : Bool := e.getLsbD 4
def leafP (e : BitVec 64) : Bool := e.getLsbD 5
def leafAC (e : BitVec 64) : Bool := e.getLsbD 6
def leafD (e : BitVec 64) : Bool := e.getLsbD 7
def leafET (e : BitVec 64) : Bool := e.getLsbD 59
def leafREP (e : BitVec 64) : Bool := e.getLsbD 60
def leafHome (e : BitVec 64) : Nat := fld e 63 61
def leafFrame (e : BitVec 64) : Nat := fld e 55 12 * 4096

/-- Is the frame of a leaf malformed (R248, R249)? -/
def frameBad (e : BitVec 64) (p : Nat) : Bool :=
  let f := leafFrame e
  f % 2 ^ p != 0 || !physOk f || (!isHost f && leafHome e != dieOf f)

/-- The pages of a frame whose bit is set in the poison bitmap (R257). -/
def State.frameBits (s : State) (frame bits : Nat) : List Nat :=
  s.ms.pbits.filter fun p => frame / 4096 ≤ p && p < (frame + 2 ^ bits) / 4096

/-- Read the 8-byte entry at `pa`: its bits, and whether a word of it is poison or fails its check twice (R246).
(DEDUCED; log 43) -/
def readEntry (s : State) (pa : Nat) : BitVec 64 × Bool × Bool :=
  let lo := s.ms.phys.word (pa / 4)
  let hi := s.ms.phys.word (pa / 4 + 1)
  (hi.v ++ lo.v, bad lo || bad hi, sound lo && sound hi)

/-- Causes by their TCAUSE code (R348). -/
def cReadDenied : Nat := 0x20
def cWriteDenied : Nat := 0x21
def cExecDenied : Nat := 0x22
def cAtomicDenied : Nat := 0x23
def cPrivDenied : Nat := 0x24
def cNotPresent : Nat := 0x25
def cStaleGen : Nat := 0x26
def cPoisonPage : Nat := 0x27

/-- The outcome of a walk of `n` more levels from the table at `t`, `lvl` levels down (R246, R250 steps 3 to 5). -/
def walkFrom (s : State) (va : BitVec 64) (p : Nat) : Nat → Nat → Nat → State × Except XErr Xl
  | 0, _, _ => (s, .error { cause := cNotPresent, info := 1, served := true, va := va })
  | n + 1, lvl, t =>
    let off := va.toNat % 2 ^ 53
    let idx := off / 2 ^ (p + 9 * n) % 512
    let ea := t + 8 * idx
    let s := s.touch ea
    let (e, psn, ok) := readEntry s ea
    let err (c r : Nat) (sv : Bool) : Except XErr Xl :=
      .error { cause := c, info := r + 16 * lvl, served := sv, va := va }
    if psn then (s, err cPoisonPage 0 false)
    else if !ok then (s, .error { cause := 0x08, info := 0, served := false, va := va })
    else if !leafV e then (s, err cNotPresent 1 true)
    else if n = 0 then
      if fld e 58 56 != 0 || fld e 11 8 != 0 || frameBad e p then
        (s, .error { cause := cNotPresent, info := 2 + 16 * lvl, served := false, va := va, leaf := e })
      else
        let pa := leafFrame e + off % 2 ^ p
        let l := s.frameBits (leafFrame e) p
        (s, .ok { leaf := e, bits := p, pa := pa, pbit := l.contains (pa / 4096), addr := ea, pbits := l })
    else if fld e 11 1 != 0 || fld e 63 52 != 0 then (s, err cNotPresent 2 false)
    else walkFrom s va p n (lvl + 1) (fld e 51 12 * 4096)

/-- The permission steps 6 to 10 of R250. -/
def permErr (e : BitVec 64) (nd : Need) (hm : Bool) : Option (Nat × Bool) :=
  if leafP e && !hm then some (cPrivDenied, false)
  else if nd.x && !leafX e then some (cExecDenied, false)
  else if nd.r && !leafR e then some (cReadDenied, false)
  else if nd.w && !leafW e then some (cWriteDenied, leafR e)
  else if nd.a && !leafA e then some (cAtomicDenied, false)
  else none

/-! ## Copies and the directory (R314, R319) -/

/-- Who makes an access; `obs`: the stores on their way that it has observed (R315). -/
structure Agent where
  core   : Nat
  wk     : Nat
  eid    : Nat
  op     : Option Nat := none
  pasid  : Nat
  crew   : Nat
  fn     : Nat
  stkidx : Nat
  hm     : Bool
  obs    : List Nat := []
deriving DecidableEq, Repr

def Agent.die (g : Agent) : Nat := g.core / 48

/-- The host, and the device's own harts, as writers. -/
def hostCore : Nat := 384

/-- The device itself, as it writes entries of tables, records and logs. -/
def deviceAgent : Agent :=
  { core := hostCore, wk := 2 ^ 64, eid := 0, pasid := 0, crew := 2 ^ 64, fn := 0, stkidx := 0, hm := false }

/-- Is the store not performed at home yet (R314)? -/
def PStore.early (p : PStore) : Bool := p.stage == .buffered || p.stage == .sent || p.stage == .locking

/-- An invalidation reaches the L1D copies of block `b` that `q` picks; one whose core holds a store to its home block `hb`
that is not performed yet takes effect once it is (R314). -/
def State.invalL1 (s : State) (b hb : Nat) (q : L1Copy → Bool) : State :=
  let hit (c : L1Copy) : Bool := c.blk == b && q c
  let late (c : L1Copy) : Bool := s.ms.stores.any fun p => p.core == c.core && p.blk == hb && p.early
  { s with ms := { s.ms with
      l1d := (s.ms.l1d.filter fun c => !hit c || late c).map fun c => if hit c then { c with inv := true } else c } }

def State.dropWay (s : State) (q : WayCopy → Bool) : State :=
  { s with ms := { s.ms with way := s.ms.way.filter fun c => !q c } }

/-- The dies other than `home` and the writer's that may hold a copy of the block's region and must drop it (R319 step 2). -/
def State.sharersOf (s : State) (b home die : Nat) : BitVec 8 :=
  let m := setBit (setBit (sget 0 s.ms.dir (b / 64)) home false) die false
  maskOf 8 ((lanesOf m).filter fun d => s.online d)

/-- A write of `g` has been performed at the home of block `b` by an atomic, an update of an object, or the device: the L1D
copies of the home die and of the writer's go, as does the writer's waystation copy, and the home sends invalidations to
the other sharers (R319). -/
def State.announce (s : State) (g : Agent) (b : Nat) : State :=
  let home := dieOf (64 * b)
  let s := s.invalL1 b b fun c => c.core / 48 == home || c.core / 48 == g.die
  let s := s.dropWay fun c => c.blk == b && c.die == g.die
  let wait := s.sharersOf b home g.die
  if isHost (64 * b) || wait = 0 then s
  else
    let p : PStore :=
      { sid := s.ms.nextSid, seq := 0, pasid := g.pasid, va := none, tag := 0, hm := g.hm, after := [], core := g.core, wk := g.wk,
        eid := g.eid, crew := g.crew, cons := ((s.crew g.crew).map (·.cons)).getD (2 ^ 64), op := g.op, blk := b,
        mask := 0xFFFFFFFFFFFFFFFF, data := 0, poison := 0, pair := rawPair, home := home, rep := false, relSy := false,
        stage := .atHome, wait := wait, got := 0, told := true, part := 0, t0 := s.ptime }
    { s with ms := { s.ms with stores := s.ms.stores ++ [p], nextSid := s.ms.nextSid + 1 } }

/-- Every block of the byte range [a, a + n) has been written at home by the device (R319). -/
def State.announceAll (s : State) (a n : Nat) : State :=
  ((List.range ((a + n - 1) / 64 + 1 - a / 64)).map (· + a / 64)).foldl (fun s b => s.announce deviceAgent b) s

/-! ## Accessed and dirty -/

/-- Set AC, and D for a write, in the leaf entry: an atomic OR performed before the access (R248). -/
def State.setAD (s : State) (x : Xl) (d : Bool) : State :=
  let e' := setBit (if d then setBit x.leaf 7 true else x.leaf) 6 true
  if e' == x.leaf then s
  else
    let w := s.ms.phys.word (x.addr / 4)
    let m := s.ms.phys.putWord (x.addr / 4) (mkP (bad w) (w.v ||| (e'.extractLsb' 0 32 &&& 0xC0)))
    { s with ms := { s.ms with phys := m } }.announceAll x.addr 8

/-! ## Translations and generations (R251 to R253) -/

/-- The generation that a unit of the context holds: unit 0 to 7 is the TLB of a die, 8 to 15 the memory controllers of a die. -/
def State.genOf (s : State) (pasid unit : Nat) : BitVec 16 :=
  let g := (s.ctx pasid).gen
  match slook s.ms.syncs pasid with
  | some y => if y.behind.contains unit then g - 1 else g
  | none => g

/-- Units of the context take the new generation. -/
def State.catchUp (s : State) (pasid : Nat) (units : List Nat) : State :=
  match slook s.ms.syncs pasid with
  | some y => { s with ms := { s.ms with
      syncs := sput s.ms.syncs pasid { y with behind := y.behind.filter fun u => !units.contains u } } }
  | none => s

/-- Does the translation cover the address? -/
def Tlb.covers (t : Tlb) (die pasid : Nat) (va : BitVec 64) : Bool :=
  t.die == die && t.pasid == pasid && t.va ≤ va.toNat && va.toNat < t.va + 2 ^ t.bits

/-- A translation that die `die` holds for `va` under its generation, whatever the region register says now (R251, R259).
(DESIGN CHOICE; log 6) -/
def State.findTlb (s : State) (die pasid : Nat) (va : BitVec 64) : Option Tlb :=
  s.ms.tlb.find? fun t => t.covers die pasid va && t.gen == s.genOf pasid die

def State.dropTlb (s : State) (q : Tlb → Bool) : State :=
  { s with ms := { s.ms with tlb := s.ms.tlb.filter fun t => !q t } }

/-- The entry of the die that serves `va`, if it still exists (free value). (DESIGN CHOICE; log 6) -/
def State.heldTlb (s : State) (die pasid : Nat) (va : BitVec 64) (i : Nat) : Option Tlb :=
  match s.findTlb die pasid va with
  | some t => if Config.keepsTlb (s.ix i) then some t else none
  | none => none

/-- Walk the tables of the region register `rgn` for `va` (R246). -/
def walkRegion (s : State) (va rgn : BitVec 64) : State × Except XErr Xl :=
  let p := pageBits (fld rgn 2 0)
  walkFrom s va p ((53 - p + 8) / 9) 0 (fld rgn 63 12 * 4096)

/-- The translation before any check of permission: from the die's entry, or by a walk, before which the die drops its entries of
the page. -/
def State.findXl (s : State) (die pasid : Nat) (va rgn : BitVec 64) (held : Option Tlb) : State × Except XErr Xl :=
  match held with
  | some t =>
    let pa := leafFrame t.leaf + va.toNat % 2 ^ t.bits
    (s, .ok { leaf := t.leaf, bits := t.bits, pa := pa, pbit := t.pbits.contains (pa / 4096), addr := t.addr, pbits := t.pbits })
  | none => walkRegion (s.dropTlb fun t => t.covers die pasid va) va rgn

/-- The leaf notes the access, and the die holds the translation (R248, R251). -/
def State.noteXl (s : State) (die pasid : Nat) (va : BitVec 64) (dirty : Bool) (x : Xl) : State × Xl :=
  let page := va.toNat / 2 ^ x.bits * 2 ^ x.bits
  let s := s.setAD x dirty
  let leaf := setBit (if dirty then setBit x.leaf 7 true else x.leaf) 6 true
  let s := s.dropTlb fun t => t.covers die pasid va
  let t : Tlb := { die := die, pasid := pasid, va := page, bits := x.bits, leaf := leaf, gen := s.genOf pasid die, addr := x.addr,
                   pbits := x.pbits }
  ({ s with ms := { s.ms with tlb := t :: s.ms.tlb } }, { x with leaf := leaf })

/-- Translate `va` for an access of context `pasid` on die `die` that needs `nd`, in handler mode or not (R245 to R250).
An entry that the die holds serves the access if it still exists; otherwise the tables are walked.
(DESIGN CHOICE; log 6) -/
def translateOnce (s : State) (die pasid : Nat) (va : BitVec 64) (nd : Need) (hm : Bool) (i : Nat) : State × Except XErr Xl :=
  let err (c info : Nat) (sv : Bool) : Except XErr Xl := .error { cause := c, info := info, served := sv, va := va }
  let rgn := s.ctxReg pasid (0x120 + fld va 56 53)
  let held := s.heldTlb die pasid va i
  if 2 ^ 57 ≤ va.toNat then (s, err cNotPresent 3 false)
  else if held.isNone && !rgn.getLsbD 3 then (s, err cNotPresent 0 false)
  else
    match s.findXl die pasid va rgn held with
    | (s, .error e) => (s, .error e)
    | (s, .ok x) =>
      match permErr x.leaf nd hm with
      | some (c, sv) => (s, err c (16 * ((53 - x.bits + 8) / 9 - 1)) sv)
      | none =>
        if nd.spec then (s, .ok x)
        else
          let (s, x) := s.noteXl die pasid va nd.w x
          (s, .ok x)

/-- The memory controllers that an access reaches, as a unit: those of its home, or of its own die for a read of a replicated
page (R249). -/
def ctlUnit (die : Nat) (nd : Need) (x : Xl) : Nat := 8 + (if leafREP x.leaf && !nd.w then die else leafHome x.leaf)

/-- Do the memory controllers accept the access (R251)? Host memory is none of theirs. -/
def State.accepts (s : State) (die pasid : Nat) (nd : Need) (x : Xl) : Bool :=
  isHost x.pa || s.genOf pasid die == s.genOf pasid (ctlUnit die nd x)

/-- Count a replayed access on GENRPL of the context (R252). -/
def State.countReplay (s : State) (pasid : Nat) : State := s.setCtxReg pasid 0x130 (s.ctxReg pasid 0x130 + 1)

/-- The state `old` with what accesses made since leave behind when they come to nothing: the note of an absent address, and the
counts of replays. -/
def State.revert (s old : State) : State := { old with badPa := s.badPa, ctxs := s.ctxs }

/-- Translate, and pass the memory controllers: a rejected access is translated again and replayed, and a second rejection is STALE_GEN with the rejected tag (R251, R252). Whether the units that differ hold one
generation by the replay is a free value. (DESIGN CHOICE; log 18) -/
def translate (s : State) (die pasid : Nat) (va : BitVec 64) (nd : Need) (hm : Bool) (i : Nat) : State × Except XErr Xl :=
  match translateOnce s die pasid va nd hm i with
  | (s, .error e) => (s, .error e)
  | (s, .ok x) =>
    if nd.spec || s.accepts die pasid nd x then (s, .ok x)
    else
      let s := s.countReplay pasid
      if Config.catchesUp (s.ix i) then translateOnce (s.catchUp pasid [die, ctlUnit die nd x]) die pasid va nd hm i
      else (s, .error { cause := cStaleGen, info := (s.genOf pasid die).toNat, served := false, va := va })

end Sys2Proof.Machine
end

