-- ==== Sys2Proof/Machine/Coherence.lean ====
section
/-!
DEFINITION. Memory behind translation: the device's own accesses, the error log, cached copies, and stores on their
way home (R227 to R229, R234, R235, R314, R319 to R322, R377, R396).
-/
namespace Sys2Proof.Machine

/-! ## Blocks -/

def Blk.word (b : Blk) (i : Nat) : RWord 32 :=
  { v := b.data.extractLsb' (32 * i) 32, r := b.rs.extractLsb' (4 * i) 4 }

/-- A block from its 16 words and its pair. -/
def blkOf (ws : List (RWord 32)) (pair : Pair) : Blk :=
  let go := ws.foldr (fun x (a : Nat × Nat) => (x.v.toNat + 2 ^ 32 * a.1, x.r.toNat + 16 * a.2)) (0, 0)
  { data := BitVec.ofNat 512 go.1, rs := BitVec.ofNat 64 go.2, pair := pair }

def Mem.blk (m : Mem) (b : Nat) : Blk := blkOf (m.words (16 * b) 16) (m.pair b)

def Mem.putBlk (m : Mem) (b : Nat) (x : Blk) : Mem :=
  (m.putWords (16 * b) ((List.range 16).map x.word)).putPair b x.pair

/-- The word that a store of the bytes in `mask` leaves, over the old word (R235): a partial store over a word that is
poison or fails its check leaves residue 15. -/
def mergeWord (old : RWord 32) (mask : BitVec 4) (data : W32) (poison : Bool) : RWord 32 :=
  if mask = 0 then old
  else if mask = 15 then mkP poison data
  else
    let byte (i : Nat) : Nat := (if mask.getLsbD i then data.extractLsb' (8 * i) 8 else old.v.extractLsb' (8 * i) 8).toNat
    let v := BitVec.ofNat 32 (byte 0 + 256 * byte 1 + 65536 * byte 2 + 16777216 * byte 3)
    mkP (poison || bad old || !sound old) v

def PStore.maskAt (p : PStore) (i : Nat) : BitVec 4 := p.mask.extractLsb' (4 * i) 4

/-- The block after the store. -/
def PStore.apply (p : PStore) (b : Blk) : Blk :=
  blkOf ((List.range 16).map fun i =>
    mergeWord (b.word i) (p.maskAt i) (p.data.extractLsb' (32 * i) 32) (p.poison.getLsbD i)) p.pair

/-- A cached copy after the store, `home` being the block at home after it: a word of which the store writes a part, and that
fails its check in the copy, is read again from home (R235). -/
def PStore.applyCopy (p : PStore) (home b : Blk) : Blk :=
  let b' := p.apply b
  blkOf ((List.range 16).map fun i =>
    if p.maskAt i != 0 && p.maskAt i != 15 && !sound (b.word i) then home.word i else b'.word i) p.pair

/-! ## The device's own accesses to physical memory -/

/-- Write words at physical address `pa` (a multiple of 4) at home: blocks become RAW and 127, and copies are invalidated
(R55, R319, R327). -/
def State.devWrite (s : State) (pa : Nat) (ws : List (RWord 32)) : State :=
  let n := 4 * ws.length
  let s := s.touch pa
  let s := s.announceAll pa n
  let m := s.ms.phys.putWords (pa / 4) ws
  let m := ((List.range ((pa + n - 1) / 64 + 1 - pa / 64)).map (· + pa / 64)).foldl (fun m b => m.putPair b rawPair) m
  { s with ms := { s.ms with phys := m } }

/-- A 64-bit value as two words. -/
def two (x : BitVec 64) : List (RWord 32) := [mkW (x.extractLsb' 0 32), mkW (x.extractLsb' 32 32)]

def State.devWrite64 (s : State) (pa : Nat) (x : BitVec 64) : State := s.devWrite pa (two x)

/-- Read `n` words at physical address `pa` from home. -/
def State.devRead (s : State) (pa n : Nat) : State × List (RWord 32) := (s.touch pa, s.ms.phys.words (pa / 4) n)

def join64 (lo hi : RWord 32) : BitVec 64 := hi.v ++ lo.v

/-- Word `i` (64 bits) of a list of 32-bit words. -/
def word64 (ws : List (RWord 32)) (i : Nat) : BitVec 64 := join64 (ws.getD (2 * i) (zw 32)) (ws.getD (2 * i + 1) (zw 32))

/-- Are all words clean: neither poison nor failing their check? -/
def allClean (ws : List (RWord 32)) : Bool := ws.all fun x => !bad x && sound x

/-! ## The error log (R396) -/

/-- Write a record to the error log of function `fn` and signal MSI-X vector 0; a full log drops it; a log whose base
is 0 or names no device HBM is disabled (R392, R396). -/
def State.logError (s : State) (fn : Nat) (r : LogRec) : State :=
  let base := (s.fnReg fn 0x20).toNat / 2 ^ 17 * 2 ^ 17
  if base = 0 || !physOk base || isHost base then s
  else
    let ptr := s.fnReg fn 0x28
    let wr := fld ptr 23 0
    let rd := fld ptr 47 24
    if (wr + 2 ^ 24 - rd) % 2 ^ 24 = 1024 then s.setFnReg fn 0x28 (setFld ptr 63 48 (satInc 16 (fld ptr 63 48)))
    else
      let w0 := BitVec.ofNat 64 (r.carav.toNat * 2 ^ 32 + r.core * 2 ^ 15 + r.die * 2 ^ 12 + r.cls * 2 ^ 8 + r.code)
      let w1 := r.crew ++ r.node ++ r.seq ++ r.route
      let t := (List.range 6).map fun i => r.t.getD i 0
      let ws := (w0 :: w1 :: s.ptime :: t) ++ [r.w9, 0, 0, 0, 0, 0, 0]
      let s := s.devWrite (base + 128 * (wr % 1024)) (ws.flatMap two)
      let s := s.setFnReg fn 0x28 (setFld ptr 23 0 ((wr + 1) % 2 ^ 24))
      { s with outbox := .msix fn 0 :: s.outbox }

/-- The function that holds die `d` (R391). -/
def State.fnOfDie (s : State) (d : Nat) : Nat := d / s.partSize

/-- Count an event of a lifetime histogram (R383). -/
def State.countHist (s : State) (h k : Nat) : State :=
  let x := sget 0 s.pkg.gath h
  { s with pkg := { s.pkg with gath := sset 0 s.pkg.gath h (setFld x (16 * k + 15) (16 * k) (satInc 16 (fld x (16 * k + 15) (16 * k)))) } }

/-- Histogram of lane `L` of quad `q` (numbered 4 × core + QUADID), and of the L2 arrays of a die (R383). -/
def histLane (q L : Nat) : Nat := 64 * q + L
def histArray (die : Nat) : Nat := 64 * 4 * 384 + die

/-! ## Copies -/

/-- Where a block lives: its number on the reading die, its home copy's number and home die, and its page's flags. -/
structure MemAt where
  blk  : Nat
  home : Nat        -- block number of the home copy
  hdie : Nat
  rep  : Bool
  host : Bool
  et   : Bool
deriving DecidableEq, Repr

/-- The place of a physical address under a leaf entry, read from die `die` (R249, R321). -/
def memAt (die pa : Nat) (leaf : BitVec 64) : MemAt :=
  let host := isHost pa
  let rep := leafREP leaf && !host
  let h := leafHome leaf
  { blk := if rep then (pa + 2 ^ 37 * die - 2 ^ 37 * h) / 64 else pa / 64, home := pa / 64, hdie := h, rep := rep,
    host := host, et := leafET leaf }

/-- The place of an untranslated physical address (STK). -/
def rawAt (pa : Nat) : MemAt :=
  { blk := pa / 64, home := pa / 64, hdie := dieOf pa, rep := false, host := isHost pa, et := false }

/-- Stores of core `core` to home block `b` that are core-visible only (R314). -/
def State.pending (s : State) (core b : Nat) : List PStore :=
  s.ms.stores.filter fun p => p.core == core && p.blk == b && p.early

def overlay (b : Blk) (ps : List PStore) : Blk := ps.foldl (fun b p => p.apply b) b

/-- Is the block's home being reset (R388)? -/
def State.away (s : State) (m : MemAt) : Bool := !m.host && !s.online m.hdie

/-- Does an access that has stalled since package time `t0` still stall on the block's home (R388)? A read of a
replicated page reads its own die's copy. -/
def State.homeStalls (s : State) (m : MemAt) (t0 : BitVec 64) : Bool :=
  !m.host && !m.rep && (match s.dieSt m.hdie with
    | .resetting since => (s.ptime - (if since.toNat < t0.toNat then t0 else since)).toNat < 100000
    | _ => false)

/-- A sector of which every word is poison. -/
def poisonBlk : Blk := { data := 0, rs := 0xFFFFFFFFFFFFFFFF, pair := rawPair }

/-- The block that its home serves: poisoned while the home is being reset, the reader's own copy of a replicated page
(R321, R388). -/
def State.served (s : State) (m : MemAt) : Blk :=
  if s.away m then if m.rep then s.ms.phys.blk m.blk else poisonBlk else s.ms.phys.blk m.home

/-- The block at home, under the core's own stores and, on a replicated page, a commit that runs: what a load whose stall
on a locked replica has ended reads (R322). (DEDUCED; log 41) -/
def State.homeBlk (s : State) (core : Nat) (m : MemAt) : Blk :=
  let late := s.ms.stores.filter fun p => m.rep && p.rep && p.blk == m.home && p.stage == .locking
  overlay (overlay (s.served m) late) (s.pending core m.home)

/-- What a read of block `m` by core `core` may return: stores on their way that it then has observed (R314, R315). -/
def State.seenBy (s : State) (core : Nat) (m : MemAt) : List Nat :=
  (s.ms.stores.filter fun p => p.blk == m.home &&
    (p.core == core || !p.early || (p.stage == .sent && p.core / 48 == core / 48))).map (·.sid)

/-- Insert a store by its place in the order of sending. -/
def bySeq (p : PStore) : List PStore → List PStore
  | [] => [p]
  | q :: l => if p.seq < q.seq then p :: q :: l else q :: bySeq p l

/-- Stores that die `die` has sent to home block `b` and that are not performed yet, in the order of sending (R319). -/
def State.sentBy (s : State) (die b : Nat) : List PStore :=
  (s.ms.stores.filter fun p => p.core / 48 == die && p.blk == b && p.stage == .sent).foldl (fun l p => bySeq p l) []

/-- The block in memory that a read of the reader's die reaches: the die's own copy of a replicated page, or what the home
serves under the stores that the die has sent to it (R249, R319, R321). -/
def State.dieBlk (s : State) (core : Nat) (m : MemAt) : Blk :=
  if m.rep then s.ms.phys.blk m.blk else overlay (s.served m) (s.sentBy (core / 48) m.home)

/-- As `dieBlk`, under the core's own stores. -/
def State.localBlk (s : State) (core : Nat) (m : MemAt) : Blk := overlay (s.dieBlk core m) (s.pending core m.home)

def State.l1 (s : State) (core b : Nat) : Option L1Copy := s.ms.l1d.find? fun c => c.core == core && c.blk == b
def State.wayCopy (s : State) (die b : Nat) : Option WayCopy := s.ms.way.find? fun c => c.die == die && c.blk == b

def State.dropL1 (s : State) (q : L1Copy → Bool) : State :=
  { s with ms := { s.ms with l1d := s.ms.l1d.filter fun c => !q c } }

/-- The entries of a list, newest first, that remain when at most `n` of those that `q` picks do. -/
def keepNewest {α : Type} (q : α → Bool) : Nat → List α → List α
  | _, [] => []
  | n, x :: l => if !q x then x :: keepNewest q n l else if n = 0 then keepNewest q 0 l else x :: keepNewest q (n - 1) l

/-- A core's L1D takes a copy: 384 KiB hold 6,144 blocks, of which at most 1,536 are pinned and stay (R13, R229).
(DESIGN CHOICE; log 5) -/
def State.putL1 (s : State) (c : L1Copy) : State :=
  let rest := s.ms.l1d.filter fun x => !(x.core == c.core && x.blk == c.blk)
  let pinned := (rest.filter fun x => x.core == c.core && x.pin.isSome).length
  { s with ms := { s.ms with l1d := c :: keepNewest (fun x => x.core == c.core && x.pin.isNone) (6143 - pinned) rest } }

/-- Set bit `die` of the sharer mask of the region of block `b` (R319). (DEDUCED; log 40) -/
def State.share (s : State) (b die : Nat) : State :=
  { s with ms := { s.ms with dir := sset 0 s.ms.dir (b / 64) (setBit (sget 0 s.ms.dir (b / 64)) die true) } }

/-- The waystation cache of `die` takes the line of block `b`: 32 MiB hold 524,288 (R13, R319). (DESIGN CHOICE; log 5) -/
def State.fillWay (s : State) (die b : Nat) : State :=
  let s := s.dropWay fun c => c.die == die && c.blk == b
  let s := s.share b die
  let c : WayCopy := { die := die, blk := b, data := overlay (s.ms.phys.blk b) (s.sentBy die b) }
  { s with ms := { s.ms with way := c :: keepNewest (fun x => x.die == die) 524287 s.ms.way } }

/-- What a block read found. -/
structure RdStat where
  hits   : Nat
  misses : Nat
  fills  : Nat
deriving DecidableEq, Repr

/-- A block as a load of `core` reads it: the L1D copy if it still exists, else the waystation copy, else what the home
serves, each under the core's own stores that are not yet at home (R227, R228, R314). Whether a copy still exists and
whether one is made are free values. `nl1` passes the L1D by, `pin` pins the copy for a crew, `hinted` allocates in the
waystation cache (R228, R229). (DESIGN CHOICE; log 5) -/
def State.readBlk (s : State) (core : Nat) (m : MemAt) (nl1 : Bool) (pin : Option Nat) (hinted : Bool) (i : Nat)
    (st : RdStat) : State × Blk × RdStat :=
  let die := core / 48
  let own := s.pending core m.home
  let s := s.touch (64 * m.blk)
  let pinned := (s.ms.l1d.filter fun c => c.core == core && c.pin.isSome).length
  let pin := if pinned < 1536 then pin else none
  let l1 := match s.l1 core m.blk with
    | some c => if !nl1 && (c.pin.isSome || Config.keepsCopy (s.ix (2 * i))) then some c else none
    | none => none
  match l1 with
  | some c =>
    let s := if c.pin.isNone && pin.isSome then
      { s with ms := { s.ms with l1d := lmod s.ms.l1d (fun x => x == c) fun x => { x with pin := pin } } } else s
    (s, overlay c.data own, { st with hits := st.hits + 1 })
  | none =>
    let s := if nl1 then s else s.dropL1 fun c => c.core == core && c.blk == m.blk
    let remote := m.hdie != die && !m.host && !m.rep
    let way := match s.wayCopy die m.blk with
      | some c => if remote && Config.keepsCopy (s.ix (2 * i + 1)) then some c else none
      | none => none
    let (s, base, fills) : State × Blk × Nat := match way with
      | some c => (s, c.data, 0)
      | none =>
        let s := s.dropWay fun c => c.die == die && c.blk == m.blk
        let b := s.dieBlk core m
        if remote && !s.away m && (hinted || Config.allocates (s.ix (2 * i + 1))) then (s.fillWay die m.blk, b, 1) else (s, b, 0)
    let s := if !nl1 && !m.host && (m.rep || !s.away m) && (pin.isSome || Config.allocates (s.ix (2 * i))) then
        let s := if remote then s.share m.blk die else s
        s.putL1 { core := core, blk := m.blk, data := base, pin := pin, inv := false }
      else s
    (s, overlay base own, { hits := st.hits, misses := st.misses + 1, fills := st.fills + fills })

/-! ## Stores -/

/-- Accept a store of agent `g` to one block: core-visible at once, on its way home (R314). `va`: the block's virtual address,
where it is translated. -/
def State.storeBlk (s : State) (g : Agent) (va : Option Nat) (m : MemAt) (mask : BitVec 64) (data : BitVec 512)
    (poison : BitVec 16) (pair : Pair) (relSy : Bool) : State :=
  let s := s.touch (64 * m.home)
  let p : PStore :=
    { sid := s.ms.nextSid, seq := 0, pasid := g.pasid, va := va, tag := s.genOf g.pasid g.die, hm := g.hm,
      after := (s.ms.stores.filter fun q => g.obs.contains q.sid).map (·.sid), core := g.core, wk := g.wk, eid := g.eid, crew := g.crew,
      cons := ((s.crews.find? fun c => c.h == g.crew).map (·.cons)).getD (2 ^ 64), op := g.op, blk := m.home, mask := mask, data := data,
      poison := poison, pair := pair, home := m.hdie, rep := m.rep, relSy := relSy, stage := .buffered, wait := 0,
      got := 0, told := false, part := 0, t0 := s.ptime }
  { s with ms := { s.ms with stores := s.ms.stores ++ [p], nextSid := s.ms.nextSid + 1 } }

def State.findStore (s : State) (sid : Nat) : Option PStore := s.ms.stores.find? fun p => p.sid == sid

def State.putStore (s : State) (p : PStore) : State :=
  { s with ms := { s.ms with stores := lmod s.ms.stores (fun q => q.sid == p.sid) fun _ => p } }

/-- Merge word `i` of store `p` into the home copy and into the copies of its own core and die; a partial store over a
word that fails its check at home as well stores residue 15, logs and counts (R235). -/
def State.mergeHome (s : State) (p : PStore) (i : Nat) : State :=
  let mask := p.maskAt i
  if mask = 0 then s
  else
    let old := s.ms.phys.word (16 * p.blk + i)
    let x := mergeWord old mask (p.data.extractLsb' (32 * i) 32) (p.poison.getLsbD i)
    let s := { s with ms := { s.ms with phys := s.ms.phys.putWord (16 * p.blk + i) x } }
    if mask != 15 && !sound old then
      let s := s.countHist (histArray p.home) 3
      s.logError (s.fnOfDie p.home) { cls := 3, code := 1, die := p.home, w9 := BitVec.ofNat 64 (64 * p.blk) }
    else s

/-- The words of which the store writes some bytes only. -/
def PStore.partial (p : PStore) : BitVec 16 := maskOf 16 ((List.range 16).filter fun i => p.maskAt i != 0 && p.maskAt i != 15)

/-- The DPORD bit of a pair in its function's register. -/
def State.setOrd (s : State) (a h : Nat) (on : Bool) : State :=
  let fn := s.fnOfDie a
  s.setFnReg fn 0x50 (setBit (s.fnReg fn 0x50) (8 * a + h) on)

/-- Store `sid` is on no route any more: a pair that is back on its default route has its DPORD bit again once the last store on
the changed route is performed or gone (R324). -/
def State.unstray (s : State) (sid : Nat) : State :=
  let mine := s.pkg.strays.filter fun x => x.2 == sid
  let rest := s.pkg.strays.filter fun x => x.2 != sid
  let s := { s with pkg := { s.pkg with strays := rest } }
  mine.foldl (fun s x => if rest.any fun y => y.1 == x.1 then s else s.setOrd (x.1 / 8) (x.1 % 8) true) s

/-- The writer's die takes a store to a remote home before it sends it: its waystation copy takes the store's bytes, and the
other L1D copies of the block on the die go (R319). -/
def State.send (s : State) (p : PStore) : State :=
  let die := p.core / 48
  let s := s.invalL1 p.blk p.blk fun c => c.core != p.core && c.core / 48 == die
  let p := { p with stage := StoreStage.sent, seq := s.ms.nextSid }
  let after := p.apply (overlay (s.ms.phys.blk p.blk) (s.sentBy die p.blk))
  let way := lmod s.ms.way (fun c => c.blk == p.blk && c.die == die) fun c => { c with data := p.applyCopy after c.data }
  ({ s with ms := { s.ms with nextSid := s.ms.nextSid + 1, way := way } }).putStore p

/-- The core of a store has none left to the block: an invalidation that waited in its L1D takes effect (R314). -/
def State.lateInval (s : State) (p : PStore) : State :=
  if (s.pending p.core p.blk).any fun q => q.sid != p.sid then s
  else s.dropL1 fun c => c.core == p.core && c.blk == p.blk && c.inv

/-- The home writes a store (R314, R319 step 1): the home copy takes its words but those in `later`, and its pair, the
L1D copy of its own core is updated, and every other L1D copy on the home die goes. (DESIGN CHOICE; log 11)
(DEDUCED; log 40) -/
def State.performHome (s : State) (p : PStore) (later : BitVec 16) : State :=
  let s := (List.range 16).foldl (fun s i => if later.getLsbD i then s else s.mergeHome p i) s
  let s := { s with ms := { s.ms with phys := s.ms.phys.putPair p.blk p.pair } }
  let after := p.apply (s.ms.phys.blk p.blk)
  let s := { s with ms := { s.ms with
      l1d := lmod s.ms.l1d (fun c => c.blk == p.blk && c.core == p.core) fun c => { c with data := p.applyCopy after c.data } } }
  let s := s.invalL1 p.blk p.blk fun c => c.core != p.core && (c.core / 48 == p.home || (p.core < hostCore && c.core / 48 == p.core / 48 && p.stage != .sent))
  (s.lateInval p).unstray p.sid

/-- The dies that hold a copy of the block's region and must drop it (R319 step 2). -/
def State.sharers (s : State) (p : PStore) : BitVec 8 := s.sharersOf p.blk p.home (p.core / 48)

/-- The dies of the partition of die `d` that hold replicas and are online (R321). -/
def State.replicas (s : State) (d : Nat) : BitVec 8 :=
  maskOf 8 ((s.partDies (s.fnOfDie d)).filter fun e => e != d && s.online e)

/-- Does the store travel to another die before its home writes it (R319)? -/
def PStore.remote (p : PStore) : Bool := p.core < hostCore && p.home != p.core / 48 && !p.rep && !isHost (64 * p.blk)

/-- Must store `p` wait for an earlier one: of its core, or sent by its die, to the same block (R312), of its agent to the same
remote home while the pair keeps its default route (R323), for a commit to the same block (R321), or among ordered host
writes for an earlier arrival (R326)? (DEDUCED; log 16) -/
def State.storeWaits (s : State) (p : PStore) : Bool :=
  s.ms.stores.any fun q => q.sid != p.sid &&
    ((q.sid < p.sid && q.core == p.core && q.blk == p.blk && (q.stage == .buffered || q.stage == .sent)) ||
     (q.stage == .sent && p.stage == .sent && q.core / 48 == p.core / 48 && q.blk == p.blk && q.seq < p.seq) ||
     (p.remote && q.remote && q.early && q.op.isNone && q.wk == p.wk && q.home == p.home && p.after.contains q.sid &&
       (s.fnReg (s.fnOfDie (p.core / 48)) 0x50).getLsbD (8 * (p.core / 48) + p.home)) ||
     (q.rep && q.blk == p.blk && (q.stage == .locking || q.stage == .atHome)) ||
     (q.sid < p.sid && q.early && p.core == hostCore && q.core == hostCore && p.relSy && q.relSy))

/-- Must the store wait before its die sends it: for an earlier store of its core to the same block that is not sent yet (R312)? -/
def State.sendWaits (s : State) (p : PStore) : Bool :=
  s.ms.stores.any fun q => q.sid < p.sid && q.core == p.core && q.blk == p.blk && q.stage == .buffered

/-- Note that the replica of home block `b` on die `e` has missed a commit (R321). -/
def State.missed (s : State) (e b : Nat) : State :=
  if s.ms.lost.contains (e, b) then s else { s with ms := { s.ms with lost := (e, b) :: s.ms.lost } }

/-- Complete the home write of a store that is not replicated, or whose locks are all held; the words in `later` are
left to be merged. Replicas on dies that are offline are skipped and refreshed when the die returns (R321).
(DEDUCED; log 40) -/
def State.writeHome (s : State) (p : PStore) (later : BitVec 16) : State :=
  let s := s.performHome p later
  let wait := if p.rep then s.replicas p.home else if isHost (64 * p.blk) then 0 else s.sharers p
  let st := if wait = 0 && !isHost (64 * p.blk) then StoreStage.done else .atHome
  let off := if p.rep then (s.partDies (s.fnOfDie p.home)).filter fun e => e != p.home && !s.online e else []
  (off.foldl (fun s e => s.missed e p.blk) s).putStore { p with stage := st, wait := wait, got := 0, part := later }

/-- Write a store at home and merge its partial words next (R235). -/
def State.arriveHome (s : State) (p : PStore) : State :=
  let s := s.writeHome p p.partial
  { s with agenda := (lanesOf p.partial).map (fun i => Instr.cachePartialMerge p.sid (16 * p.blk + i)) ++ s.agenda }

/-- Has the store the generation that its home's memory controllers hold (R251)? -/
def State.accepted (s : State) (p : PStore) : Bool :=
  p.va.isNone || isHost (64 * p.blk) || p.tag == s.genOf p.pasid (8 + p.home)

/-- A store that the memory controllers reject is translated again and replayed, which GENRPL counts: it goes to the place that
its page now has. Where that meets a cause, the store waits (R252, R325). (DESIGN CHOICE; log 18) -/
def State.replayStore (s : State) (p : PStore) : State :=
  let s := s.countReplay p.pasid
  let va := BitVec.ofNat 64 (p.va.getD 0)
  match translateOnce s (p.core / 48) p.pasid va { w := true } p.hm 900 with
  | (s, .error _) => s
  | (s, .ok x) =>
    let m := memAt (p.core / 48) x.pa x.leaf
    s.putStore { p with blk := m.home, home := m.hdie, rep := m.rep, tag := s.genOf p.pasid (p.core / 48), stage := .buffered }

/-- HOME_WRITE: a store to a remote home is first sent; then it is performed at home if nothing earlier holds it back (R314,
R319, R321). -/
def State.homeWrite (s : State) (p : PStore) : State :=
  if !(p.stage == .buffered || p.stage == .sent) || !s.online p.home && !isHost (64 * p.blk) then s
  else if p.remote && p.stage == .buffered then (if s.sendWaits p then s else s.send p)
  else if s.storeWaits p then s
  else if !s.accepted p then s.replayStore p
  else if p.rep && s.replicas p.home != 0 then s.putStore { p with stage := .locking, wait := s.replicas p.home, got := 0 }
  else s.arriveHome p

/-- The replica of home block `b` (homed on `h`) on die `e` takes the home copy (R321 step 2). -/
def State.updateReplica (s : State) (b h e : Nat) : State :=
  let b' := b + 2 ^ 31 * e - 2 ^ 31 * h
  let s := s.dropL1 fun c => c.blk == b' && c.core / 48 == e
  { s with ms := { s.ms with phys := s.ms.phys.putBlk b' (s.ms.phys.blk b), locks := s.ms.locks.filter fun l => l != (e, b) } }

def State.updateReplicas (s : State) (b h : Nat) : State :=
  (lanesOf (s.replicas h)).foldl (fun s e => s.updateReplica b h e) s

/-- Every die drops its copies of a block that a store has written, and acknowledges: the store is done and gone. -/
def State.settled (s : State) (p : PStore) : State :=
  let s := if p.rep then s.updateReplicas p.blk p.home else s
  let s := (s.dropL1 fun c => c.blk == p.blk && c.core != p.core).dropWay fun c => c.blk == p.blk && c.die != p.core / 48
  { s with ms := { s.ms with stores := s.ms.stores.filter fun q => q.sid != p.sid } }

/-- Perform store `p` at home, with all that follows, after the stores that must come before it. -/
def State.finishStore (s : State) (p : PStore) : State :=
  let before := s.ms.stores.filter fun q => q.blk == p.blk && q.sid != p.sid && q.early &&
    (q.stage == .locking || (q.core == p.core && q.sid < p.sid))
  let all := (before.filter fun q => q.stage == .locking) ++ (s.sentBy (p.core / 48) p.blk).filter (fun q => q.sid != p.sid) ++
    before.filter (fun q => q.stage == .buffered) ++ [p]
  let one (s : State) (q : PStore) : State := if q.early then (s.writeHome q 0).settled q else s.settled q
  all.foldl (fun s q => match s.findStore q.sid with
    | none => s
    | some q =>
      if q.remote && q.stage == .buffered then
        let s := s.send q
        match s.findStore q.sid with
        | some q => one s q
        | none => s
      else one s q) s

/-- Every store of the core is performed and done. -/
def State.flushCore (s : State) (core : Nat) : State :=
  (s.ms.stores.filter fun p => p.core == core).foldl (fun s p => match s.findStore p.sid with
    | some p => s.finishStore p
    | none => s) s

/-- Is a commit of the block running (R321)? -/
def State.committing (s : State) (b : Nat) : Bool :=
  s.ms.stores.any fun p => p.rep && p.blk == b && (p.stage == .locking || p.stage == .atHome)

/-- Is the block locked on die `e` (R322)? -/
def State.locked (s : State) (e b : Nat) : Bool := s.ms.locks.contains (e, b)

/-- Must a release or fence of core `core` at `scope` wait for store `p`, which its agent has observed (R315, R320, R327)? Up
to .co until the store is visible on the core; at .di until it is performed with respect to the die: for ACCEPT of the die's own
store, and for the invalidations aimed at the die; at .pk and .sy until it is DONE; a write to host memory only at .sy, until it is
flushed. -/
def PStore.holds (p : PStore) (s : State) (core scope : Nat) : Bool :=
  let die := core / 48
  let remote := p.home != die
  if isHost (64 * p.blk) then p.core != core && p.early || scope == 5
  else
    p.early && (p.core != core || 3 ≤ scope) ||
      3 ≤ scope && (p.stage == .atHome && p.core / 48 == die && remote && !p.told ||
        p.stage == .atHome && !p.rep && p.wait.getLsbD die && !p.got.getLsbD die ||
        s.ms.l1d.any fun c => c.inv && c.blk == p.blk && (c.core / 48 == die || c.core / 48 == p.home)) ||
      4 ≤ scope && (p.stage == .atHome || remote)

/-- Does a release or fence of an agent of core `core` that has observed the stores `obs` have to wait at `scope`?
(DEDUCED; log 14) (DEDUCED; log 16) -/
def State.mustWait (s : State) (core : Nat) (obs : List Nat) (scope : Nat) : Bool :=
  s.ms.stores.any fun p => obs.contains p.sid && p.holds s core scope

/-! ## Scratchpad and die scratch -/

def State.dscMem (s : State) (pasid die : Nat) : Mem :=
  match s.ms.dsc.find? fun x => x.1 == (pasid, die) with
  | some x => x.2
  | none => Mem.empty

def State.setDsc (s : State) (pasid die : Nat) (m : Mem) : State :=
  let rest := s.ms.dsc.filter fun x => x.1 != (pasid, die)
  { s with ms := { s.ms with dsc := if m = Mem.empty then rest else ((pasid, die), m) :: rest } }

/-- The words of block `b` of an on-chip memory that a store of the bytes in `mask` writes in part and that fail their check:
the same bank is read again, and fails again (R235). -/
def Mem.lostMerges (m : Mem) (b : Nat) (mask : BitVec 64) : List Nat :=
  ((List.range 16).filter fun i => mask.extractLsb' (4 * i) 4 != 0 && mask.extractLsb' (4 * i) 4 != 15 &&
    !sound (m.word (16 * b + i))).map fun i => 16 * b + i

/-- Log and count merges that stored residue 15 in an on-chip array of `die` (R235, R383, R396). (DESIGN CHOICE; log 11) -/
def State.noteLost (s : State) (fn die : Nat) (ws : List Nat) : State :=
  ws.foldl (fun s w => (s.countHist (histArray die) 3).logError fn { cls := 3, code := 1, die := die, w9 := BitVec.ofNat 64 (4 * w) }) s

/-- Store bytes into an on-chip memory (R221, R224, R235): words merge, blocks become RAW and 127. -/
def Mem.storeBlk (m : Mem) (b : Nat) (mask : BitVec 64) (data : BitVec 512) (poison : BitVec 16) (pair : Pair) : Mem :=
  ((List.range 16).foldl (fun m i =>
    if mask.extractLsb' (4 * i) 4 = 0 then m
    else m.putWord (16 * b + i) (mergeWord (m.word (16 * b + i)) (mask.extractLsb' (4 * i) 4)
      (data.extractLsb' (32 * i) 32) (poison.getLsbD i))) m).putPair b pair

end Sys2Proof.Machine
end

