-- ==== Sys2Proof/Machine/Access.lean ====
section
/-!
DEFINITION. The accesses of an agent: apertures, the checks before any lane accesses memory, reading and writing
elements, and capture of pages by an open replay region (R219 to R225, R230 to R236, R371).
-/
namespace Sys2Proof.Machine

/-- Where an aperture or translation puts an element. -/
inductive Loc where
  | ls (o : Nat)
  | dsc (o : Nat)
  | mem (va : Nat) (pa : Nat) (m : MemAt)
deriving DecidableEq, Repr

/-- The causes of R348 that accesses raise, beyond those of translation. -/
def cResidue : Nat := 0x08
def cPoisonUse : Nat := 0x09
def cMisaligned : Nat := 0x28
def cAperture : Nat := 0x29

/-- What stops an access before any lane accesses memory (R233). -/
structure MErr where
  cause  : Nat
  info   : Nat := 0
  lanes  : BitVec 64 := 0
  addr   : BitVec 64 := 0
  served : Bool := false
  pages  : List Nat := []
  write  : Bool := false
  kind   : Nat := 0          -- KIND of the park record (R255)
  hint   : Nat := 15         -- HINT of the park record
  low    : Option (BitVec 64) := none   -- lowest address at which a served cause was met, if not `addr`
deriving DecidableEq, Repr

/-- An element access: physical lane and generic address. -/
abbrev El := Nat × BitVec 64

/-- Which aperture takes a generic address, if any: 0 LS, 1 STK, 2 DSC, with the offset (R219, R220). -/
def aperture (s : State) (pasid : Nat) (a : BitVec 64) : Option (Nat × Nat) :=
  let hit (num : Nat) : Option Nat :=
    let r := s.ctxReg pasid num
    let base := r.toNat / 2 ^ 30 * 2 ^ 30
    if r.getLsbD 2 && base ≤ a.toNat && a.toNat < base + 2 ^ 30 then some (a.toNat - base) else none
  match hit 0x110 with
  | some o => some (0, o)
  | none => match hit 0x111 with
    | some o => some (1, o)
    | none => (hit 0x112).map fun o => (2, o)

/-- DIEMIB of a die (R14). -/
def dieMib (d : Nat) : Nat := if Config.dualFuses.getLsbD d then 768 else 384

/-- Bytes of die scratch of a context on a die (R15, R224). -/
def dscSize (s : State) (pasid die : Nat) : Nat :=
  match fld (s.ctxReg pasid 0x112) 1 0 with
  | 0 => 0
  | 1 => dieMib die * 2 ^ 20 / 4
  | _ => dieMib die * 2 ^ 20 / 2

/-- Stack bytes per lane, and the backing address of byte `o` of a lane's stack (R222). -/
def stkSize (s : State) (pasid : Nat) : Nat := 16 * fld (s.ctxReg pasid 0x113) 15 0

def stkAddr (s : State) (pasid stkidx L o : Nat) : Nat :=
  (fld (s.ctxReg pasid 0x113) 63 16 * 2 ^ 16 + 64 * stkSize s pasid * stkidx + (o / 4 * 64 + L) * 4 + o % 4) % 2 ^ 64

/-- Which apertures an access may not use (R225), and whether lanes have stacks. -/
structure ApRule where
  noStk : Bool := false
  noDsc : Bool := false
deriving DecidableEq, Repr

/-- The aperture outcome of one element: none for translated memory, an error, or a place. -/
def apLoc (s : State) (g : Agent) (r : ApRule) (n : Nat) (e : El) : Option (Option Loc) :=
  match aperture s g.pasid e.2 with
  | none => none
  | some (0, o) => some (if o + n ≤ ((s.crew g.crew).map (·.scrSize)).getD 0 then some (.ls o) else none)
  | some (1, o) =>
    some (if r.noStk || o + n > stkSize s g.pasid then none
      else
        let pa := stkAddr s g.pasid g.stkidx e.1 o
        some (.mem e.2.toNat pa (rawAt pa)))
  | some (_, o) => some (if r.noDsc || o + n > dscSize s g.pasid g.die then none else some (.dsc o))

/-- The step of R250 that a cause belongs to. -/
def xStep (e : XErr) : Nat :=
  if e.cause = cNotPresent then
    (match e.info % 16 with | 3 => 1 | 0 => 2 | 2 => 4 | _ => 5)
  else if e.cause = cPoisonPage || e.cause = cResidue then 3
  else if e.cause = cPrivDenied then 6
  else if e.cause = cExecDenied then 7
  else if e.cause = cReadDenied then 8
  else if e.cause = cWriteDenied then 9
  else if e.cause = cStaleGen then 12
  else 10

/-- Translate the distinct 4 KiB pages of a list of addresses. -/
def xlatePages (s : State) (g : Agent) (nd : Need) (i : Nat) : List Nat → State × List (Nat × Except XErr Xl)
  | [] => (s, [])
  | p :: t =>
    let (s, r) := translate s g.die g.pasid (BitVec.ofNat 64 (p * 4096)) nd g.hm i
    let (s, rest) := xlatePages s g nd (i + 1) t
    (s, (p, r) :: rest)

/-- The place of an element on a page translated to `x`. -/
def xLoc (g : Agent) (x : Xl) (a : Nat) : Loc :=
  let pa := x.pa + a % 4096
  .mem a pa (memAt g.die pa x.leaf)

def parkKind (nd : Need) : Nat := if nd.a then 2 else if nd.x then 3 else if nd.w then 1 else 0

/-- Class 3 of R233 for elements of `n` bytes that do not cross a 4 KiB page, then the translation of each: its place or
the cause it meets. (DEDUCED; log 17) -/
def placeAll (s : State) (g : Agent) (r : ApRule) (nd : Need) (n : Nat) (els : List El) (i : Nat) :
    State × Except MErr (List (El × Except XErr Loc)) :=
  let aps := els.map fun e => (e, apLoc s g r n e)
  let badAp := aps.filter fun x => x.2 == some none
  match badAp with
  | x :: _ =>
    (s, .error { cause := cAperture, lanes := maskOf 64 (badAp.map fun y => y.1.1), addr := x.1.2 })
  | [] =>
    let pages := uniq ((aps.filter fun x => x.2 == none).map fun x => x.1.2.toNat / 4096)
    let (s, xs) := xlatePages s g nd (1000 + i) pages
    (s, .ok (aps.map fun x => match x.2 with
      | some (some l) => (x.1, .ok l)
      | _ => match xs.find? (fun y => y.1 == x.1.2.toNat / 4096) with
        | some (_, .ok y) => (x.1, .ok (xLoc g y x.1.2.toNat))
        | some (_, .error e) => (x.1, .error e)
        | none => (x.1, .error { cause := cNotPresent, info := 3, served := false, va := x.1.2 })))

/-- The elements that met a cause. -/
def causesOf (out : List (El × Except XErr Loc)) : List (El × XErr) :=
  out.filterMap fun x => match x.2 with | .error e => some (x.1, e) | .ok _ => none

def placesOf (out : List (El × Except XErr Loc)) : List Loc :=
  out.filterMap fun x => match x.2 with | .ok l => some l | .error _ => none

/-- The page of a virtual address, of the size its region gives, named by its first 4 KiB (R245). -/
def pageOf (s : State) (pasid : Nat) (va : BitVec 64) : Nat :=
  let p := pageBits (fld (s.ctxReg pasid (0x120 + fld va 56 53)) 2 0)
  va.toNat / 2 ^ p * 2 ^ p / 4096

/-- The distinct pages on which a served cause was met (R255). (DEDUCED; log 19) -/
def servedPages (s : State) (pasid : Nat) (errs : List (El × XErr)) : List Nat :=
  uniq ((errs.filter fun x => x.2.served).map fun x => pageOf s pasid x.1.2)

/-- The lowest address at which a served cause was met (R255). -/
def lowest (errs : List (El × XErr)) : Option (BitVec 64) :=
  (errs.filter fun x => x.2.served).foldl (fun m x => match m with
    | none => some x.1.2
    | some a => some (if x.1.2.toNat < a.toNat then x.1.2 else a)) none

/-- Classes 3 and 4 of R233: the place of each element, or the error the instruction reports, which is the earliest step of
R250 that any meets. Elements come in ascending LID order. -/
def resolve (s : State) (g : Agent) (r : ApRule) (nd : Need) (n : Nat) (els : List El) (i : Nat := 0) :
    State × Except MErr (List Loc) :=
  match placeAll s g r nd n els i with
  | (s, .error e) => (s, .error e)
  | (s, .ok out) =>
    let errs := causesOf out
    match errs with
    | [] => (s, .ok (placesOf out))
    | e0 :: _ =>
      let step := errs.foldl (fun m x => min m (xStep x.2)) (xStep e0.2)
      let shown := errs.filter fun x => xStep x.2 == step
      let (el, e) := shown.headD e0
      (s, .error { cause := e.cause, info := e.info, lanes := maskOf 64 (shown.map fun x => x.1.1), addr := el.2,
                   served := e.served, pages := servedPages s g.pasid errs, write := nd.w, kind := parkKind nd, low := lowest errs })

/-- As `resolve`, for places in order of address: the first that meets a cause is reported (R295). -/
def resolveInOrder (s : State) (g : Agent) (r : ApRule) (nd : Need) (n : Nat) (els : List El) : State × Except MErr (List Loc) :=
  match placeAll s g r nd n els 0 with
  | (s, .error e) => (s, .error { e with lanes := 0 })
  | (s, .ok out) =>
    let errs := causesOf out
    match errs with
    | [] => (s, .ok (placesOf out))
    | (el, e) :: _ =>
      (s, .error { cause := e.cause, info := e.info, addr := el.2, served := e.served, pages := servedPages s g.pasid errs, write := nd.w,
                   kind := parkKind nd, low := lowest errs })

/-! ## Reading -/

/-- How loads treat caches (R228, R229). -/
structure LdPol where
  nl1    : Bool := false
  pin    : Option Nat := none
  hint   : Bool := false
deriving DecidableEq, Repr

/-- The block of a place: a key that tells blocks of different memories apart, and the place within the block. -/
def Loc.key : Loc → Nat
  | .ls o => 3 * (o / 64)
  | .dsc o => 3 * (o / 64) + 1
  | .mem _ _ m => 3 * m.blk + 2

def Loc.off : Loc → Nat
  | .ls o => o % 64
  | .dsc o => o % 64
  | .mem _ pa _ => pa % 64

/-- One representative place per distinct block, in order of first use. -/
def distinctBlks (ls : List Loc) : List Loc :=
  (ls.foldl (fun acc l => if acc.any (fun k => k.key == l.key) then acc else l :: acc) []).reverse

def crewScr (s : State) (crew : Nat) : Mem := ((s.crew crew).map (·.scr)).getD Mem.empty

/-- Words of a block with the substitution that an error-tolerant page makes for a sector poisoned in HBM (R258), and
whether it made one. (DEDUCED; log 39) -/
def etSubst (s : State) (m : MemAt) (b : Blk) : Blk × Nat :=
  let poisoned := s.ms.phys.marks.contains m.blk && (List.range 16).any fun i => bad (b.word i)
  if m.et && (poisoned || !m.rep && s.away m) then
    (blkOf ((List.range 16).map fun i => if bad (b.word i) then mkW 0 else b.word i) b.pair, 1)
  else (b, 0)

/-- The blocks read by an instruction. -/
structure RdBlks where
  s    : State
  blks : List (Nat × Blk)
  st   : RdStat
  sub  : Nat                -- sectors substituted (R258)

/-- Does a place lie in the STK aperture? -/
def isStk (s : State) (g : Agent) : Loc → Bool
  | .mem va _ _ => (aperture s g.pasid (BitVec.ofNat 64 va)).isSome
  | _ => false

/-- Read each distinct block once. POL and HINT do not act in an aperture (R225). -/
def readBlks (s : State) (g : Agent) (pol : LdPol) : Nat → List Loc → RdBlks
  | _, [] => { s := s, blks := [], st := { hits := 0, misses := 0, fills := 0 }, sub := 0 }
  | i, l :: t =>
    let (s, b, st, k) : State × Blk × RdStat × Nat := match l with
      | .ls o => (s, (crewScr s g.crew).blk (o / 64), { hits := 0, misses := 0, fills := 0 }, 0)
      | .dsc o => (s, (s.dscMem g.pasid g.die).blk (o / 64), { hits := 0, misses := 0, fills := 0 }, 0)
      | .mem _ _ m =>
        let pol : LdPol := if isStk s g l then {} else pol
        let (s, b, st) := s.readBlk g.core m pol.nl1 pol.pin pol.hint i { hits := 0, misses := 0, fills := 0 }
        let (b, k) := etSubst s m b
        (s, b, st, k)
    let r := readBlks s g pol (i + 1) t
    { r with blks := (l.key, b) :: r.blks, sub := r.sub + k,
             st := { hits := st.hits + r.st.hits, misses := st.misses + r.st.misses, fills := st.fills + r.st.fills } }

/-- The block read again past the caches (R234). -/
def rereadBlk (s : State) (g : Agent) (l : Loc) : Blk :=
  match l with
  | .ls o => (crewScr s g.crew).blk (o / 64)
  | .dsc o => (s.dscMem g.pasid g.die).blk (o / 64)
  | .mem _ _ m => (etSubst s { m with blk := m.home } (s.homeBlk g.core m)).1

/-! ## The layout-record cache (R58) -/

/-- The number under which the layout-record cache keeps the record at a place. -/
def recKey (g : Agent) : Loc → Nat
  | .ls o => 2 ^ 57 + g.crew * 2 ^ 30 + o
  | .dsc o => 2 ^ 200 + (8 * g.pasid + g.die) * 2 ^ 30 + o
  | .mem _ pa m => 64 * m.blk + pa % 64

/-- The 16 words of the record at a place, past the layout-record cache, and the sectors substituted: the core's own stores
to it count, and a replicated page is read on the core's die, or at home where a stall on its lock has ended (R58, R249, R322).
(DESIGN CHOICE; log 41) -/
def recordAt (s : State) (g : Agent) (l : Loc) : List (RWord 32) × Nat :=
  let (b, sub) := match l with
    | .mem _ _ m => if m.rep && s.locked g.die m.home then etSubst s { m with blk := m.home } (s.homeBlk g.core m)
      else etSubst s m (s.localBlk g.core m)
    | l => (rereadBlk s g l, 0)
  ((List.range 16).map b.word, sub)

/-- The record that the core's layout-record cache still holds (free value; R58). -/
def heldRecord (s : State) (g : Agent) (l : Loc) : Option (List (RWord 32)) :=
  match s.ms.lrc.find? fun x => x.core == g.core && x.pa == recKey g l with
  | some x => if Config.keepsCopy (s.ix 5000) then some x.words else none
  | none => none

/-- Keep a record in the layout-record cache. -/
def State.keepRecord (s : State) (g : Agent) (l : Loc) (ws : List (RWord 32)) : State :=
  let rest := s.ms.lrc.filter fun x => !(x.core == g.core && x.pa == recKey g l)
  { s with ms := { s.ms with lrc := { core := g.core, pa := recKey g l, words := ws } :: rest } }

/-! ## Values in blocks -/

def emptyBlk : Blk := { data := 0, rs := 0, pair := rawPair }

def blkAt (bs : List (Nat × Blk)) (l : Loc) : Blk :=
  match bs.find? fun x => x.1 == l.key with
  | some x => x.2
  | none => emptyBlk

/-- The 32-bit words that hold the `n` bytes at a place. -/
def wordsAt (bs : List (Nat × Blk)) (l : Loc) (n : Nat) : List (RWord 32) :=
  (List.range ((l.off % 4 + n + 3) / 4)).map fun j => (blkAt bs l).word (l.off / 4 + j)

/-- The `n` bytes at a place, from its words. (DEDUCED; log 39) -/
def valueAt (ws : List (RWord 32)) (l : Loc) (n : Nat) : Nat :=
  ws.foldr (fun w a => w.v.toNat + 2 ^ 32 * a) 0 / 2 ^ (8 * (l.off % 4)) % 2 ^ (8 * n)

/-- Must a load of these places wait for a locked replica (R322)? -/
def anyLocked (s : State) (g : Agent) (ls : List Loc) : Bool :=
  ls.any fun l => match l with
    | .mem _ _ m => m.rep && s.locked g.die m.home
    | _ => false

/-- Does an access to these places stall on a resetting home (R388)? -/
def anyAway (s : State) (t0 : BitVec 64) (write : Bool) (ls : List Loc) : Bool :=
  ls.any fun l => match l with
    | .mem _ _ m => s.homeStalls (if write then { m with rep := false } else m) t0
    | _ => false

/-! ## Writing -/

/-- One element to store: place, size in bytes, value, and whether the stored words are poison. -/
structure StEl where
  loc    : Loc
  n      : Nat
  v      : Nat
  poison : Bool

/-- The bytes of one block that a list of elements writes, later elements over earlier ones: mask, data, and the words
in which a byte of poisoned data remains. -/
def gather (key : Nat) (els : List StEl) : BitVec 64 × BitVec 512 × BitVec 16 :=
  let (m, d, p) := els.foldl (fun (acc : BitVec 64 × BitVec 512 × BitVec 64) e =>
    if e.loc.key != key then acc
    else
      let o := e.loc.off
      let m : BitVec 64 := BitVec.ofNat 64 ((2 ^ e.n - 1) * 2 ^ o)
      let dm : BitVec 512 := BitVec.ofNat 512 ((2 ^ (8 * e.n) - 1) * 2 ^ (8 * o))
      (acc.1 ||| m, (acc.2.1 &&& ~~~dm) ||| (BitVec.ofNat 512 (e.v * 2 ^ (8 * o)) &&& dm),
       (acc.2.2 &&& ~~~m) ||| (if e.poison then m else 0))) (0, 0, 0)
  (m, d, maskOf 16 ((List.range 16).filter fun j => p.extractLsb' (4 * j) 4 != 0))

/-- Apply a change to the crew's scratchpad. -/
def State.modScr (s : State) (crew : Nat) (g : Mem → Mem) : State :=
  { s with crews := lmod s.crews (fun c => c.h == crew) fun c => { c with scr := g c.scr } }

/-- Store bytes of one block (R235, R314). -/
def State.storeLoc (s : State) (g : Agent) (l : Loc) (mask : BitVec 64) (data : BitVec 512) (poison : BitVec 16)
    (pair : Pair) (relSy nl1 : Bool) : State :=
  match l with
  | .ls o =>
    let lost := (crewScr s g.crew).lostMerges (o / 64) mask
    (s.modScr g.crew fun m => m.storeBlk (o / 64) mask data poison pair).noteLost g.fn g.die lost
  | .dsc o =>
    let m := s.dscMem g.pasid g.die
    (s.setDsc g.pasid g.die (m.storeBlk (o / 64) mask data poison pair)).noteLost g.fn g.die (m.lostMerges (o / 64) mask)
  | .mem va _ m =>
    let stk := isStk s g l
    let s := if nl1 && !stk then s.dropL1 fun c => c.core == g.core && c.blk == m.blk else s
    s.storeBlk g (if stk then none else some (va / 64 * 64)) m mask data poison pair relSy

/-- Store a list of elements, one store per block, in ascending LID order (R236); blocks become RAW and 127 (R55).
(DEDUCED; log 14) -/
def State.storeEls (s : State) (g : Agent) (els : List StEl) (relSy nl1 : Bool) : State :=
  (distinctBlks (els.map (·.loc))).foldl (fun s l =>
    let (m, d, p) := gather l.key els
    s.storeLoc g l m d p rawPair relSy nl1) s

/-- Does one of the elements merge into a word of an on-chip memory that fails its check (R235)? -/
def losesWord (s : State) (g : Agent) (els : List StEl) : Bool :=
  (distinctBlks (els.map (·.loc))).any fun l =>
    let mask := (gather l.key els).1
    match l with
    | .ls o => !((crewScr s g.crew).lostMerges (o / 64) mask).isEmpty
    | .dsc o => !((s.dscMem g.pasid g.die).lostMerges (o / 64) mask).isEmpty
    | .mem .. => false

/-! ## What an agent has observed (R315, R316) -/

/-- The path has observed the stores `new`; those that are done it forgets. -/
def Th.adds (t : Th) (new : List Nat) : Th :=
  if new.isEmpty then t
  else
    let live := t.p.obs.filter fun n => t.s.ms.stores.any fun q => q.sid == n
    { t with p := { t.p with obs := live ++ new.filter fun n => !live.contains n } }

/-- The path has read the places. -/
def Th.observe (t : Th) (ls : List Loc) : Th :=
  t.adds (uniq (ls.flatMap fun l => match l with
    | .mem _ _ m => t.s.seenBy t.w.coreN m
    | _ => []))

/-- The path has made the stores from number `n` on. -/
def Th.made (t : Th) (n : Nat) : Th := t.adds ((t.s.ms.stores.filter fun q => n ≤ q.sid).map (·.sid))

/-- The path acquires: it may have synchronised with a release of any agent that shares the scope, and has then observed what
that agent had. Taken here as every store on its way that its core's paths have made or that stands at its home: a write of an
engine operation counts only once it is performed (R328). (DEDUCED; log 16) -/
def Th.acquire (t : Th) : Th :=
  t.adds ((t.s.ms.stores.filter fun q => (q.core == t.w.coreN && q.op.isNone) || !q.early).map (·.sid))

/-- Elements for a list of whole words at consecutive offsets of a place. -/
def wordEls (l : Loc) (ws : List (RWord 32)) : List StEl :=
  (List.range ws.length).map fun j =>
    let w := ws.getD j (zw 32)
    let l' := match l with
      | .ls o => Loc.ls (o + 4 * j)
      | .dsc o => .dsc (o + 4 * j)
      | .mem va pa m => .mem (va + 4 * j) (pa + 4 * j)
          { m with blk := m.blk - pa / 64 + (pa + 4 * j) / 64, home := m.home - pa / 64 + (pa + 4 * j) / 64 }
    { loc := l', n := 4, v := w.v.toNat, poison := bad w }

/-! ## A device access on behalf of an agent: translated, 64-byte aligned words (R406) -/

/-- Read `n` words at virtual address `va`, which do not cross a page. -/
def State.agentRead (s : State) (g : Agent) (va : BitVec 64) (n : Nat) (i : Nat) : State × Except MErr (List (RWord 32)) :=
  match resolve s g {} { r := true } (4 * n) [(0, va)] i with
  | (s, .error e) => (s, .error { e with lanes := 0 })
  | (s, .ok ls) =>
    match ls with
    | [] => (s, .ok [])
    | l :: _ =>
      let els := (wordEls l (List.replicate n (zw 32))).map (·.loc)
      let bs := (distinctBlks els).map fun l => (l.key, rereadBlk s g l)
      (s, .ok (els.flatMap fun l => wordsAt bs l 4))

/-- Write words at virtual address `va`, which do not cross a page. -/
def State.agentWrite (s : State) (g : Agent) (va : BitVec 64) (ws : List (RWord 32)) (i : Nat) : State × Option MErr :=
  match resolve s g {} { w := true } (4 * ws.length) [(0, va)] i with
  | (s, .error e) => (s, some { e with lanes := 0 })
  | (s, .ok ls) =>
    match ls with
    | [] => (s, none)
    | l :: _ => (s.storeEls g (wordEls l ws) false false, none)

/-! ## Capture by a replay region (R371, R406) -/

/-- Read the RCB of an open region. -/
def rcbWords (s : State) (g : Agent) (r : Region) : State × Except MErr (List (RWord 32)) := s.agentRead g r.rcb 16 2000

/-- The page numbers on the list of an RCB with NP entries. -/
def readList (s : State) (g : Agent) (r : Region) : Nat → Nat → State × Except MErr (List Nat)
  | 0, _ => (s, .ok [])
  | n + 1, k =>
    match s.agentRead g (r.rcb + BitVec.ofNat 64 (64 + 8 * k)) 2 (2100 + k) with
    | (s, .error e) => (s, .error e)
    | (s, .ok ws) =>
      if ws.any bad then (s, .error { cause := cPoisonUse, info := 0x500, addr := r.rcb })
      else if ws.any (fun w => !sound w) then (s, .error { cause := cResidue })
      else match readList s g r n (k + 1) with
        | (s, .error e) => (s, .error e)
        | (s, .ok ps) => (s, .ok ((word64 ws 0).toNat / 4096 :: ps))

/-- Copy a page of 64 blocks from home to a save slot with residues and pairs. -/
def State.copyPage (s : State) (g : Agent) (src dst : Nat) : State :=
  (List.range 64).foldl (fun s i =>
    let b := overlay (s.ms.phys.blk (src / 64 + i)) (s.pending g.core (src / 64 + i))
    { s with ms := { s.ms with phys := s.ms.phys.putBlk (dst / 64 + i) b } }.announce g (dst / 64 + i)) s

/-- As `copyPage`, to a page with the flags of `n`; its replicas take the copy too (R321). -/
def State.copyOver (s : State) (g : Agent) (src dst : Nat) (n : MemAt) : State :=
  let s := s.copyPage g src dst
  if n.rep then (List.range 64).foldl (fun s i => s.updateReplicas (dst / 64 + i) n.hdie) s else s

/-- Is a page part of the region's own RCB, save area or logs (R371)? -/
def ownPage (rcb save log : BitVec 64) (npmax page : Nat) : Bool :=
  page == rcb.toNat / 4096 || (save.toNat / 4096 ≤ page && page < save.toNat / 4096 + npmax) ||
  (log.toNat / 4096 ≤ page && page < log.toNat / 4096 + 256)

/-- Capture one page before its first write in an open region (R371). -/
def capturePage (s : State) (g : Agent) (r : Region) (page : Nat) : State × Option MErr :=
  match rcbWords s g r with
  | (s, .error e) => (s, some e)
  | (s, .ok ws) =>
    if ws.any bad then (s, some { cause := cPoisonUse, info := 0x500, addr := r.rcb })
    else if ws.any (fun w => !sound w) then (s, some { cause := cResidue })
    else
      let w2 := word64 ws 2
      let w3 := word64 ws 3
      let save := word64 ws 0
      let npmax := fld w2 15 0
      let np := fld w2 31 16
      if ownPage r.rcb save (word64 ws 1) npmax page then (s, none)
      else match readList s g r np 0 with
        | (s, .error e) => (s, some e)
        | (s, .ok ps) =>
          if ps.contains page then (s, none)
          else
            let mism (w : BitVec 64) : BitVec 64 := if r.cmp then setBit w 32 true else w
            if npmax ≤ np then
              s.agentWrite g (r.rcb + 16) (two (setBit (setBit w2 35 true) 32 true) ++ two w3) 2200
            else
              let va := BitVec.ofNat 64 (page * 4096)
              match resolve s g {} { r := true } 4 [(0, va)] 2300 with
              | (s, .error e) => (s, some { e with lanes := 0 })
              | (s, .ok from') => match resolve s g {} { w := true } 4 [(0, save + BitVec.ofNat 64 (4096 * np))] 2301 with
                | (s, .error e) => (s, some { e with lanes := 0 })
                | (s, .ok dest) => match from', dest with
                  | .mem _ pa m :: _, .mem _ pb n :: _ =>
                    match s.agentWrite g (r.rcb + BitVec.ofNat 64 (64 + 8 * np)) (two va) 2302 with
                    | (s, some e) => (s, some e)
                    | (s, none) =>
                      let s := s.copyOver g (if m.rep then 64 * m.home else pa) pb n
                      s.agentWrite g (r.rcb + 16) (two (mism (setFld w2 31 16 (np + 1))) ++ two w3) 2303
                  | _, _ => (s, none)

/-- Capture every page that the elements write (R371): translated pages only. -/
def capture (s : State) (g : Agent) (ls : List Loc) : State × Option MErr :=
  match (s.crew g.crew).bind (·.region) with
  | none => (s, none)
  | some r =>
    let pages := uniq (ls.filterMap fun l => match l with
      | .mem va _ _ => if (aperture s g.pasid (BitVec.ofNat 64 va)).isSome then none else some (va / 4096)
      | _ => none)
    pages.foldl (fun acc p => match acc with
      | (s, some e) => (s, some e)
      | (s, none) => capturePage s g r p) (s, none)

end Sys2Proof.Machine
end

