-- ==== Sys2Proof/Machine/Trace.lean ====
section
/-!
DEFINITION. Event counters, trace records and freezes (R363 to R365, R368, R369).
-/
namespace Sys2Proof.Machine

/-- The agent that a path of a wave is (R310). -/
def agentOf (s : State) (wk : Nat) (w : Wave) (eid : Nat) : Agent :=
  { core := w.coreN, wk := wk, eid := eid, pasid := w.pasid, crew := w.crew,
    fn := ((s.crew w.crew).map (·.fn)).getD 0, stkidx := w.stkidx.toNat, hm := w.hmode }

def Th.agent (t : Th) : Agent := { agentOf t.s t.wk t.w t.p.eid with obs := t.p.obs }

/-- Is the context's recording on the core frozen (R368)? -/
def frozen (s : State) (pasid core : Nat) : Bool := (s.dbgReg pasid core 0x161).getLsbD 31

/-- Count `n` of event `code` on a core for a context; `hm`: the event's wave is in handler mode (R369). -/
def State.countAt (s : State) (pasid core : Nat) (hm : Bool) (code n : Nat) : State :=
  if n = 0 || frozen s pasid core then s
  else (List.range 4).foldl (fun s k =>
    let sel := s.dbgReg pasid core (0x170 + k)
    if sel.getLsbD 63 && fld sel 7 0 == code && (!hm || sel.getLsbD 62) then
      s.setDbgReg pasid core (0x174 + k) (s.dbgReg pasid core (0x174 + k) + BitVec.ofNat 64 n)
    else s) s

/-- Count an event attributed to a wave. (DESIGN CHOICE; log 29) -/
def State.count (s : State) (w : Wave) (code n : Nat) : State := s.countAt w.pasid w.coreN w.hmode code n

/-- Count dropped accesses on SPDROP (R254). (DEDUCED; log 30) -/
def State.spdrop (s : State) (pasid n : Nat) : State :=
  if n = 0 then s else s.setCtxReg pasid 0x131 (s.ctxReg pasid 0x131 + BitVec.ofNat 64 n)

/-- The identity of a wave (R277). -/
def identOf (w : Wave) : BitVec 16 := BitVec.ofNat 16 (w.die * 2 ^ 13 + w.core * 2 ^ 7 + w.slot * 2)

/-- A path as trace records name it (R364). -/
def tracePath (s : State) (w : Wave) (p : Path) : TracePath :=
  { wid := w.wid, half := w.half, idx := p.idx, crew := ((s.crew w.crew).map (·.idx)).getD 0, ident := identOf w, mask := p.mask }

/-- Words 2 and 3 of a trace record (R364). -/
def traceWords (who : Option TracePath) (ty data : Nat) : List (BitVec 64) :=
  let b := data % 2 ^ 16 * 2 ^ 44 + ty * 2 ^ 36
  match who with
  | some x => [x.mask, BitVec.ofNat 64 (x.wid * 2 ^ 60 + b + (if x.half then 2 ^ 35 else 0) + x.idx * 2 ^ 32 +
      x.crew.toNat * 2 ^ 16 + x.ident.toNat)]
  | none => [0, BitVec.ofNat 64 b]

/-- The core as the agent that writes trace records of a context. -/
def traceAgent (s : State) (pasid core : Nat) : Agent :=
  { core := core, wk := 2 ^ 64, eid := 0, pasid := pasid, crew := 2 ^ 64, fn := s.fnOfDie (core / 48), stkidx := 0, hm := false }

/-- Write a trace record of type `ty` on a core for a context, about the path `who`. A record of a disabled type, one written
while recording is frozen and one that meets a translation cause are dropped and count on SPDROP (R364). -/
def State.traceRec (s : State) (pasid core : Nat) (who : Option TracePath) (ty data : Nat) (pia : BitVec 64) : State :=
  let ctl := s.dbgReg pasid core 0x161
  let log2n := fld ctl 20 16
  if !ctl.getLsbD ty || ctl.getLsbD 31 then s.spdrop pasid 1
  else if log2n < 4 || 20 < log2n then s
  else
    let wptr := fld ctl 63 32
    let va := BitVec.ofNat 64 (fld (s.dbgReg pasid core 0x160) 63 12 * 4096 + 32 * (wptr % 2 ^ log2n))
    match s.agentWrite (traceAgent s pasid core) va (([s.ptime, pia] ++ traceWords who ty data).flatMap two) 3000 with
    | (s, some _) => s.spdrop pasid 1
    | (s, none) => s.setDbgReg pasid core 0x161 (setFld ctl 63 32 ((wptr + 1) % 2 ^ 32))

/-- As `traceRec`, about a path of a wave. -/
def State.trace (s : State) (pasid core : Nat) (who : Option (Wave × Path)) (ty data : Nat) (pia : BitVec 64) : State :=
  s.traceRec pasid core (who.map fun x => tracePath s x.1 x.2) ty data pia

/-- A trace record about a path at its own core. -/
def Th.trace (t : Th) (ty data : Nat) (pia : BitVec 64) : Th :=
  { t with s := t.s.trace t.w.pasid t.w.coreN (some (t.w, t.p)) ty data pia }

/-- A freezing event of code `code` (1 to 4 system class, 5 data class) for a context on a core (R368). -/
def State.freeze (s : State) (pasid core code : Nat) : State :=
  let ctl := s.dbgReg pasid core 0x161
  if ctl.getLsbD 31 || !(if code = 5 then ctl.getLsbD 29 else ctl.getLsbD 30) then s
  else
    let s := (s.trace pasid core none 9 code 0).flushCore core
    s.setDbgReg pasid core 0x161 (setBit (s.dbgReg pasid core 0x161) 31 true)

/-- The contexts and cores whose trace, counter and histogram registers are not all at reset: 512 × PASID + core (R363). -/
def State.traced (s : State) : List Nat := uniq (s.dbg.map fun x => x.1 / 4096)

/-- A freezing event for the contexts and cores that `q` picks (R368). -/
def State.freezeAll (s : State) (q : Nat → Nat → Bool) (code : Nat) : State :=
  (s.traced.filter fun k => q (k / 512) (k % 512)).foldl (fun s k => s.freeze (k / 512) (k % 512) code) s

/-- A freezing event on every core of the listed dies, for every context (R368). -/
def State.freezeDies (s : State) (dies : List Nat) (code : Nat) : State := s.freezeAll (fun _ core => dies.contains (core / 48)) code

/-- A freezing event of a context, on every core (R368). -/
def State.freezeCtx (s : State) (pasid code : Nat) : State := s.freezeAll (fun p _ => p == pasid) code

/-- Store a list of elements; a word lost in a merge freezes recording on the die (R235, R368). -/
def State.storeAll (s : State) (g : Agent) (els : List StEl) (relSy nl1 : Bool) : State :=
  let s' := s.storeEls g els relSy nl1
  if losesWord s g els then s'.freezeDies [g.die] 1 else s'

end Sys2Proof.Machine
end

