-- ==== Sys2Proof/Machine/Crowd.lean ====
section
/-!
DEFINITION. Crowd records, and how the failure of one participant of a collective reaches its peers (R284, R285).
-/
namespace Sys2Proof.Machine

/-- The operation as an agent of the memory model (R269). -/
def EngOp.agent (s : State) (o : EngOp) : Agent :=
  { core := o.core, wk := o.wk, eid := 0, op := some o.h, pasid := o.pasid, crew := o.crew,
    fn := ((s.crew o.crew).map (·.fn)).getD (s.fnOfDie (o.core / 48)), stkidx := 0, hm := o.hm }

/-! ## Crowd records (R284) -/

/-- A field of a record by its bits. -/
def recField (ws : List (RWord 32)) (hi lo : Nat) : Nat := bitsOf (ws.foldr (fun w a => w.v.toNat + 2 ^ 32 * a) 0) hi lo

structure Crowd where
  n     : Nat
  rank  : Nat
  root  : Nat
  axis  : Nat
  pa    : List Nat
  ca    : List Nat
  group : Nat
  rtab  : Nat
  rbuf  : Nat

def crowdOf (ws : List (RWord 32)) : Crowd :=
  { n := recField ws 15 0, rank := recField ws 31 16, root := recField ws 47 32, axis := recField ws 50 48,
    pa := (List.range 6).map fun a => recField ws (79 + 16 * a) (64 + 16 * a),
    ca := (List.range 6).map fun a => recField ws (175 + 16 * a) (160 + 16 * a),
    group := recField ws 383 320, rtab := recField ws 447 384, rbuf := recField ws 511 448 }

/-- The rank at coordinates. -/
def rankAt (pa ca : List Nat) : Nat :=
  (List.range 5).foldl (fun r a => r * pa.getD (a + 1) 1 + ca.getD (a + 1) 0) (ca.headD 0)

/-- Participants of the collective, and this rank's position among them. -/
def Crowd.size (c : Crowd) : Nat := if c.axis = 7 then c.n else c.pa.getD c.axis 1
def Crowd.pos (c : Crowd) : Nat := if c.axis = 7 then c.rank else c.ca.getD c.axis 0

/-- The rank at position `j`: it agrees with this rank on every other axis. -/
def Crowd.rankOf (c : Crowd) (j : Nat) : Nat := if c.axis = 7 then j else rankAt c.pa (c.ca.set c.axis j)

/-- The ranks of the other participants. -/
def Crowd.others (c : Crowd) : List Nat := ((List.range c.size).filter fun j => j != c.pos).map c.rankOf

/-! ## A participant stops (R285) -/

/-- The crowd record of a collective operation, looked up where the operation has not read it yet. -/
def State.crowdSeen (s : State) (o : EngOp) : Option (List (RWord 32)) :=
  let g := o.agent s
  let good (l : Loc) : Option (List (RWord 32)) :=
    let ws := (recordAt s g l).1
    if ws.all sound && !ws.any bad then some ws else none
  if !o.crowd.isEmpty then some o.crowd
  else if o.opnd.toNat % 64 != 0 then none
  else match apLoc s g { noStk := true } 64 (0, o.opnd) with
    | some l => l.bind good
    | none =>
      match translate s g.die g.pasid (BitVec.ofNat 64 (o.opnd.toNat / 4096 * 4096)) { r := true } g.hm 6000 with
      | (_, .ok y) => good (xLoc g y o.opnd.toNat)
      | (_, .error _) => none

/-- Is a failure one of the collective that `o` takes part in with crowd record `c`? -/
def CollFail.of (f : CollFail) (o : EngOp) (c : Crowd) : Bool := f.group == BitVec.ofNat 64 c.group && f.coll == o.coll

/-- Must an operation with crowd record `c` stop because a peer has failed (R285)? -/
def State.collFailed (s : State) (o : EngOp) (c : Crowd) : Bool := s.fails.any fun f => f.of o c && f.ranks.contains c.rank

/-- Rank `c.rank` has heard of the failure. -/
def State.heard (s : State) (o : EngOp) (c : Crowd) : State :=
  let left := s.fails.map fun f => if f.of o c then { f with ranks := f.ranks.filter fun r => r != c.rank } else f
  { s with fails := left.filter fun f => !f.ranks.isEmpty }

/-- A participant of a collective stops: each peer that has read its crowd record stops with COLL, and the others will when
they have, unless the participants have met already; one that stops in a collective that has failed already only drops out of
it (R285). (DEDUCED; log 50) -/
def State.failGroup (s : State) (o : EngOp) : State :=
  if o.kind != 0xC5 then s
  else match s.crowdSeen o with
  | none => s
  | some ws =>
    let c := crowdOf ws
    if s.collFailed o c then s.heard o c
    else
      let rank (p : EngOp) : Nat := (crowdOf p.crowd).rank
      let peer (p : EngOp) : Bool := p.kind == 0xC5 && p.h != o.h && p.coll == o.coll && !p.crowd.isEmpty &&
        (crowdOf p.crowd).group == c.group && c.others.contains (rank p)
      let told := (s.ops.filter peer).map rank
      let met := o.landed || !o.counts.isEmpty
      let left := if met then [] else c.others.filter fun r => !told.contains r
      { s with
        ops := lmod s.ops (fun p => peer p && p.stop.isNone) fun p => { p with stop := some 0x0B },
        fails := if left.isEmpty then s.fails else s.fails ++ [{ group := BitVec.ofNat 64 c.group, coll := o.coll, ranks := left }] }

/-- An operation stops with a subcode; one of a collective that has read its crowd record stops its peers at once, another as
it ends (R276, R285). -/
def State.stopOp (s : State) (o : EngOp) (sub : Nat) : State :=
  let o' := { o with stall := none, late := none, stop := some (BitVec.ofNat 8 sub) }
  let s := { s with ops := lmod s.ops (fun x => x.h == o.h) fun _ => o' }
  if o.crowd.isEmpty then s else s.failGroup o

end Sys2Proof.Machine
end

