-- ==== Sys2Proof/Machine/Ops.lean ====
section
/-!
DEFINITION. The shared operations of every instruction: taking an exception and returning from one, parking, aborting a
crew, splitting, arriving and merging of paths, back edges and retirement, the checks at issue.
-/
namespace Sys2Proof.Machine

/-! ## Causes (R348) -/

def cIllegalOp : Nat := 0x01
def cIllegalField : Nat := 0x02
def cIllegalTarget : Nat := 0x03
def cIllegalLine : Nat := 0x04
def cPrivOp : Nat := 0x05
def cSplitWrite : Nat := 0x0A
def cFetchCheck : Nat := 0x0B
def cLoopNest : Nat := 0x10
def cLoopOpen : Nat := 0x11
def cLoopRange : Nat := 0x12
def cPromiseMiss : Nat := 0x30
def cEngineError : Nat := 0x31
def cChannelError : Nat := 0x32
def cMatrixCheck : Nat := 0x38
def cSoftware : Nat := 0x40
def cBreakpoint : Nat := 0x41
def cReplayMismatch : Nat := 0x42
def cWatchdog : Nat := 0x48
def cContestError : Nat := 0x50

/-- A trap before it is taken (R141). `tia` is the trapping instruction unless given. -/
structure Trap where
  cause : Nat
  sub   : Nat := 0
  corr  : Bool := false
  lanes : BitVec 64 := 0
  addr  : BitVec 64 := 0
  info  : Nat := 0
  tia   : Option (BitVec 64) := none
deriving DecidableEq, Repr

/-- POISON_USE of register `reg` with use code `use` (R348). -/
def poisonUse (use reg : Nat) (lanes : BitVec 64 := 0) (addr : BitVec 64 := 0) : Trap :=
  { cause := cPoisonUse, info := use * 256 + reg, lanes := lanes, addr := addr }

/-- What the body of an instruction comes to. -/
inductive Res where
  /-- It retires with sequential flow. -/
  | done (t : Th)
  /-- It retires and continues at an address: a checked transfer or not (R100), a transfer of the key or not (R373). -/
  | jump (t : Th) (a : BitVec 64) (chk xfer : Bool)
  /-- It has had no effect and raises a trap. -/
  | trap (t : Th) (x : Trap)
  /-- An access failed: it parks or raises (R255). -/
  | merr (t : Th) (e : MErr)
  /-- It stays at its address. -/
  | hold (t : Th)
  /-- It has been carried out whole. -/
  | gone (s : State)

/-- The instruction address without its zero bits [5:3] (R102). -/
def normPc (a : BitVec 64) : BitVec 64 := BitVec.ofNat 64 (a.toNat / 64 * 64 + a.toNat % 8)

/-! ## Ending and aborting crews (R353) -/

/-- The trap records of a wave (R142). -/
def trapRecs (w : Wave) : List (BitVec 64) := [w.tcause, w.tia, w.tlanes, w.tpath, w.taddr, w.tinfo]

/-- The log record of a crew (R353, R396). -/
def crewLog (s : State) (c : Crew) (cls code : Nat) (t : List (BitVec 64)) (w9 : BitVec 64) : LogRec :=
  let k := s.cons.find? fun x => x.h == c.cons
  { cls := cls, code := code, carav := c.carav, die := c.die, core := c.core, crew := c.idx,
    node := match k with | some x => BitVec.ofNat 16 x.node | none => 0xFFFF,
    seq := match k with | some x => x.seq | none => 0,
    route := match k with | some x => BitVec.ofNat 16 x.route | none => 0, t := t, w9 := w9 }

/-- The waves of a crew go from their slots: what the L1D holds pinned for it is pinned no more, no quad remembers to have issued
them last, and their passes are discarded with their tiles (R60, R90, R229, R299). -/
def State.vacate (s : State) (h : Nat) : State :=
  let mine (wk : Nat) : Bool := s.waves.any fun x => x.1 == wk && x.2.crew == h
  { s with
    waves := s.waves.filter fun x => x.2.crew != h,
    passes := s.passes.filter fun p => !mine p.wk,
    ms := { s.ms with l1d := lmod s.ms.l1d (fun x => x.pin == some h) fun x => { x with pin := none } },
    pkg := { s.pkg with last := s.pkg.last.filter fun x => !mine x.2.1 } }

/-- An ended crew whose waves and operations have gone is no more. -/
def State.sweepCrew (s : State) (h : Nat) : State :=
  if (s.ops.any fun o => o.crew == h) || s.waves.any fun x => x.2.crew == h then s
  else { s with crews := s.crews.filter fun c => !(c.h == h && c.st == CrewState.ended) }

/-- A crew ends: an aborted one leaves at once, another stays in its slots while a crew of its caravan runs; with the last of
them the caravan ends. A crew whose engine operations still run stays, ended, until the last of them is done (R60, R72,
R353). -/
def State.endCrew (s : State) (c : Crew) (failed : Bool) : State :=
  let s := { s with
    crews := lmod s.crews (fun x => x.h == c.h) fun x => { x with st := .ended },
    cons := lmod s.cons (fun k => k.h == c.cons) fun k => { k with failed := k.failed || failed } }
  let s := if failed then (s.vacate c.h).sweepCrew c.h else s
  if s.crews.any fun x => x.cav == c.cav && x.st != .ended then s
  else
    let s := (s.crews.filter fun x => x.cav == c.cav).foldl (fun s x => (s.vacate x.h).sweepCrew x.h) s
    { s with
      cavs := s.cavs.filter fun v => v.h != c.cav,
      cons := lmod s.cons (fun k => k.h == c.cons) fun k => { k with ended := k.ended + 1 } }

/-- Does the entry stand in a round that is open? -/
def Contest.open (c : Contest) : Bool := match c.st with | .inRound _ => true | _ => false

/-- The waves of the entries that `q` picks end: an entry whose round is open completes, with its result discarded, and any other
is removed (R343). -/
def State.dropEntries (s : State) (q : Contest → Bool) : State :=
  { s with contests := (s.contests.filter fun k => !q k || k.open).map fun k => if q k then { k with orphan := true } else k }

/-- The number that stands for a wave of a saved crew in contest entries. -/
def savedKey (h wid : Nat) : Nat := 65536 + 16 * h + wid

/-- Steps 2 to 6 of an abort: operations without an object log their stop (R279), those that its save has cancelled too, passes
are discarded, contest entries removed or orphaned (R343), parks answered without effect. -/
def State.cancelCrew (s : State) (c : Crew) : State :=
  let mine := fun wk => s.waves.any fun x => x.1 == wk && x.2.crew == c.h
  let s := ((s.ops ++ c.savedOps).filter fun o => o.crew == c.h && o.obj.isNone).foldl (fun s _ =>
    s.logError c.fn (crewLog s c 2 0x0C [] 0)) s
  let s := (s.ops.filter fun o => o.crew == c.h && (o.stop.isNone || o.crowd.isEmpty)).foldl State.failGroup s
  { s.dropEntries fun k => mine k.wk || k.wk / 16 == savedKey c.h 0 / 16 with
    ops := s.ops.filter fun o => o.crew != c.h,
    passes := s.passes.filter fun p => !mine p.wk,
    parks := (s.parks.filter fun k => !(k.crew == c.h && k.idx.isNone)).map fun k =>
      if k.crew == c.h then { k with dead := true } else k }

/-- Abort a crew: its waves issue no more, its operations, passes, contest entries and parks go, the record `r` is logged, and
the crew ends (R353). -/
def State.failCrew (s : State) (c : Crew) (r : LogRec) : State := ((s.cancelCrew c).logError c.fn r).endCrew c true

/-- An abort is requested: it takes effect at once, or, while the crew is being saved or restored, as that ends (R362). -/
def State.askAbort (s : State) (c : Crew) (r : LogRec) : State :=
  if c.st == .saving || c.st == .restoring then s.putCrew { c with abort := some (c.abort.getD r) } else s.failCrew c r

/-- Abort a crew with a cause and the trap records of its wave (R353). -/
def State.abortCrew (s : State) (h : Nat) (cause : Nat) (t : List (BitVec 64)) (w9 : BitVec 64 := 0) : State :=
  match s.crew h with
  | none => s
  | some c => s.askAbort c (crewLog s c 1 cause t w9)

/-- An abort that has waited for the end of a save or a restore takes effect (R362). -/
def State.dueAbort (s : State) (h : Nat) : State :=
  match s.crew h with
  | none => s
  | some c => match c.abort with
    | some r => s.failCrew c r
    | none => s

/-! ## Taking an exception (R141, R142) -/

/-- TPATH: index, half-wave, return depth, loop depth. -/
def tpathOf (t : Th) : BitVec 64 :=
  BitVec.ofNat 64 (t.w.d * 2 ^ 12 + t.rsd * 2 ^ 4 + (if t.w.half then 8 else 0) + t.p.idx)

/-- The wave's trap records for a trap: TCAUSE, TIA, TLANES, TPATH, TADDR, TINFO. -/
def setTrapRecs (t : Th) (x : Trap) : Wave :=
  { t.w with
    tcause := BitVec.ofNat 64 (x.cause + (if x.corr then 256 else 0) + x.sub * 65536),
    tia := x.tia.getD t.p.pia, tlanes := x.lanes, tpath := tpathOf t, taddr := x.addr, tinfo := BitVec.ofNat 64 x.info }

/-- A residue check, the checks of a fetched line or MDRAIN's own check have failed for good: that freezes recording on the die
(R368). -/
def Th.failed (t : Th) (x : Trap) : Th :=
  if x.cause == cResidue || x.cause == cFetchCheck || (x.cause == cMatrixCheck && x.info / 256 == 1) then
    { t with s := t.s.freezeDies [t.w.die] 1 }
  else t

/-- Enter the handler on the path, or end the crew as an abort where there is none (R141, R350). -/
def enterTrap (t : Th) (x : Trap) : State :=
  let t := t.failed x
  let w := setTrapRecs t x
  if t.w.hmode || t.w.tvec = 0 then t.commit.abortCrew t.w.crew x.cause (trapRecs w)
  else
    let p := { t.p with pia := normPc t.w.tvec, xfer := none, line := none, wait := .none, age := 0, yielded := false,
                        ibpSkip := false, tokWait := false }
    let t' : Th := { t with w := { (w.dropHeld t.p.eid) with hmode := true, hpath := t.p.eid }, p := p }
    let t' := t'.trace 4 x.cause (x.tia.getD t.p.pia)
    if 5 ≤ t.w.tvec.toNat % 8 then
      t'.commit.abortCrew t.w.crew cIllegalTarget
        (trapRecs (setTrapRecs t' { cause := cIllegalTarget, tia := some t.w.tvec, info := (x.tia.getD t.p.pia).toNat }))
    else t'.commit

/-! ## Parking (R255) -/

/-- The lowest free Page Request Group index of a function (log 9). -/
def freePark (s : State) (fn : Nat) : Option Nat :=
  (List.range 512).find? fun i => !(s.parks.any fun k => k.fn == fn && k.idx == some i)

/-- Write the park record of a park with an index, and send its page requests (R255). (DESIGN CHOICE; log 9)
(DEDUCED; log 19) -/
def State.sendPark (s : State) (k : Park) : State :=
  match k.idx with
  | none => s
  | some i =>
    let base := fld (s.fnReg k.fn 0x18) 63 14 * 2 ^ 14
    let w1 := BitVec.ofNat 64 (k.pasid * 2 ^ 44 + k.hint.toNat * 2 ^ 40 + k.kind.toNat * 2 ^ 36 +
      k.gen.toNat * 2 ^ 16 + k.cinfo.toNat * 2 ^ 8 + k.cause.toNat)
    let s := s.devWrite (base + 32 * i) (two k.low ++ two w1 ++ two (BitVec.ofNat 64 (k.pages.length % 256)) ++ two 0)
    let n := k.pages.length
    let reqs := (List.range n).map fun j =>
      HostMsg.pageRequest k.fn i k.pasid (k.pages.getD j 0) k.write (j + 1 == n)
    { s with outbox := reqs.reverse ++ s.outbox }

/-- A new park of `who` for an access error (R255). (DESIGN CHOICE; log 9) -/
def newPark (s : State) (who : ParkWho) (fn pasid crew : Nat) (hint : Nat) (e : MErr) : State × Nat :=
  let k : Park :=
    { h := s.nextH, fn := fn, idx := freePark s fn, who := who, pasid := pasid, crew := crew,
      cause := BitVec.ofNat 8 e.cause, cinfo := BitVec.ofNat 8 e.info, lanes := e.lanes, addr := e.addr,
      low := e.low.getD e.addr, kind := BitVec.ofNat 4 e.kind, write := e.write, hint := BitVec.ofNat 4 hint, gen := (s.ctx pasid).gen,
      pages := e.pages, t0 := s.ptime, dead := false, denied := false }
  (({ s with nextH := s.nextH + 1, parks := s.parks ++ [k] }).sendPark k, s.nextH)

/-- Park the path at its instruction, or raise the cause where it is not served or page requests have stopped (R255,
R256). (DEDUCED; log 19) -/
def parkPath (t : Th) (hint : Nat) (e : MErr) : State :=
  let fn := (t.crew.map (·.fn)).getD 0
  if !e.served || (t.s.fn fn).prStop then
    enterTrap t { cause := e.cause, lanes := e.lanes, addr := e.addr, info := e.info }
  else
    let (s, h) := newPark t.s (.path t.wk t.p.eid) fn t.w.pasid t.w.crew hint e
    let idx := ((s.parks.find? fun k => k.h == h).bind (·.idx)).getD 0
    -- a waiting BWAIT keeps its t0 (R332)
    let wait := match t.p.wait with | .bwait .. => t.p.wait | _ => .none
    let t : Th := { t with s := s.count t.w 0x0F 1, w := t.w.dropHeld t.p.eid, p := { t.p with st := .parked, park := some h, wait := wait, yielded := false } }
    let t := t.trace 5 idx t.p.pia
    t.commit.freeze t.w.pasid t.w.coreN 2

/-! ## Spilling of path-table entries (R204, R205) -/

/-- Physical table entries of the wave: all eight, or its half-wave's four (R212). -/
def Wave.capacity (w : Wave) : Nat := if w.w32 then 4 else 8

/-- The indices that are free, rising (R202). -/
def Wave.freeIdx (w : Wave) : List Nat :=
  ((List.range w.capacity).map fun i => if w.w32 && w.half then i + 4 else i).filter fun i =>
    !(w.paths.any fun p => p.idx == i)

/-- The virtual address of the wave's path-spill page (R204). -/
def spillPage (s : State) (w : Wave) : Nat :=
  (fld (s.ctxReg w.pasid 0x100) 63 13 * 2 ^ 13 + 8192 * (3072 * w.die + 64 * w.core + w.slot) +
    (if w.half then 4096 else 0)) % 2 ^ 64

def pstateCode : PState → Nat
  | .running => 1
  | .waiting => 2
  | .join => 3
  | .loopExit => 4
  | .parked => 5

/-- The 512-bit entry of a path (R202). -/
def entryBits (p : Path) : BitVec 512 :=
  BitVec.ofNat 512 (p.level.toNat * 2 ^ 266 + p.ldep.toNat * 2 ^ 263 + (if p.half then 2 ^ 262 else 0) +
    pstateCode p.st * 2 ^ 256 + p.rca.toNat * 2 ^ 192 + p.exm.toNat * 2 ^ 128 + p.mask.toNat * 2 ^ 64 + p.pia.toNat)

/-- The 256 bytes of a spill slot as 64-bit words (R204). -/
def spillWords (p : Path) : List (BitVec 64) :=
  let e := entryBits p
  let bank (i : Nat) : RWord 64 := if p.st == .join then zw 64 else sget (zw 64) p.s i
  let bb (i : Nat) : RWord 1 := if p.st == .join then zw 1 else sget (zw 1) p.b i
  let rs := (List.range 15).foldl (fun a i => a + (bank (i + 1)).r.toNat * 16 ^ i) 0
  let bs := (List.range 7).foldl (fun a i => a + (bb i).v.toNat * 2 ^ i + (if bad (bb i) then 2 ^ (7 + i) else 0)) 0
  let wr := p.ws.toNat / 2 % 2 ^ 15 * 2 ^ 14 + p.wb.toNat % 2 ^ 7 * 2 ^ 29
  ((List.range 8).map fun i => e.extractLsb' (64 * i) 64) ++ ((List.range 15).map fun i => (bank (i + 1)).v) ++
    [BitVec.ofNat 64 rs, BitVec.ofNat 64 (bs + wr)] ++ List.replicate 7 0

/-- The entry that a spill slot's words give back; what a slot does not hold (its place in the join chain, its keys,
its records) comes from `q`. A poisoned or failing word gives registers of residue 15. -/
def unspillWords (q : Path) (ws : List (RWord 32)) : Path :=
  let x (i : Nat) : BitVec 64 := word64 ws i
  let lost (i : Nat) : Bool :=
    let lo := ws.getD (2 * i) (zw 32)
    let hi := ws.getD (2 * i + 1) (zw 32)
    bad lo || bad hi || !sound lo || !sound hi
  let sreg (i : Nat) : RWord 64 := { v := x (7 + i), r := if lost (7 + i) || lost 23 then 15 else (x 23).extractLsb' (4 * (i - 1)) 4 }
  let breg (i : Nat) : RWord 1 :=
    let v := (x 24).extractLsb' i 1
    { v := v, r := if lost 24 || (x 24).getLsbD (7 + i) then 15 else res v.toNat }
  let isJoin := q.st == .join
  { q with
    pia := x 0, mask := x 1, exm := x 2, rca := x 3,
    s := if isJoin then [] else (List.range 15).foldl (fun m i => sset (zw 64) m (i + 1) (sreg (i + 1))) [],
    b := if isJoin then [] else (List.range 7).foldl (fun m i => sset (zw 1) m i (breg i)) [],
    ws := BitVec.ofNat 16 (fld (x 24) 28 14 * 2), wb := BitVec.ofNat 8 (fld (x 24) 35 29) }

/-- The lowest free slot of the spill stack (R204). -/
def Wave.spillSlot (w : Wave) : Nat := ((List.range 8).find? fun i => !(w.spilled.any fun q => q.idx == i)).getD 8

/-- The entries that a split of path `eid` may spill: neither the path nor its sibling (R205). -/
def spillable (w : Wave) (eid : Nat) : List Path :=
  w.paths.filter fun q => q.eid != eid &&
    !(match w.path eid with | some p => p.parent.isSome && q.parent == p.parent | none => false)

/-- Spill `n` entries, oldest first (R205). -/
def spillOldest (s : State) (wk : Nat) (w : Wave) (eid : Nat) : Nat → State × Except MErr Wave
  | 0 => (s, .ok w)
  | n + 1 =>
    match (spillable w eid).foldl (fun (m : Option Path) q => match m with
        | none => some q
        | some r => if q.eid < r.eid then some q else some r) none with
    | none => (s, .ok w)
    | some q =>
      let va := BitVec.ofNat 64 (spillPage s w + 256 * w.spillSlot)
      match s.agentWrite (agentOf s wk w eid) va ((spillWords q).flatMap two) 4000 with
      | (s, some e) => (s, .error { e with kind := 5 })
      | (s, none) =>
        spillOldest s wk { w with paths := w.paths.filter (fun r => r.eid != q.eid),
                                  spilled := { q with idx := w.spillSlot } :: w.spilled } eid n

/-- Spill entries until `need` are free; none, with nothing stored, where a ninth slot would be needed (R205). -/
def spillFor (s : State) (wk : Nat) (w : Wave) (eid need : Nat) : State × Except (Option MErr) Wave :=
  let n := need - w.freeIdx.length
  if 8 < w.spilled.length + n || (spillable w eid).length < n then (s, .error none)
  else match spillOldest s wk w eid n with
    | (s, .ok w) => (s, .ok w)
    | (s, .error e) => (s, .error (some e))

/-- A spilled entry as its slot gives it back. -/
def unspill (s : State) (wk : Nat) (w : Wave) (eid : Nat) (q : Path) : State × Except MErr Path :=
  match s.agentRead (agentOf s wk w eid) (BitVec.ofNat 64 (spillPage s w + 256 * q.idx)) 64 4100 with
  | (s, .error e) => (s, .error { e with kind := 5 })
  | (s, .ok ws) => (s, .ok (unspillWords q ws))

/-- Bring a spilled entry back to index `i` of the table. -/
def bringBack (s : State) (wk : Nat) (w : Wave) (eid : Nat) (q : Path) (i : Nat) : State × Except MErr Wave :=
  match unspill s wk w eid q with
  | (s, .error e) => (s, .error e)
  | (s, .ok p) =>
    (s, .ok { w with paths := w.paths ++ [{ p with idx := i }], spilled := w.spilled.filter fun r => r.eid != q.eid })

/-- Bring spilled entries back, newest first, while an entry is free (R205). -/
def refill (s : State) (wk : Nat) (w : Wave) (eid : Nat) : Nat → State × Except MErr Wave
  | 0 => (s, .ok w)
  | n + 1 =>
    match w.spilled, w.freeIdx with
    | q :: _, i :: _ =>
      match bringBack s wk w eid q i with
      | (s, .error e) => (s, .error e)
      | (s, .ok w) => refill s wk w eid n
    | _, _ => (s, .ok w)

/-! ## Arrival and merge (R207) -/

/-- The entries below join `j`, live or spilled. -/
def Wave.kids (w : Wave) (j : Nat) : List Path := (w.paths ++ w.spilled).filter fun p => p.parent == some j

/-- The bank of a merge: the taken child's value where it wrote, else the other's where only that wrote, else the
common copy (R126, R207). -/
def mergeS (a b : Path) : SMap (RWord 64) :=
  (List.range 15).foldl (fun m k =>
    let i := k + 1
    let x := if a.ws.getLsbD i || !b.ws.getLsbD i then sget (zw 64) a.s i else sget (zw 64) b.s i
    sset (zw 64) m i x) []

def mergeB (a b : Path) : SMap (RWord 1) :=
  (List.range 7).foldl (fun m i =>
    let x := if a.wb.getLsbD i || !b.wb.getLsbD i then sget (zw 1) a.b i else sget (zw 1) b.b i
    sset (zw 1) m i x) []

/-- The entries of one arm as one path: an exit entry that ran on alone (R161) stands beside the path it left.
(DEDUCED; log 57) -/
def mergeArm (j : Path) (l : List Path) : Option Path :=
  l.foldl (fun m q => match m with
    | none => some q
    | some a => some { a with mask := a.mask ||| q.mask, s := mergeS a q, b := mergeB a q, ws := a.ws ||| q.ws,
                              wb := a.wb ||| q.wb, pc := a.pc + (q.pc - j.pc), tc := a.tc + (q.tc - j.tc) }) none

/-- What is in one of two lists, once. -/
def unite (a b : List Nat) : List Nat := a ++ b.filter fun n => !a.contains n

/-- The path that join `j` becomes when its children have arrived; it is inside the levels that they are inside (R148, R207,
R373). -/
def joined (j : Path) (kids : List Path) : Path :=
  let tk := mergeArm j (kids.filter (·.taken))
  let nt := mergeArm j (kids.filter fun q => !q.taken)
  let a := tk.getD (nt.getD j)
  let b := nt.getD a
  let m (o : Option Path) : BitVec 64 := (o.map (·.mask)).getD 0
  let w (o : Option Path) : BitVec 16 := (o.map (·.ws)).getD 0
  let wb (o : Option Path) : BitVec 8 := (o.map (·.wb)).getD 0
  let kpc (o : Option Path) : BitVec 48 := (o.map fun p => p.pc - j.pc).getD 0
  let ktc (o : Option Path) : BitVec 16 := (o.map fun p => p.tc - j.tc).getD 0
  { j with
    st := .running, mask := m tk ||| m nt, exm := j.exm &&& (m tk ||| m nt), s := mergeS a b, b := mergeB a b,
    ldep := kids.foldl (fun d q => if d.toNat < q.ldep.toNat then q.ldep else d) j.ldep,
    ws := j.ws ||| w tk ||| w nt, wb := j.wb ||| wb tk ||| wb nt, age := 0, yielded := false,
    pc := j.pc + kpc tk + kpc nt + j.epc, tc := j.tc + ktc tk + ktc nt + j.etc, epc := 0, etc := 0, wait := .none,
    xfer := none, line := none, tokWait := false, obs := kids.foldl (fun l q => unite l q.obs) j.obs }

/-- What entry `a` issued to the matrix engine counts as issued by entry `b`, which goes on in its place (R299, R302). -/
def Wave.inherit (w : Wave) (a b : Nat) : Wave :=
  { w with mcheck := w.mcheck.map fun m => if m.eid == a then { m with eid := b } else m }

def State.inherit (s : State) (wk a b : Nat) : State :=
  { s with passes := s.passes.map fun p => if p.wk == wk && p.eid == a then { p with eid := b } else p }

/-- What settling a path came to: the wave, the path that now runs in its place, and an error of a refill with the path
that parks for it. -/
structure Settled where
  s   : State
  w   : Wave
  eid : Option Nat
  err : Option MErr

/-- Bring back the spilled entries that the merge of join `j` needs: each takes a free index, or that of a child, which the
merge frees (R205). -/
def recallFor (s : State) (wk : Nat) (w : Wave) (j : Nat) : List Path → State × Except MErr Wave
  | [] => (s, .ok w)
  | q :: l =>
    let i := w.freeIdx.headD (((w.paths.find? fun p => p.parent == some j).map (·.idx)).getD 0)
    match bringBack s wk w j q i with
    | (s, .error e) => (s, .error e)
    | (s, .ok w) => recallFor s wk w j l

/-- Let join `j` merge if every entry below it waits at the reconvergence address; each merge may arrive in turn (R207).
A spilled entry that the merge needs returns first (R205). -/
def arrive (s : State) (wk : Nat) (w : Wave) (j : Nat) : Nat → Settled
  | 0 => { s := s, w := w, eid := none, err := none }
  | n + 1 =>
    if !((w.kids j).all fun q => q.st == .waiting) then { s := s, w := w, eid := none, err := none }
    else
      match recallFor s wk w j (w.spilled.filter fun q => q.eid == j || q.parent == some j) with
      | (s, .error e) => { s := s, w := w, eid := (w.paths.find? fun q => q.parent == some j).map (·.eid), err := some e }
      | (s, .ok w) => match w.path j with
        | none => { s := s, w := w, eid := none, err := none }
        | some jp =>
          let kids := w.kids j
          let jp' := joined jp kids
          let w := { w with paths := w.paths.filter fun q => q.parent != some j }
          let s := kids.foldl (fun s q => s.inherit wk q.eid j) s
          let w := kids.foldl (fun w q => w.inherit q.eid j) w
          if jp'.mask = 0 then
            let w := { w with paths := w.paths.filter fun q => q.eid != j }
            match jp.parent with
            | none => { s := s, w := w, eid := none, err := none }
            | some k =>
              let add (q : Path) : Path := { q with epc := q.epc + (jp'.pc - q.pc), etc := q.etc + (jp'.tc - q.tc) }
              let w := { w with paths := lmod w.paths (fun q => q.eid == k) add,
                                spilled := lmod w.spilled (fun q => q.eid == k) add }
              arrive (s.inherit wk j k) wk (w.inherit j k) k n
          else
            let w := w.putPath jp'
            let s := s.count w 0x05 1
            let s := s.trace w.pasid w.coreN (some (w, jp')) 3 (((kids.find? (·.taken)).map (·.idx)).getD 0) jp'.pia
            match refill s wk w j 8 with
            | (s, .error e) => { s := s, w := w, eid := some j, err := some e }
            | (s, .ok w) =>
              match jp'.parent with
              | some k =>
                if jp'.pia == jp'.rca then arrive s wk (w.putPath { jp' with st := .waiting }) k n
                else { s := s, w := w, eid := some j, err := none }
              | none => { s := s, w := w, eid := some j, err := none }

/-- The loop-exit entry that waits where the path has come to, live or spilled (R161, R207). (DEDUCED; log 57) -/
def exitAt (w : Wave) (p : Path) : Option Path := (w.paths ++ w.spilled).find? fun q =>
  q.st == .loopExit && q.pia == p.pia && q.ldep == p.ldep && q.hexit == w.hmode && q.eid != p.eid

/-- The path merged with an exit entry that waited at its address (R207). -/
def withExit (p q : Path) : Path :=
  { p with mask := p.mask ||| q.mask, exm := p.exm ||| q.exm, s := mergeS p q, b := mergeB p q, ws := p.ws ||| q.ws,
           wb := p.wb ||| q.wb, pc := p.pc + q.epc, tc := p.tc + q.etc, obs := unite p.obs q.obs }

/-- Does the path stand where it issues nothing but merges: at its reconvergence address, or with an exit entry? -/
def meets (w : Wave) (p : Path) : Bool := (p.parent.isSome && p.pia == p.rca && !w.hmode) || (exitAt w p).isSome

/-- When no entry of the wave can move any more but loop exits wait, the exits run on (R161). -/
def Wave.release (w : Wave) : Wave :=
  if (w.paths ++ w.spilled).any (fun q => q.st == .running || q.st == .parked) then w
  else
    let run (l : List Path) : List Path := lmod l (fun q => q.st == .loopExit) fun q => { q with st := .running }
    { w with paths := run w.paths, spilled := run w.spilled }

/-- A path parks because the return of spilled entries faulted; it tries again before it issues (R205). -/
def parkOwing (t : Th) (e : MErr) : State := parkPath { t with p := { t.p with owes := true } } 15 e

/-- A refill for no path of the table faulted: the next path to issue tries it again; where every entry is spilled, the
newest of them parks. (DEDUCED; log 61) -/
def State.owing (s : State) (wk : Nat) (e : MErr) : State :=
  match s.wave wk with
  | none => s
  | some w =>
    match w.paths.find? (fun q => q.st == .running), w.spilled with
    | some p, _ => s.putWave wk (w.putPath { p with owes := true })
    | none, q :: l =>
      let fn := ((s.crew w.crew).map (·.fn)).getD 0
      let (s, h) := newPark s (.path wk q.eid) fn w.pasid w.crew 15 e
      s.putWave wk { w with spilled := { q with st := .parked, park := some h } :: l }
    | none, [] => s

/-- Put back a wave after an arrival; a refill that failed parks the merged path, or one that waits for the merge. -/
def landed (wk : Nat) (r : Settled) : State :=
  let s := r.s.putWave wk r.w.release
  match r.err with
  | none => s
  | some e => match r.eid.bind (s.view wk) with
    | some v => parkOwing v e
    | none => s.owing wk e

/-- The path, put into its wave, arrives at its reconvergence address if it stands there (R207). -/
def Th.land (t : Th) : State :=
  match t.p.parent with
  | some j =>
    if t.p.pia == t.p.rca then
      let w := t.w.dropHeld t.p.eid
      landed t.wk (arrive t.s t.wk (w.putPath { t.p with st := .waiting, age := 0, yielded := false }) j 64)
    else t.commit
  | none => t.commit

/-- Commit a path that has moved to a new address: it merges with a loop exit that waits there, which frees an entry for
spilled ones, and arrives at its reconvergence address (R161, R205, R207). -/
def settle (t : Th) : State :=
  match exitAt t.w t.p with
  | none => t.land
  | some q =>
    let (s, r) := if t.w.spilled.any (fun x => x.eid == q.eid) then unspill t.s t.wk t.w t.p.eid q else (t.s, .ok q)
    match r with
    | .error e => parkPath { t with s := s } 15 e
    | .ok q =>
      let out (l : List Path) : List Path := l.filter fun x => x.eid != q.eid
      let w := (t.w.dropHeld t.p.eid).dropHeld q.eid
      let p := withExit t.p q
      let w := { w with paths := out w.paths, spilled := out w.spilled }.inherit q.eid p.eid
      let s := s.inherit t.wk q.eid p.eid
      let t : Th := { t with w := w, p := p }
      match refill s t.wk (t.w.putPath p) p.eid 8 with
      | (s, .error e) => parkOwing { t with s := s } e
      | (s, .ok w) => ({ t with s := s, w := w }).land

/-! ## Loop levels (R148, R152, R161) -/

/-- Close the innermost open level; paths inside it are inside one less. -/
def Th.closeLevel (t : Th) : Th :=
  let n := t.w.d - 1
  let l := t.w.level n
  let w := { (t.w.setLevel n l.closed) with d := n }
  let cap (p : Path) : Path := if n < p.ldep.toNat then { p with ldep := BitVec.ofNat 3 n } else p
  { t with w := { w with paths := w.paths.map cap, spilled := w.spilled.map cap }, p := cap t.p }

/-- Does the back edge of level `n` apply to the retiring path (R152)? -/
def Th.edgeApplies (t : Th) (n : Nat) : Bool :=
  let l := t.w.level n
  t.p.pia == l.enda && t.rsd == l.cdep && t.w.hmode == l.hlev

/-- The back edges of a retirement at the path's address: the view and the next address (R152). -/
def backEdge (t : Th) : Nat → Th × BitVec 64
  | 0 => (t, nextAddr t.p.pia)
  | n + 1 =>
    if t.w.d = n + 1 && t.edgeApplies n then
      let l := t.w.level n
      if 1 < l.rem then
        let b := setFld (setFld l.bits 159 128 (l.rem - 1)) 191 160 (l.iter + 1)
        let b := if l.rot = 0 then b else setFld b 243 238 ((l.rrb + l.rot - 1) % l.rot)
        ({ t with w := (t.w.setLevel n (l.setBits b)).dropHeld t.p.eid }, l.starta)
      else backEdge t.closeLevel n
    else (t, nextAddr t.p.pia)

/-- The loop words that the back edge of a retirement at the path's address reads: REM, ITER, RRB of each level it steps
or closes, from level `n - 1` outward (R152). -/
def edgeWords (t : Th) : Nat → List (RWord 32)
  | 0 => []
  | n + 1 =>
    if t.edgeApplies n then
      let l := t.w.level n
      [l.word 4, l.word 5, l.word 7] ++ (if 1 < l.rem then [] else edgeWords t n)
    else []

/-! ## Retirement -/

/-- Append the path's key at a synchronising operation in a replay region (R373). -/
def logKey (t : Th) : Th × Option MErr :=
  match t.crew.bind (·.region) with
  | none => (t, none)
  | some r =>
    match rcbWords t.s t.agent r with
    | (s, .error e) => ({ t with s := s }, some e)
    | (s, .ok ws) =>
      let t := { t with s := s }
      let w2 := word64 ws 2
      let put (t : Th) (x y : BitVec 64) : Th × Option MErr :=
        match t.s.agentWrite t.agent (r.rcb + 16) (two x ++ two y) 2400 with
        | (s, e) => ({ t with s := s }, e)
      if 8192 ≤ t.w.logIdx then put t (setBit w2 34 true) (word64 ws 3)
      else
        let va := word64 ws 1 + BitVec.ofNat 64 (65536 * t.w.wid + 8 * t.w.logIdx)
        let key : BitVec 64 := t.p.tc ++ t.p.pc
        let i := t.w.logIdx
        let t := { t with w := { t.w with logIdx := i + 1 } }
        if !r.cmp then
          match t.s.agentWrite t.agent va (two key) 2410 with
          | (s, e) => ({ t with s := s }, e)
        else
          match t.s.agentRead t.agent va 2 2410 with
          | (s, .error e) => ({ t with s := s }, some e)
          | (s, .ok ks) =>
            let t := { t with s := s }
            let recorded := ((t.crew.map fun c => sget 0 c.logged t.w.wid).getD 0)
            if !(ks.any bad) && word64 ks 0 == key && i < recorded then (t, none)
            else if w2.getLsbD 32 then (t, none)
            else put t (setFld (setBit w2 32 true) 63 48 i) (setFld (word64 ws 3) 3 0 t.w.wid)

/-- What is counted of a retiring instruction. -/
structure Fin where
  vec  : Bool := false          -- class L (R369)
  exec : BitVec 64 := 0         -- its executing lanes, for class L
  sync : Bool := false          -- synchronising operation (R337)
  extra : Nat := 0              -- extra cycles of V bank conflicts (R110)
deriving DecidableEq, Repr

/-- Count a retirement: events, the key, the watchdog measure, the age of held copies (R111, R356, R369, R373).
(DESIGN CHOICE; log 29) -/
def countRetire (t : Th) (k : Fin) (xfer : Bool) : Th :=
  let s := t.s.count t.w 0x01 1
  let s := if k.vec then (s.count t.w 0x02 1).count t.w 0x03 (popcount k.exec) else s
  let s := s.count t.w 0x0C k.extra
  let p := if t.w.hmode then t.p
    else { t.p with pc := t.p.pc + 1, tc := if xfer then t.p.tc + 1 else t.p.tc }
  { t with s := s, w := { (t.w.agedHeld t.p.eid) with wdog := s.ptime }, p := { p with age := 0, wait := .none, ibpSkip := false, tokWait := false } }

/-- The path at its next address: the delivered line stays where the address is in it (R99). -/
def Th.goto (t : Th) (a : BitVec 64) (chk : Bool) (src : BitVec 64) : Th :=
  let keep := t.p.pia.toNat / 64 == a.toNat / 64 && !chk
  { t with p := { t.p with pia := a, xfer := if chk then some src else none, line := if keep then t.p.line else none } }

/-- Finish an instruction of path `t0` (before it) whose body came to `r`. Loop words that no check of the instruction
has covered are checked here; a class-L instruction that has had its first try leaves INJ disarmed (R152, R176, R181).
(DEDUCED; log 20) -/
def finish (t0 : Th) (k : Fin) (r : Res) : State :=
  let retire (t : Th) (next : Option (BitVec 64 × Bool × Bool)) : State :=
    let words := if next.isNone then edgeWords t t.w.d else []
    if words.any bad then enterTrap t0 (poisonUse 1 0)
    else if words.any (fun w => !sound w) then
      enterTrap (if k.vec then { t0 with w := { t0.w with inj := t.w.inj } } else t0)
        { cause := cResidue, lanes := k.exec, info := 6 }
    else
      let src := t.p.pia
      let (t, a, chk, xf) : Th × BitVec 64 × Bool × Bool := match next with
        | some (a, chk, xf) => (t, a, chk, xf)
        | none =>
          let (t, a) := backEdge t t.w.d
          (t, a, false, false)
      let t := countRetire t k xf
      match (if k.sync then logKey t else (t, none)) with
      | (t', some e) => parkPath { t0 with s := t'.s, p := { t0.p with age := 0 } } 15 e
      | (t, none) =>
        let t := if k.sync then t.trace 7 ((opByte t0.p).toNat) src else t
        settle (t.goto (if chk then a else normPc a) chk src)
  match r with
  | .done t => retire t none
  | .jump t a chk xf => retire t (some (a, chk, xf))
  | .trap t x => enterTrap t x
  | .merr t e => parkPath { t with p := { t.p with age := 0 } } e.hint e
  | .hold t => ({ t with p := { t.p with age := 0 } } : Th).commit
  | .gone s => s
where
  /-- The opcode of the instruction at the path's slot, for the trace record. -/
  opByte (p : Path) : BitVec 8 :=
    match p.wait, p.line with
    | .bwait .., _ => 0xE2
    | .cbar .., _ => 0xE4
    | .fence .., _ => 0x32
    | _, some (_, d) => d.extractLsb' (96 * (p.pia.toNat % 8)) 8
    | _, none => 0

/-! ## Issue (R109, R120, R349) -/

/-- Instruction classes (R109). -/
inductive Cls where
  | c | l | none
deriving DecidableEq, Repr

/-- The lanes of the guard, all 64 judged (R109), or POISON_USE of the guard register. -/
def guardOf (t : Th) (k : Cls) (f : Fields) : Except Trap (BitVec 64) :=
  let all (b : Bool) : BitVec 64 := if b then 0xFFFFFFFFFFFFFFFF else 0
  let g := f.gsel.toNat
  if k == .none then .ok (all true)
  else if g < 16 then
    let p := t.preg g
    if bad p then .error (poisonUse 2 g (if k == .l then t.p.exm else 0))
    else .ok (if f.gneg then ~~~p.v else p.v)
  else if g < 24 then
    let b := t.breg (g - 16)
    if bad b then .error (poisonUse 2 (g - 16) (if k == .l then t.p.exm else 0))
    else .ok (all ((b.v == 1) != f.gneg))
  else .ok (all (t.w.sg (g - 24) != f.gneg))

/-- The joins above an entry whose parent is given, innermost first. -/
def Wave.above (w : Wave) : Nat → Option Nat → List Nat
  | 0, _ => []
  | _, none => []
  | n + 1, some e => e :: w.above n (((w.paths ++ w.spilled).find? fun q => q.eid == e).bind (·.parent))

/-- Does what entry `eid` issued precede the path in program order: its own, or that of a join above it (R299, R302)? What an
arm issued is its join's once it has merged. -/
def Th.before (t : Th) (eid : Nat) : Bool := eid == t.p.eid || (t.w.above 64 t.p.parent).contains eid

/-- A pending MATRIX_CHECK that the instruction raises: one of its path's that names a tile the instruction names, or
any, for MDRAIN, EXIT and FENCE (R302). (DEDUCED; log 34) -/
def pendingCheck (t : Th) (tiles : BitVec 32) (any : Bool) : Option (Th × Trap) :=
  match t.w.mcheck.find? fun m => t.before m.eid && (any || m.tiles &&& tiles != 0) with
  | none => none
  | some m =>
    some ({ t with w := { t.w with mcheck := t.w.mcheck.erase m } },
      { cause := cMatrixCheck, addr := m.addr, info := m.info.toNat })

/-- What issue needs to know of an instruction beside its fields. -/
structure Kind where
  cls   : Cls
  priv  : Bool := false
  tiles : BitVec 32 := 0            -- tiles it names (R302)
  drain : Bool := false             -- MDRAIN, EXIT or FENCE (R302)
  sync  : Bool := false
  inj   : Option Nat := Option.none -- its opcode, for a scalar instruction that INJ may hit (R181)
  dec   : Th → Option Trap := fun _ => Option.none   -- decode checks of its own

/-- Does INJ inject into the instruction with this opcode (R181)? (DEDUCED; log 22) -/
def injHits (t : Th) (op : Nat) (eligible : Bool) : Bool :=
  eligible && !t.w.hmode && t.w.inj.getLsbD 63 && (fld t.w.inj 47 40 == 0 || fld t.w.inj 47 40 == op)

/-- The path with INJ disarmed where the instruction, with no lane that executes, is the one it waits for (R181).
(DEDUCED; log 22) -/
def Th.spentInj (t : Th) (op : Option Nat) : Th :=
  match op with
  | some n => if injHits t n true then { t with w := { t.w with inj := setBit t.w.inj 63 false } } else t
  | none => t

/-- A vector instruction issues in lanes `ex`: the governor of its core counts it, with its live lanes (R96). (DEDUCED; log 54) -/
def Th.vecIssued (t : Th) (ex : BitVec 64) : Th :=
  let x := sget (0, 0) t.s.pkg.vecs t.w.coreN
  { t with s := { t.s with pkg := { t.s.pkg with vecs := sset (0, 0) t.s.pkg.vecs t.w.coreN (x.1 + 1, x.2 + popcount ex) } } }

/-- Issue of instruction `i` with fields `f` on path `t`: the causes in their order, then the body with the lanes that
execute (R109, R120, R302, R349). (DEDUCED; log 14) -/
def issueOn (i : Instr) (f : Fields) (k : Kind) (body : Th → BitVec 64 → Res) (t : Th) : State :=
  let extra := t.bankExtra (vSources t.lim i)
  let t := if k.cls == .l then t.latched f else t
  let stop (x : Trap) : State := enterTrap t x
  if k.priv && !t.w.hmode then stop { cause := cPrivOp }
  else match k.dec t with
  | some x => stop x
  | none => match fieldErr t.lim i with
    | some bit => stop { cause := cIllegalField, info := bit }
    | none => match guardOf t k.cls f with
      | .error x => stop x
      | .ok g =>
        let ex := t.p.exm &&& g
        if k.cls == .c && g == 0 then finish t {} (.done (t.spentInj k.inj))
        else match pendingCheck t k.tiles k.drain with
          | some (t', x) => enterTrap t' x
          | none =>
            let t := if k.cls == .l then t.vecIssued ex else t
            finish t { vec := k.cls == .l, exec := if k.cls == .l then ex else 0, sync := k.sync, extra := extra } (body t ex)

/-- The path selected to issue. -/
def State.issuer (s : State) : Option Th := s.sel.bind fun x => s.view x.1 x.2

/-- The outcome of a step that comes to `s`: a fault where it accessed memory that does not exist (R249).
(DESIGN CHOICE; log 59) -/
def answer (s : State) : Host.Outcome State Fault Refusal :=
  match s.badPa with
  | some pa => .fault (.noSuchMemory pa)
  | none => .next s

/-- Issue on the selected path; without one nothing happens. -/
def issue (i : Instr) (f : Fields) (k : Kind) (body : Th → BitVec 64 → Res) (s : State) :
    Host.Outcome State Fault Refusal :=
  match s.issuer with
  | none => answer s
  | some t => answer (issueOn i f k body t)

end Sys2Proof.Machine
end

