-- ==== Sys2Proof/Machine/Operands.lean ====
section
/-!
DEFINITION. Operand forms: types and their register forms, immediates, and the source words an instruction reads in a
lane (R20, R21, R107, R128, R167, R168).
-/
namespace Sys2Proof.Machine

/-- Width of a type in bits (R20). -/
def tyW (ty : Nat) : Nat :=
  match ty with
  | 0 | 5 | 6 | 11 => 32
  | 1 | 2 | 13 | 14 | 15 => 8
  | 3 | 4 | 9 | 10 => 16
  | 7 | 8 | 12 => 64
  | _ => 32

/-- Is the type a signed integer (R20)? -/
def tySigned (ty : Nat) : Bool := ty == 1 || ty == 3 || ty == 5 || ty == 7

/-- The register form of a pattern of type `ty` in `n` bits: sign-extended or zero-extended (R20). -/
def regForm (ty n v : Nat) : Nat :=
  let w := tyW ty
  if tySigned ty then ofSigned n (toSigned w (v % 2 ^ w)) else v % 2 ^ w

/-- A source as an instruction reads it in one lane: its pattern, whether a word of it is poison, whether every word
passes its check, and the WHERE code and register that a failed check reports (R176, R179). -/
structure Src where
  v    : Nat
  bad  : Bool
  ok   : Bool
  wher : Nat
  reg  : Nat
deriving DecidableEq, Repr

/-- The S register `n` read in its low `w` bits. -/
def Th.srcS (t : Th) (w n wher : Nat) : Src :=
  let x := t.sreg n
  { v := x.v.toNat % 2 ^ w, bad := Machine.bad x, ok := sound x, wher := wher, reg := n }

/-- The WHERE code of name Vk as a source: a held copy has a code of its own (R111, R179). -/
def Th.whereV (t : Th) (k wher : Nat) : Nat := if t.holds (t.w.vname k) then 4 else wher

/-- Lane `L` of V register `k` read in its low `w` bits; 64 bits are an even-odd pair (R21). -/
def Th.srcV (t : Th) (w k L wher : Nat) : Src :=
  let lo := t.vreg k L
  if w = 64 then
    let hi := t.vreg (k + 1) L
    { v := lo.v.toNat + 2 ^ 32 * hi.v.toNat, bad := Machine.bad lo || Machine.bad hi, ok := sound lo && sound hi,
      wher := t.whereV (if sound lo && !sound hi then k + 1 else k) wher,
      reg := if sound lo then (if sound hi then k else k + 1) else k }
  else { v := lo.v.toNat % 2 ^ w, bad := Machine.bad lo, ok := sound lo, wher := t.whereV k wher, reg := k }

/-- The P register `n`. -/
def Th.srcP (t : Th) (n wher : Nat) : Src :=
  let x := t.preg n
  { v := x.v.toNat, bad := Machine.bad x, ok := sound x, wher := wher, reg := n }

/-- A source that is not read. -/
def noSrc : Src := { v := 0, bad := false, ok := true, wher := 0, reg := 0 }

/-- An immediate in an integer type, in its low `w` bits (R107). -/
def immInt (f : Fields) (w : Nat) : Src :=
  let x := f.hi.toNat
  let v := if w = 64 then (if tySigned f.ty.toNat then ofSigned 64 (toSigned 32 x) else x) else x % 2 ^ w
  { v := v, bad := false, ok := true, wher := 2, reg := 0 }

/-- Source A of a vector instruction: a V register. -/
def Th.srcA (t : Th) (f : Fields) (w L : Nat) : Src := t.srcV w f.sa.toNat L 1

/-- Source B: immediate, S or V register (R106, R107). -/
def Th.srcB (t : Th) (f : Fields) (w L : Nat) : Src :=
  if f.immf then immInt f w
  else if f.scls.getLsbD 0 then t.srcS w f.sb.toNat 2
  else t.srcV w f.sb.toNat L 2

/-- Source C: S or V register. -/
def Th.srcC (t : Th) (f : Fields) (w L : Nat) : Src :=
  if f.scls.getLsbD 1 then t.srcS w f.sc.toNat 3 else t.srcV w f.sc.toNat L 3

/-- A shift count or bit-field control: the unsigned 32-bit word of source B, the low word of a 64-bit one, whose other
word is a source like any other half of a pair (R41, R170, R171, R182). -/
def Th.srcCount (t : Th) (f : Fields) (L : Nat) : Src :=
  if f.immf || f.scls.getLsbD 0 then t.srcB f 32 L
  else
    let x := t.srcV (max 32 (tyW f.ty.toNat)) f.sb.toNat L 2
    { x with v := x.v % 2 ^ 32 }

/-- Source B of a scalar instruction: S register or immediate (R128). -/
def Th.scalB (t : Th) (f : Fields) (w : Nat) : Src := if f.immf then immInt f w else t.srcS w f.sb.toNat 2

/-- Write the register form of a pattern of type `ty` to V register `k` of a lane: one word or an even-odd pair. -/
def Th.putV (t : Th) (k L : Nat) (wide poison : Bool) (v : Nat) : Th :=
  let t := t.setV k L (mkP poison (BitVec.ofNat 32 v))
  if wide then t.setV (k + 1) L (mkP poison (BitVec.ofNat 32 (v / 2 ^ 32))) else t

end Sys2Proof.Machine
end

