-- ==== Sys2Proof/Machine/Flags.lean ====
section
/-!
DEFINITION. The residue flags: the predicted residue of every integer instruction beside its value, the checker with its
retry, and fault injection (R129 to R132, R169 to R182).
-/
namespace Sys2Proof.Machine

/-- A result: its pattern of W bits and its predicted residue, before it is taken modulo 15. -/
structure Val where
  v : Nat
  p : Int
deriving DecidableEq, Repr

/-- res as an integer. -/
def ri (x : Nat) : Int := (x % 15 : Nat)

/-- m(v): an integer taken modulo 15 (R172). -/
def mi (x : Int) : Int := x % 15

/-- The range of a W-bit type. -/
def tyLo (sgn : Bool) (w : Nat) : Int := if sgn then -(2 ^ (w - 1) : Int) else 0
def tyHi (sgn : Bool) (w : Nat) : Int := if sgn then 2 ^ (w - 1) - 1 else 2 ^ w - 1

/-- A pattern read under signedness. -/
def rdInt (sgn : Bool) (w x : Nat) : Int := if sgn then toSigned w x else x

/-- Under SAT, an exact result outside the range becomes the clamp constant, with its residue as prediction. -/
def clampVal (sgn : Bool) (w : Nat) (sat : Bool) (exact : Int) (r : Val) : Val :=
  if sat && (exact < tyLo sgn w || tyHi sgn w < exact) then
    let c := ofSigned w (if exact < tyLo sgn w then tyLo sgn w else tyHi sgn w)
    { v := c, p := ri c }
  else r

/-! ## Identities (R129, R169) -/

def addId (w a b : Nat) : Val := { v := (a + b) % 2 ^ w, p := ri a + ri b - ((a + b) / 2 ^ w : Nat) }

def subId (w a b : Nat) : Val :=
  { v := (a + 2 ^ w - b) % 2 ^ w, p := ri a - ri b + (if a < b then 1 else 0) }

def addOp (sgn sat : Bool) (w a b : Nat) : Val :=
  clampVal sgn w sat (rdInt sgn w a + rdInt sgn w b) (addId w a b)

def subOp (sgn sat : Bool) (w a b : Nat) : Val :=
  clampVal sgn w sat (rdInt sgn w a - rdInt sgn w b) (subId w a b)

def mulOp (w a b : Nat) : Val := { v := a * b % 2 ^ w, p := ri a * ri b - ri (a * b / 2 ^ w) }

def mulhOp (sgn : Bool) (w a b : Nat) : Val :=
  let hi := a * b / 2 ^ w
  let p := ri a * ri b - ri (a * b % 2 ^ w)
  if !sgn then { v := hi, p := p }
  else
    let x := if 2 ^ (w - 1) ≤ a then b else 0
    let y := if 2 ^ (w - 1) ≤ b then a else 0
    let m := (hi + 2 ^ w - x) % 2 ^ w
    { v := (m + 2 ^ w - y) % 2 ^ w,
      p := p - ri x - ri y + (if hi < x then 1 else 0) + (if m < y then 1 else 0) }

def madOp (w a b c : Nat) : Val :=
  let lo := a * b % 2 ^ w
  { v := (lo + c) % 2 ^ w, p := ri a * ri b - ri (a * b / 2 ^ w) + ri c - ((lo + c) / 2 ^ w : Nat) }

def andOp (a b : Nat) : Val := { v := a &&& b, p := ri (a &&& b) }
def orOp (a b : Nat) : Val := { v := a ||| b, p := ri a + ri b - ri (a &&& b) }
def xorOp (a b : Nat) : Val := { v := a ^^^ b, p := ri a + ri b - 2 * ri (a &&& b) }
def andnOp (w a b : Nat) : Val := { v := a &&& (2 ^ w - 1 - b), p := ri a - ri (a &&& b) }

/-- res of a × 2^k. -/
def ri2 (a k : Nat) : Int := ri (a % 15 * 2 ^ (k % 4))

def shlOp (w a k : Nat) : Val :=
  { v := if k < w then a * 2 ^ k % 2 ^ w else 0,
    p := ri a * 2 ^ (k % 4) - (if k < w then ri (a * 2 ^ k / 2 ^ w) else ri2 a (k - w)) }

def shrOp (w a k : Nat) : Val :=
  { v := if k < w then a / 2 ^ k else 0,
    p := (ri a - ri (if k < w then a % 2 ^ k else a)) * 2 ^ ((4 - k % 4) % 4) }

def sraOp (w a k : Nat) : Val :=
  let neg : Bool := 2 ^ (w - 1) ≤ a
  let fill := if k < w then 2 ^ w - 2 ^ (w - k) else 2 ^ w - 1
  let s := shrOp w a k
  if neg then { v := s.v + fill, p := s.p + ri fill } else s

def shrS (sgn : Bool) (w a k : Nat) : Val := if sgn then sraOp w a k else shrOp w a k

def minOp (sgn : Bool) (w a b : Nat) : Val := let s := if rdInt sgn w b < rdInt sgn w a then b else a; { v := s, p := ri s }
def maxOp (sgn : Bool) (w a b : Nat) : Val := let s := if rdInt sgn w a < rdInt sgn w b then b else a; { v := s, p := ri s }

def absOp (sat : Bool) (w a : Nat) : Val :=
  if 2 ^ (w - 1) ≤ a then clampVal true w sat (-(toSigned w a)) { v := (2 ^ w - a) % 2 ^ w, p := 1 - ri a }
  else { v := a, p := ri a }

def negOp (sgn sat : Bool) (w a : Nat) : Val :=
  clampVal sgn w sat (-(rdInt sgn w a)) { v := (2 ^ w - a) % 2 ^ w, p := (if a = 0 then 0 else 1) - ri a }

/-- A value whose prediction comes from a second tree or counter. -/
def treeVal (v : Nat) : Val := { v := v, p := ri v }

def bitCount (x : Nat) : Nat := (lanesOf (BitVec.ofNat 64 x)).length

/-- The bit-field extract of R131: control fields POS and LEN. -/
def bfxOp (sgn : Bool) (w a ctl : Nat) : Val :=
  let pos := bitsOf ctl 5 0
  let len := min (bitsOf ctl 14 8) 64
  let raw := if len = 0 then 0 else a / 2 ^ pos % 2 ^ len
  let v := if len = 0 then 0
    else if sgn && len < w && raw / 2 ^ (len - 1) = 1 then raw + (2 ^ w - 2 ^ len) else raw
  let p : Int :=
    if pos + len ≤ w then
      let up := shlOp w a (w - pos - len)
      -- the second identity works on res of the shifted value, which the first one predicts
      (shrS sgn w up.v (w - len)).p + (up.p - ri up.v) * 2 ^ ((4 - (w - len) % 4) % 4)
    else (shrOp w a pos).p
  { v := v, p := p }

/-- The bit-field insert of R131. -/
def bfiOp (w a ctl c : Nat) : Val :=
  let pos := bitsOf ctl 5 0
  let len := min (bitsOf ctl 14 8) 64
  let m := (2 ^ len - 1) * 2 ^ pos % 2 ^ w
  let new := (c * 2 ^ pos) &&& m
  { v := (a &&& (2 ^ w - 1 - m)) + new, p := ri a - ri (a &&& m) + ri new }

/-! ## Division (R130) -/

/-- Quotient and remainder. -/
def divRem (sgn : Bool) (w a b : Nat) : Nat × Nat :=
  if b = 0 then (2 ^ w - 1, a)
  else if sgn then
    let x := toSigned w a
    let y := toSigned w b
    (ofSigned w (x.tdiv y), ofSigned w (x.tmod y))
  else (a / b, a % b)

/-- The multiply-back check: q × b + m in W bits against res(a). -/
def divCheck (w a b q m : Nat) : Bool := (q * b + m) % 2 ^ w % 15 == a % 15

/-! ## Sums of products and differences (R172) -/

def addsOp (sgn sat : Bool) (w a b c : Nat) : Val :=
  let x := rdInt sgn w a
  let y := rdInt sgn w b
  let t : Int := if x < y then y - x else x - y
  -- the VSUB identity in the order that yields t; t needs up to W bits
  let d := if x < y then subId w b a else subId w a b
  let s := addId w c d.v
  clampVal sgn w sat (rdInt sgn w c + t) { v := s.v, p := s.p - ri d.v + d.p }

def dot4Op (sgn sat : Bool) (a b c : Nat) : Val :=
  let byte (x j : Nat) : Nat := x / 2 ^ (8 * j) % 256
  let neg (x : Nat) : Int := if sgn && 128 ≤ x then 1 else 0
  let sum (g : Nat → Int) : Int := g 0 + g 1 + g 2 + g 3
  let t : Int := rdInt sgn 32 c + sum fun j => rdInt sgn 8 (byte a j) * rdInt sgn 8 (byte b j)
  let v := ofSigned 32 t
  let sc : Int := if sgn && 2 ^ 31 ≤ c then 1 else 0
  let p := ri c - sc + sum (fun j => (ri (byte a j) - neg (byte a j)) * (ri (byte b j) - neg (byte b j))) -
    mi ((t - v) / 2 ^ 32)
  clampVal sgn 32 sat t { v := v, p := p }

/-- 64 × the value of a DYAD8 byte (R27). -/
def dyad64 (d : Nat) : Int :=
  let term (s c : Nat) : Int := if c = 7 then 0 else (if s = 1 then -1 else 1) * 2 ^ (6 - c)
  term (bitsOf d 7 7) (bitsOf d 6 4) + term (bitsOf d 3 3) (bitsOf d 2 0)

def dymulOp (sat : Bool) (w a d : Nat) : Val :=
  let x := ofSigned 32 (toSigned w a)
  let term (s c : Nat) : Val :=
    if c = 7 then { v := 0, p := 0 }
    else
      let y := shlOp 32 x (6 - c)
      if s = 1 then { v := (2 ^ 32 - y.v) % 2 ^ 32, p := (if y.v = 0 then 0 else 1) - y.p } else y
  let t1 := term (bitsOf d 7 7) (bitsOf d 6 4)
  let t2 := term (bitsOf d 3 3) (bitsOf d 2 0)
  let s := addId 32 t1.v t2.v
  clampVal true 32 sat (toSigned w a * dyad64 d)
    { v := s.v, p := t1.p + t2.p - ((t1.v + t2.v) / 2 ^ 32 : Nat) }

/-- Integer conversion (R174): from a source word or pair of type `src` to type `dst`. -/
def cvtiOp (src dst : Nat) (sat : Bool) (a : Nat) : Val :=
  let ws := tyW src
  let n := tyW dst
  let x := rdInt (tySigned src) ws a
  let form := if ws = 64 then a else regForm src 32 a
  let hs := form / 2 ^ n
  clampVal (tySigned dst) n sat x { v := ofSigned n x, p := ri form - ri hs }

/-! ## The checker and its retry (R176, R177, R181) -/

/-- What one lane comes to: the sources it has read, the value of its result in register form with its width, the check
that the value (as the datapath delivers it) must pass, and a stepped generator state. -/
structure LaneOut where
  srcs : List Src
  v    : Nat := 0
  chk  : Nat → Bool := fun _ => true
  gen  : Option (BitVec 32) := Option.none

/-- A value in register form checked by its prediction (R168). -/
def ofVal (ty n : Nat) (srcs : List Src) (x : Val) : LaneOut :=
  let v := regForm ty n x.v
  { srcs := srcs, v := v, chk := fun y => (y % 15 : Nat) == (x.p % 15).toNat }

def LaneOut.bad (o : LaneOut) : Bool := o.srcs.any (·.bad)

/-- The lowest WHERE code and register of the checks that fail in a lane, if any (R179). (DEDUCED; log 21) -/
def laneFail (o : LaneOut) (v : Nat) : Option (Nat × Nat) :=
  if !o.bad && !o.chk v then some (0, 0)
  else (o.srcs.filter fun x => !x.ok).foldl (fun m x =>
    let r := (x.wher, if x.wher = 5 || x.wher = 6 then 0 else x.reg)
    match m with
    | none => some r
    | some y => if r.1 < y.1 then some r else some y) none

/-- The failing lanes of a try, and WHERE and REG of the trap. -/
def tryFails (outs : List (Nat × LaneOut)) (flip : Nat → Nat → Nat) : BitVec 64 × Option (Nat × Nat) :=
  outs.foldl (fun acc x => match laneFail x.2 (flip x.1 x.2.v) with
    | none => acc
    | some r =>
      (acc.1 ||| BitVec.ofNat 64 (2 ^ x.1), match acc.2 with
        | none => some r
        | some y => if r.1 < y.1 then some r else some y)) (0, none)

/-- The datapath value of a lane under injection: bit BIT of the word that WORD names is flipped (R181).
(DEDUCED; log 22) -/
def injFlip (inj : BitVec 64) (wide : Bool) (L v : Nat) : Nat :=
  let base := if inj.getLsbD 62 then 32 else 0
  if base ≤ L && L < base + 32 && inj.getLsbD (L - base) then
    v ^^^ 2 ^ (fld inj 52 48 + (if wide && inj.getLsbD 32 then 32 else 0))
  else v

/-- Count a corrected event of the wave: CORRCNT, event 0x0A, a freezing event, the histogram of a lane (R177, R180,
R368, R369, R383). (DEDUCED; log 22) -/
def countCorrected (t : Th) (lanes : List Nat) : Th :=
  let s := t.s.count t.w 0x0A 1
  let s := lanes.foldl (fun s L => s.countHist (histLane (4 * t.w.coreN + t.w.slot / 16) L) 0) s
  let s := s.freezeDies [t.w.die] 1
  let w := { t.w with chkctl := setFld t.w.chkctl 63 32 (satInc 32 (fld t.w.chkctl 63 32)) }
  { t with s := s, w := w }

/-- TINFO of RESIDUE_CHECK (R179). (DEDUCED; log 20) (DEDUCED; log 21) -/
def residueInfo (r : Nat × Nat) : Nat := r.1 + (if r.1 = 0 then 0 else r.2 % 256) * 256

/-- The two tries of an instruction, each with its failing lanes and the trap they report (R177, R179): continue after a
clean first try or after a clean second one. `lane` says whether the trap names lanes (class L). (DEDUCED; log 20) -/
def twoTries (t : Th) (lane : Bool) (f1 f2 : BitVec 64 × Option (Nat × Nat)) (k1 k2 : Th → Res) : Res :=
  match f1.2 with
  | none => k1 t
  | some r1 =>
    match f2.2 with
    | none =>
      let t := countCorrected t (if lane then lanesOf f1.1 else [])
      if t.w.chkctl.getLsbD 0 then
        .trap t { cause := cResidue, corr := true, lanes := if lane then f1.1 else 0, info := residueInfo r1 }
      else k2 t
    | some r2 =>
      let s := (if lane then lanesOf f2.1 else []).foldl (fun s L =>
        s.countHist (histLane (4 * t.w.coreN + t.w.slot / 16) L) 1) t.s
      .trap { t with s := s }
        { cause := cResidue, lanes := if lane then f2.1 else 0, info := residueInfo r2 }

/-- The loop words of the back edge at the path's address as sources of its instruction (R152, R176); LSAVE closes every
level, so none applies. A transfer there has raised LOOP_RANGE before (R153). -/
def edgeSrcs (t : Th) (op : Nat) : List Src :=
  if op = 0x29 then []
  else (edgeWords t t.w.d).map fun x => { v := x.v.toNat, bad := Machine.bad x, ok := sound x, wher := 6, reg := 0 }

/-- Run the checker over the lanes of an instruction and continue with the values to write (R176, R177, R181). The loop
words of the back edge are sources of every lane; a poisoned one raises POISON_USE before the first try (R152).
(DEDUCED; log 20) -/
def check (t : Th) (op : Nat) (eligible wide lane : Bool) (outs : List (Nat × LaneOut))
    (write : Th → List (Nat × LaneOut) → Res) : Res :=
  let loops := edgeSrcs t op
  if loops.any (·.bad) then .trap t (poisonUse 1 0) else
  let outs := outs.map fun x => (x.1, { x.2 with srcs := x.2.srcs ++ loops })
  let hit := injHits t op eligible
  let inj := t.w.inj
  let t := if hit then { t with w := { t.w with inj := setBit inj 63 false } } else t
  let flip (L v : Nat) : Nat := if hit then injFlip inj wide L v else v
  twoTries t lane (tryFails outs flip) (tryFails outs fun _ v => v)
    (fun t => write t (outs.map fun x => (x.1, { x.2 with v := flip x.1 x.2.v }))) (fun t => write t outs)

/-- A guard P register that fails its check is a failing source of every lane (R176, R179). (DEDUCED; log 20) -/
def guardSrc (t : Th) (f : Fields) : List Src := if f.gsel.toNat < 16 then [t.srcP f.gsel.toNat 7] else []

/-- A vector instruction that writes V register DST of each executing lane. A generator state is not a destination word:
it steps clean unless the state itself was poisoned (R35, R41). (DEDUCED; log 20) -/
def runVec (t : Th) (f : Fields) (op : Nat) (wide : Bool) (ex : BitVec 64) (lane : Nat → LaneOut) : Res :=
  let outs := (lanesOf ex).map fun L =>
    let o := lane L
    (L, { o with srcs := guardSrc t f ++ o.srcs })
  check t op true wide true outs fun t outs =>
    .done (outs.foldl (fun t x =>
      let t := t.putV f.dst.toNat x.1 wide x.2.bad x.2.v
      match x.2.gen with
      | none => t
      | some g => t.setGen x.1 (mkP (x.2.srcs.any fun q => q.wher == 5 && q.bad) g)) t)

/-- A scalar instruction of opcodes 0x01 to 0x16 that writes S register DST in register form (R128). -/
def runScalar (t : Th) (f : Fields) (op : Nat) (o : LaneOut) : Res :=
  if t.splitWrite f.dst.toNat then .trap t { cause := cSplitWrite, info := f.dst.toNat }
  else check t op true (tyWide f.ty) false [(0, o)] fun t outs =>
    match outs with
    | (_, x) :: _ => .done (t.setS f.dst.toNat (mkP x.bad (BitVec.ofNat 64 x.v)))
    | [] => .done t

/-- A vector instruction that writes the bits of executing lanes of P register DST (R166, R173): one check over the
whole register; the old register is a source, checked as a predicate register is, unless every bit is rewritten.
(DEDUCED; log 21) -/
def runPred (t : Th) (f : Fields) (op : Nat) (ex : BitVec 64) (lane : Nat → List Src × Bool) : Res :=
  if ex = 0 then .done t
  else
    let res := (lanesOf ex).map fun L => (L, lane L)
    let bits := maskOf 64 ((res.filter fun x => x.2.2).map (·.1))
    let old := t.preg f.dst.toNat
    let v := (old.v &&& ~~~ex) ||| bits
    let kept := if ex = 0xFFFFFFFFFFFFFFFF then [] else [t.srcP f.dst.toNat 7]
    let outs := res.map fun x => (x.1, ({ srcs := guardSrc t f ++ x.2.1 ++ kept } : LaneOut))
    let poison := outs.any fun x => x.2.bad
    check t op false false true outs fun t _ => .done (t.setP f.dst.toNat (mkP poison v))

/-- An instruction whose lanes combine into one S or B word (R216): `sreg` names a destination S register. -/
def runOnce (t : Th) (f : Fields) (op : Nat) (ex : BitVec 64) (sreg : Option Nat) (srcs : Nat → List Src)
    (write : Th → Bool → Res) : Res :=
  if ex = 0 then .done t
  else match sreg with
  | some n => if t.splitWrite n then .trap t { cause := cSplitWrite, info := n } else go
  | none => go
where
  go : Res :=
    let outs := (lanesOf ex).map fun L => (L, ({ srcs := guardSrc t f ++ srcs L } : LaneOut))
    check t op false false true outs fun t outs => write t (outs.any fun x => x.2.bad)

end Sys2Proof.Machine
end

