-- ==== Sys2Proof/Machine/Float.lean ====
section
/-!
DEFINITION. Floating-point values, exact arithmetic, and the one rounding to every format (R22 to R36, R185, R187 to
R197).
-/
namespace Sys2Proof.Machine

/-- Exponent bits, fraction bits and bias of a floating type (R23, R26). -/
def fpShape (ty : Nat) : Nat × Nat × Int :=
  match ty with
  | 9 => (5, 10, 15)
  | 10 => (8, 7, 127)
  | 11 => (8, 23, 127)
  | 12 => (11, 52, 1023)
  | 13 => (4, 3, 7)
  | _ => (5, 2, 15)

def isFp (ty : Nat) : Bool := 9 ≤ ty && ty ≤ 14

/-- The canonical NaN (R25), and what a NaN gives in DYAD8 (R197). -/
def canonNan (ty : Nat) : Nat :=
  match ty with
  | 9 => 0x7E00
  | 10 => 0x7FC0
  | 11 => 0x7FC00000
  | 12 => 0x7FF8000000000000
  | 13 => 0x7F
  | 14 => 0x7E
  | _ => 0x77

/-- An integer as an exact value times 2^e. -/
def ofInt (x : Int) (e : Int) : FV := .fin (x < 0) x.natAbs e false

/-- The value of a pattern of any type but .b32 (R22, R23, R26, R27). -/
def decodeF (ty pat : Nat) : FV :=
  if isFp ty then
    let (eb, fb, bias) := fpShape ty
    let s := bitsOf pat (eb + fb) (eb + fb) == 1
    let e := pat / 2 ^ fb % 2 ^ eb
    let f := pat % 2 ^ fb
    let top := 2 ^ eb - 1
    if ty = 13 && e = top && f = 7 then .nan
    else if ty != 13 && e = top then (if f = 0 then .inf s else .nan)
    else if e = 0 then .fin s f (1 - bias - fb) false
    else .fin s (f + 2 ^ fb) (e - bias - fb) false
  else if ty = 15 then ofInt (dyad64 (pat % 256)) (-6)
  else ofInt (rdInt (tySigned ty) (tyW ty) (pat % 2 ^ tyW ty)) 0

/-- The exponent of the lowest bit position of a source pattern (R185). -/
def lowPlace (ty pat : Nat) : Int :=
  if isFp ty then
    let (eb, fb, bias) := fpShape ty
    max ((pat / 2 ^ fb % 2 ^ eb : Nat) : Int) 1 - bias - fb
  else if ty = 15 then -6
  else 0

/-! ## Rounding (R30 to R32, R36, R185) -/

/-- How to round: mode, saturation, stepped generator state, and the lowest bit position of the source where it fixes the
number of discarded bits (R185). -/
structure Rounding where
  rm  : Nat
  sat : Bool
  st  : Nat
  low : Option Int := none
deriving DecidableEq, Repr

/-- A magnitude m × 2^e taken to a count of units 2^q. -/
def roundMag (r : Rounding) (neg : Bool) (m : Nat) (e q : Int) (more : Bool) : Nat :=
  let sh := (q - e).toNat
  let n := m * 2 ^ (e - q).toNat / 2 ^ sh
  let rem := m * 2 ^ (e - q).toNat % 2 ^ sh
  if rem = 0 && !more then n
  else
    let above : Bool := 2 ^ sh < 2 * rem || (2 * rem == 2 ^ sh && more)
    let tie : Bool := 2 * rem == 2 ^ sh && !more
    let carry : Bool :=
      let k := match r.low with | none => 33 | some l => (q - l).toNat
      if k ≤ 32 then 2 ^ k ≤ rem * 2 ^ k / 2 ^ sh + r.st % 2 ^ k else 2 ^ 32 ≤ rem * 2 ^ 32 / 2 ^ sh + r.st
    let up : Bool := match r.rm with
      | 0 => above || (tie && n % 2 == 1)
      | 2 => !neg
      | 3 => neg
      | 4 => above || tie
      | 5 => carry
      | 6 => n % 2 == 0
      | _ => false
    if up then n + 1 else n

/-- The largest finite value of a floating type, as units and exponent. -/
def maxFinite (ty : Nat) : Nat × Int :=
  let (eb, fb, bias) := fpShape ty
  if ty = 13 then (14, 5) else (2 ^ (fb + 1) - 1, 2 ^ eb - 2 - bias - fb)

/-- The pattern of n × 2^q, n at most 2^(fb + 1), in a floating type. -/
def packF (ty : Nat) (neg : Bool) (n : Nat) (q : Int) : Nat :=
  let (eb, fb, bias) := fpShape ty
  let s := if neg then 2 ^ (eb + fb) else 0
  let (n, q) := if 2 ^ (fb + 1) ≤ n then (n / 2, q + 1) else (n, q)
  if 2 ^ fb ≤ n then s + (q + fb + bias).toNat * 2 ^ fb + n % 2 ^ fb else s + n

/-- Round to a floating type. -/
def roundFp (ty : Nat) (r : Rounding) (x : FV) : Nat :=
  let (eb, fb, bias) := fpShape ty
  let (mn, mq) := maxFinite ty
  let big (neg toInf : Bool) : Nat :=
    if toInf then (if ty = 13 then 0x7F else (if neg then 2 ^ (eb + fb) else 0) + (2 ^ eb - 1) * 2 ^ fb)
    else packF ty neg mn mq
  match x with
  | .nan => canonNan ty
  | .inf neg => big neg (!r.sat)
  | .fin neg m e more =>
    if m = 0 && !more then packF ty neg 0 0
    else
      let q := max (e + Nat.log2 m) (1 - bias) - fb
      let n := roundMag r neg m e q more
      if mn * 2 ^ (mq - q).toNat < n * 2 ^ (q - mq).toNat then
        big neg (!r.sat && (r.rm == 0 || r.rm == 4 || r.rm == 5 || (r.rm == 2 && !neg) || (r.rm == 3 && neg)))
      else packF ty neg n q

/-- Round to an integer of `w` bits (R32). -/
def roundIntW (w : Nat) (sgn : Bool) (r : Rounding) (x : FV) : Nat :=
  let none' := if r.sat then 0 else if sgn then 2 ^ (w - 1) else 2 ^ w - 1
  let clamp (x : Int) : Nat :=
    if x < tyLo sgn w then (if r.sat then ofSigned w (tyLo sgn w) else none')
    else if tyHi sgn w < x then (if r.sat then ofSigned w (tyHi sgn w) else none')
    else ofSigned w x
  match x with
  | .nan => none'
  | .inf neg => clamp (if neg then tyLo sgn w - 1 else tyHi sgn w + 1)
  | .fin neg m e more =>
    let n := roundMag r neg m e 0 more
    clamp (if neg then -(n : Int) else n)

/-- Round to an integer type: pattern of its width (R32). -/
def roundInt (ty : Nat) (r : Rounding) (x : FV) : Nat := roundIntW (tyW ty) (tySigned ty) r x

/-- A value times 2^k. -/
def FV.scale (k : Int) : FV → FV
  | .fin s m e more => .fin s m (e + k) more
  | x => x

/-! ### DYAD8 (R27, R28, R197) -/

/-- DYAD8 bytes in the order in which R28 prefers them: zero, one term, two terms of equal signs, two of unequal. -/
def dyBytes : List Nat :=
  let ss := [0, 1]
  let cs := List.range 7
  0x77 :: (ss.flatMap fun s => cs.map fun c => 128 * s + 16 * c + 7) ++
    (ss.flatMap fun s => cs.flatMap fun c => cs.filterMap fun d => if c ≤ d then some (136 * s + 16 * c + d) else none) ++
    (ss.flatMap fun s => cs.flatMap fun c => cs.filterMap fun d =>
      if c ≤ d then some (128 * s + 16 * c + 8 * (1 - s) + d) else none)

/-- The canonical byte of a value × 64 (R28). -/
def dyCanon (v : Int) : Nat := (dyBytes.find? fun b => dyad64 b == v).getD 0x77

/-- The magnitudes × 64 of the DYAD8 values, rising. -/
def dyMags : List Nat := (List.range 129).filter fun n => dyBytes.any fun b => dyad64 b == n

/-- Trailing zero bits of a number below 256. -/
def tz8 (n : Nat) : Nat := ((List.range 8).find? fun i => n.testBit i).getD 8

/-- Round to DYAD8 (R197). (DEDUCED; log 36) -/
def roundDy (r : Rounding) (x : FV) : Nat :=
  match x with
  | .nan => 0x77
  | .inf neg => if neg then 0x88 else 0
  | .fin neg m e more =>
    -- magnitude a / c in units of 1/64
    let a := m * 2 ^ (e + 6).toNat
    let c := 2 ^ (-(e + 6)).toNat
    if 128 * c ≤ a then (if neg then 0x88 else 0)
    else
      let lo := (dyMags.filter fun n => n * c ≤ a).getLastD 0
      let hi := (dyMags.find? fun n => a < n * c).getD 128
      let up : Bool :=
        let d := a - lo * c
        let span := (hi - lo) * c
        match r.rm with
        | 0 => span < 2 * d || (2 * d == span && (more || tz8 lo < tz8 hi))
        | 2 => !neg
        | 3 => neg
        | 4 => span ≤ 2 * d
        | 5 => 2 ^ 32 ≤ d * 2 ^ 32 / span + r.st
        | _ => false
      let n := if lo * c = a && !more then lo else if up then hi else lo
      dyCanon (if neg then -(n : Int) else n)

/-- Round to any type: the pattern of its width. -/
def roundTo (ty : Nat) (r : Rounding) (x : FV) : Nat :=
  if isFp ty then roundFp ty r x else if ty = 15 then roundDy r x else roundInt ty r x

/-! ## Exact arithmetic (R24, R186, R187, R194) -/

def FV.neg : FV → FV
  | .nan => .nan
  | .inf s => .inf (!s)
  | .fin s m e k => .fin (!s) m e k

/-- The exact sum; a zero sum of nonzero or unlike terms is +0, or −0 when rounding toward −∞. -/
def FV.add (down : Bool) : FV → FV → FV
  | .nan, _ => .nan
  | _, .nan => .nan
  | .inf s, .inf t => if s = t then .inf s else .nan
  | .inf s, _ => .inf s
  | _, .inf t => .inf t
  | .fin s m e _, .fin t n g _ =>
    let q := min e g
    let a : Int := m * 2 ^ (e - q).toNat
    let b : Int := n * 2 ^ (g - q).toNat
    let v := (if s then -a else a) + (if t then -b else b)
    if v = 0 then .fin (if m = 0 && n = 0 && s == t then s else down) 0 0 false
    else .fin (v < 0) v.natAbs q false

/-- The exact product; 0 × ∞ is invalid. -/
def FV.mul : FV → FV → FV
  | .nan, _ => .nan
  | _, .nan => .nan
  | .inf s, .inf t => .inf (s != t)
  | .inf s, .fin t n _ _ => if n = 0 then .nan else .inf (s != t)
  | .fin s m _ _, .inf t => if m = 0 then .nan else .inf (s != t)
  | .fin s m e _, .fin t n g _ => .fin (s != t) (m * n) (e + g) false

/-- The order of two values that are not NaN, −0 equal to +0: none when either is NaN. -/
def FV.cmp : FV → FV → Option Ordering
  | .nan, _ => none
  | _, .nan => none
  | .inf s, .inf t => some (if s = t then .eq else if s then .lt else .gt)
  | .inf s, _ => some (if s then .lt else .gt)
  | _, .inf t => some (if t then .gt else .lt)
  | .fin s m e _, .fin t n g _ =>
    let q := min e g
    let a : Int := m * 2 ^ (e - q).toNat
    let b : Int := n * 2 ^ (g - q).toNat
    some (compare (if s then -a else a) (if t then -b else b))

/-- The sign of a value, that of a zero included. -/
def FV.sign : FV → Bool
  | .nan => false
  | .inf s => s
  | .fin s _ _ _ => s

/-! ## Reciprocal, reciprocal root, exponential and logarithm (R188)

Each gives its result truncated far below every bit that rounding looks at, with `more` when it is not exact. -/

def FV.recip : FV → FV
  | .nan => .nan
  | .inf s => .fin s 0 0 false
  | .fin s m e _ =>
    if m = 0 then .inf s
    else
      let k := Nat.log2 m + 97
      .fin s (2 ^ k / m) (-(k : Int) - e) (2 ^ k % m != 0)

/-- Integer square root by bits: the largest r with r² ≤ x, r below 2^n. -/
def isqrt (x : Nat) : Nat → Nat → Nat
  | 0, r => r
  | n + 1, r =>
    let c := r + 2 ^ n
    isqrt x n (if c * c ≤ x then c else r)

def FV.rsqrt : FV → FV
  | .nan => .nan
  | .inf s => if s then .nan else .fin false 0 0 false
  | .fin s m e _ =>
    if m = 0 then .inf s
    else if s then .nan
    else
      let (m, e) := if e % 2 = 0 then (m, e) else (2 * m, e - 1)
      let k := Nat.log2 m / 2 + 98
      let x := 2 ^ (2 * k) / m
      let r := isqrt x (Nat.log2 x / 2 + 1) 0
      .fin false r (-(k : Int) - e / 2) (r * r * m != 2 ^ (2 * k))

/-- ln 2 × 2^384, truncated. (UNVERIFIED; log 37) -/
def ln2 : Nat :=
  0xb17217f7d1cf79abc9e3b39803f2f6af40f343267298b62d8a0d175b8baafa2be7b876206debac98559552fb4afa1b10

/-- The terms of Σ y^i / i! from term `t` (the i-th) on, for y = x / 2^384. (UNVERIFIED; log 37) -/
def expSum (x : Nat) : Nat → Nat → Nat → Nat
  | 0, _, _ => 0
  | n + 1, i, t => t + expSum x n (i + 1) (t * x / 2 ^ 384 / (i + 1))

/-- 2^a (R188): far outside every format, a value that overflows or underflows all of them. (UNVERIFIED; log 37) -/
def FV.exp2 : FV → FV
  | .nan => .nan
  | .inf s => if s then .fin false 0 0 false else .inf false
  | .fin s m e _ =>
    if m = 0 then .fin false 1 0 false
    else if 12 < e + Nat.log2 m then .fin false 1 (if s then -4096 else 4096) true
    else
      -- a = i + f / 2^k, 0 ≤ f < 2^k
      let k := (-e).toNat
      let a : Int := (if s then -(m : Int) else m) * 2 ^ e.toNat
      let i := a / 2 ^ k
      let f := (a % 2 ^ k).toNat
      if f = 0 then .fin false 1 i false
      else .fin false (expSum (f * ln2 / 2 ^ k) 96 0 (2 ^ 384)) (i - 384) true

/-- The first `n` fraction bits of log2 x, for x = y / 2^384 in [1, 2), above the bits in `acc`. (UNVERIFIED; log 37) -/
def log2Bits : Nat → Nat → Nat → Nat
  | 0, _, acc => acc
  | n + 1, y, acc =>
    let z := y * y / 2 ^ 384
    if 2 ^ 385 ≤ z then log2Bits n (z / 2) (2 * acc + 1) else log2Bits n z (2 * acc)

/-- log2 a (R188). (UNVERIFIED; log 37) -/
def FV.log2 : FV → FV
  | .nan => .nan
  | .inf s => if s then .nan else .inf false
  | .fin s m e _ =>
    if m = 0 then .inf true
    else if s then .nan
    else
      let g := Nat.log2 m
      let i := e + g
      if m = 2 ^ g then .fin (i < 0) i.natAbs 0 false
      else
        let l := log2Bits 160 (m * 2 ^ 384 / 2 ^ g) 0
        if 0 ≤ i then .fin false (i.toNat * 2 ^ 160 + l) (-160) true
        else .fin true (i.natAbs * 2 ^ 160 - l - 1) (-160) true

/-- One step of the generator (R33). -/
def genStep (x : BitVec 32) : BitVec 32 :=
  let x := x ^^^ (x <<< 13)
  let x := x ^^^ (x >>> 17)
  x ^^^ (x <<< 5)

end Sys2Proof.Machine
end

