-- ==== Sys2Proof/WellFormed.lean ====
section
/-!
DEFINITION. Well-formed instructions: no field offends under the largest allotment an object can declare (R120, R62).
-/
namespace Sys2Proof

/-- Every field of the instruction is legal, and a word without an instruction has no instruction's opcode (R119). -/
def Instr.WellFormed (i : Instr) : Prop :=
  Machine.fieldErr Machine.limMax i = none

end Sys2Proof
end

