-- ==== Sys2Proof/Decode.lean ====
section
/-!
DEFINITION. Decoding of the 12 bytes of an instruction slot, total on any bytes, and the encoder written from the same
layout (R105, R118, R119).
-/
namespace Sys2Proof

/-! ## Fields of a word (R105) -/

/-- The major opcode of a word. -/
def opAt (w : BitVec 96) : BitVec 8 := w.extractLsb' 0 8

/-- The fields of a word, every bit of it but the opcode. -/
def fieldsAt (w : BitVec 96) : Fields :=
  { sub := w.extractLsb' 8 4, gsel := w.extractLsb' 12 5, gneg := w.getLsbD 17, hold := w.extractLsb' 18 2,
    dst := w.extractLsb' 20 8, sa := w.extractLsb' 28 8, sb := w.extractLsb' 36 8, sc := w.extractLsb' 44 8,
    ty := w.extractLsb' 52 5, rm := w.extractLsb' 57 3, sat := w.getLsbD 60, immf := w.getLsbD 61,
    scls := w.extractLsb' 62 2, hi := w.extractLsb' 64 32 }

/-- The word with the given opcode and fields. -/
def packWord (op : BitVec 8) (f : Fields) : BitVec 96 :=
  f.hi ++ f.scls ++ BitVec.ofBool f.immf ++ BitVec.ofBool f.sat ++ f.rm ++ f.ty ++ f.sc ++ f.sb ++ f.sa ++ f.dst ++
    f.hold ++ BitVec.ofBool f.gneg ++ f.gsel ++ f.sub ++ op

/-! ## Opcodes (R118) -/

/-- The instruction of an opcode with its fields; none where the opcode is no instruction (R119). Where one opcode
holds several rows of the table, SUB or NUM selects, and a value that selects none counts as the first row's, which
refuses it. -/
def opInstr (op : Nat) (f : Fields) : Option Instr :=
  match op with
  | 0x00 => some (.nop f)
  | 0x01 => some (.sadd f)
  | 0x02 => some (.ssub f)
  | 0x03 => some (.smul f)
  | 0x04 => some (.smulh f)
  | 0x05 => some (.sdiv f)
  | 0x06 => some (.srem f)
  | 0x07 => some (.sand f)
  | 0x08 => some (.sor f)
  | 0x09 => some (.sxor f)
  | 0x0A => some (.sshl f)
  | 0x0B => some (.sshr f)
  | 0x0C => some (.ssra f)
  | 0x0D => some (.smin f)
  | 0x0E => some (.smax f)
  | 0x0F => some (.smov f)
  | 0x10 => some (.ssel f)
  | 0x11 => some (.scmp f)
  | 0x12 => some (.slea f)
  | 0x13 => some (.sclz f)
  | 0x14 => some (.spopc f)
  | 0x15 => some (.sbfx f)
  | 0x16 => some (.sbfi f)
  | 0x17 => some (.sread f)
  | 0x18 => some (.swrite f)
  | 0x19 => some (.blop f)
  | 0x20 => some (.bra f)
  | 0x21 => some (.brx f)
  | 0x22 => some (.call f)
  | 0x23 => some (.callx f)
  | 0x24 => some (.ret f)
  | 0x25 => some (.brv f)
  | 0x26 => some (.rcv f)
  | 0x27 => some (.loop f)
  | 0x28 => some (.lbrk f)
  | 0x29 => some (.lsave f)
  | 0x2A => some (.lrest f)
  | 0x2B => some (.exit f)
  | 0x2C => some (.yield f)
  | 0x2D => some (.sleep f)
  | 0x30 => some (.trap f)
  | 0x31 => match (f.hi.extractLsb' 0 1).toNat with | 1 => some (.tretSkip f) | _ => some (.tretRetry f)
  | 0x32 => some (.fence f)
  | 0x33 => some (.fenceq f)
  | 0x34 => some (.fencei f)
  | 0x35 => some (.setpri f)
  | 0x36 => some (.gensync f)
  | 0x37 => some (.csrd f)
  | 0x38 => some (.cswr f)
  | 0x39 => some (.tlbinv f)
  | 0x3A => some (.probe f)
  | 0x40 => some (.vadd f)
  | 0x41 => some (.vsub f)
  | 0x42 => some (.vmul f)
  | 0x43 => some (.vmulh f)
  | 0x44 => some (.vmad f)
  | 0x45 => some (.vand f)
  | 0x46 => some (.vor f)
  | 0x47 => some (.vxor f)
  | 0x48 => some (.vandn f)
  | 0x49 => some (.vshl f)
  | 0x4A => some (.vshr f)
  | 0x4B => some (.vsra f)
  | 0x4C => some (.vmin f)
  | 0x4D => some (.vmax f)
  | 0x4E => some (.vabs f)
  | 0x4F => some (.vneg f)
  | 0x50 => some (.vcmp f)
  | 0x51 => some (.vsel f)
  | 0x52 => some (.vmov f)
  | 0x53 => some (.vpopc f)
  | 0x54 => some (.vclz f)
  | 0x55 => some (.vbfx f)
  | 0x56 => some (.vbfi f)
  | 0x57 => some (.vadds f)
  | 0x58 => some (.vdot4 f)
  | 0x59 => some (.viota f)
  | 0x5A => some (.vres f)
  | 0x5B => some (.plop f)
  | 0x5C => some (.pmov f)
  | 0x5D => some (.vcvti f)
  | 0x5E => some (.vdymul f)
  | 0x70 => some (.vfadd f)
  | 0x71 => some (.vfsub f)
  | 0x72 => some (.vfmul f)
  | 0x73 => some (.vfma f)
  | 0x74 => some (.vfmin f)
  | 0x75 => some (.vfmax f)
  | 0x76 => some (.vfcmp f)
  | 0x77 => some (.vfsgn f)
  | 0x78 => some (.vfrcp f)
  | 0x79 => some (.vfrsq f)
  | 0x7A => some (.vfex2 f)
  | 0x7B => some (.vflg2 f)
  | 0x7C => some (.vfcls f)
  | 0x7D => some (.vfrnd f)
  | 0x7E => some (.vcvt f)
  | 0x7F => some (.vseed f)
  | 0x80 => some (.vfdot2 f)
  | 0x81 => some (.vpack f)
  | 0x82 => some (.vunpk f)
  | 0x83 => some (.vqscl f)
  | 0x90 => some (.vshfl f)
  | 0x91 => some (.vlrot f)
  | 0x92 => some (.vreadl f)
  | 0x93 => some (.vvote f)
  | 0x94 => some (.vscan f)
  | 0x95 => some (.vred f)
  | 0x96 => some (.regroup f)
  | 0x97 => some (.vcprs f)
  | 0x98 => some (.setexm f)
  | 0x99 => some (.getexm f)
  | 0x9A => some (.pathinfo f)
  | 0xA0 => some (.vld f)
  | 0xA1 => some (.vst f)
  | 0xA2 => some (.vlds f)
  | 0xA3 => some (.vsts f)
  | 0xA4 => some (.sld f)
  | 0xA5 => some (.sst f)
  | 0xA6 => some (.vatom f)
  | 0xA7 => some (.satom f)
  | 0xA8 => some (.vprf f)
  | 0xA9 => some (.ldq f)
  | 0xAA => some (.stq f)
  | 0xAB => some (.setq f)
  | 0xAC => some (.getq f)
  | 0xAD => match f.sub.toNat with | 1 => some (.cmaintInv f) | 2 => some (.cmaintWbinv f) | 3 => some (.cmaintZero f) | _ => some (.cmaintWb f)
  | 0xAE => some (.vldf f)
  | 0xC0 => some (.xcopy f)
  | 0xC1 => some (.xgath f)
  | 0xC2 => some (.xscat f)
  | 0xC3 => some (.xform f)
  | 0xC4 => some (.xfill f)
  | 0xC5 => some (.xcoll f)
  | 0xC6 => some (.chbind f)
  | 0xC7 => some (.chput f)
  | 0xC8 => some (.chtake f)
  | 0xC9 => match f.sub.toNat with | 1 => some (.chwaitRoom f) | _ => some (.chwaitData f)
  | 0xCA => some (.xstat f)
  | 0xD0 => some (.mma f)
  | 0xD1 => some (.mzero f)
  | 0xD2 => some (.mdrain f)
  | 0xD3 => some (.mload f)
  | 0xD4 => some (.mtoken f)
  | 0xD5 => match f.sub.toNat with | 1 => some (.mstatCnt f) | _ => some (.mstatTile f)
  | 0xE0 => some (.binit f)
  | 0xE1 => some (.barrive f)
  | 0xE2 => some (.bwait f)
  | 0xE3 => some (.btest f)
  | 0xE4 => match f.sub.toNat with | 1 => some (.cbarArrive f) | 2 => some (.cbarRec f) | _ => some (.cbarSync f)
  | 0xE5 => some (.contend f)
  | 0xE6 => match f.sub.toNat with | 1 => some (.cresultTest f) | _ => some (.cresultWait f)
  | 0xE7 => some (.cwithdraw f)
  | 0xE8 => some (.mark f)
  | 0xE9 => some (.brkpt f)
  | 0xEA => match f.sub.toNat with | 1 => some (.rplbeginCmp f) | _ => some (.rplbeginRec f)
  | 0xEB => some (.rplend f)
  | 0xEC => some (.snap f)
  | _ => none

/-- The opcode and fields of a word instruction; none for an event or a word without an instruction. -/
def wordOf : Instr → Option (BitVec 8 × Fields)
  | .nop f => some (0x00, f)
  | .sadd f => some (0x01, f)
  | .ssub f => some (0x02, f)
  | .smul f => some (0x03, f)
  | .smulh f => some (0x04, f)
  | .sdiv f => some (0x05, f)
  | .srem f => some (0x06, f)
  | .sand f => some (0x07, f)
  | .sor f => some (0x08, f)
  | .sxor f => some (0x09, f)
  | .sshl f => some (0x0A, f)
  | .sshr f => some (0x0B, f)
  | .ssra f => some (0x0C, f)
  | .smin f => some (0x0D, f)
  | .smax f => some (0x0E, f)
  | .smov f => some (0x0F, f)
  | .ssel f => some (0x10, f)
  | .scmp f => some (0x11, f)
  | .slea f => some (0x12, f)
  | .sclz f => some (0x13, f)
  | .spopc f => some (0x14, f)
  | .sbfx f => some (0x15, f)
  | .sbfi f => some (0x16, f)
  | .sread f => some (0x17, f)
  | .swrite f => some (0x18, f)
  | .blop f => some (0x19, f)
  | .bra f => some (0x20, f)
  | .brx f => some (0x21, f)
  | .call f => some (0x22, f)
  | .callx f => some (0x23, f)
  | .ret f => some (0x24, f)
  | .brv f => some (0x25, f)
  | .rcv f => some (0x26, f)
  | .loop f => some (0x27, f)
  | .lbrk f => some (0x28, f)
  | .lsave f => some (0x29, f)
  | .lrest f => some (0x2A, f)
  | .exit f => some (0x2B, f)
  | .yield f => some (0x2C, f)
  | .sleep f => some (0x2D, f)
  | .trap f => some (0x30, f)
  | .tretRetry f => some (0x31, f)
  | .tretSkip f => some (0x31, f)
  | .fence f => some (0x32, f)
  | .fenceq f => some (0x33, f)
  | .fencei f => some (0x34, f)
  | .setpri f => some (0x35, f)
  | .gensync f => some (0x36, f)
  | .csrd f => some (0x37, f)
  | .cswr f => some (0x38, f)
  | .tlbinv f => some (0x39, f)
  | .probe f => some (0x3A, f)
  | .vadd f => some (0x40, f)
  | .vsub f => some (0x41, f)
  | .vmul f => some (0x42, f)
  | .vmulh f => some (0x43, f)
  | .vmad f => some (0x44, f)
  | .vand f => some (0x45, f)
  | .vor f => some (0x46, f)
  | .vxor f => some (0x47, f)
  | .vandn f => some (0x48, f)
  | .vshl f => some (0x49, f)
  | .vshr f => some (0x4A, f)
  | .vsra f => some (0x4B, f)
  | .vmin f => some (0x4C, f)
  | .vmax f => some (0x4D, f)
  | .vabs f => some (0x4E, f)
  | .vneg f => some (0x4F, f)
  | .vcmp f => some (0x50, f)
  | .vsel f => some (0x51, f)
  | .vmov f => some (0x52, f)
  | .vpopc f => some (0x53, f)
  | .vclz f => some (0x54, f)
  | .vbfx f => some (0x55, f)
  | .vbfi f => some (0x56, f)
  | .vadds f => some (0x57, f)
  | .vdot4 f => some (0x58, f)
  | .viota f => some (0x59, f)
  | .vres f => some (0x5A, f)
  | .plop f => some (0x5B, f)
  | .pmov f => some (0x5C, f)
  | .vcvti f => some (0x5D, f)
  | .vdymul f => some (0x5E, f)
  | .vfadd f => some (0x70, f)
  | .vfsub f => some (0x71, f)
  | .vfmul f => some (0x72, f)
  | .vfma f => some (0x73, f)
  | .vfmin f => some (0x74, f)
  | .vfmax f => some (0x75, f)
  | .vfcmp f => some (0x76, f)
  | .vfsgn f => some (0x77, f)
  | .vfrcp f => some (0x78, f)
  | .vfrsq f => some (0x79, f)
  | .vfex2 f => some (0x7A, f)
  | .vflg2 f => some (0x7B, f)
  | .vfcls f => some (0x7C, f)
  | .vfrnd f => some (0x7D, f)
  | .vcvt f => some (0x7E, f)
  | .vseed f => some (0x7F, f)
  | .vfdot2 f => some (0x80, f)
  | .vpack f => some (0x81, f)
  | .vunpk f => some (0x82, f)
  | .vqscl f => some (0x83, f)
  | .vshfl f => some (0x90, f)
  | .vlrot f => some (0x91, f)
  | .vreadl f => some (0x92, f)
  | .vvote f => some (0x93, f)
  | .vscan f => some (0x94, f)
  | .vred f => some (0x95, f)
  | .regroup f => some (0x96, f)
  | .vcprs f => some (0x97, f)
  | .setexm f => some (0x98, f)
  | .getexm f => some (0x99, f)
  | .pathinfo f => some (0x9A, f)
  | .vld f => some (0xA0, f)
  | .vst f => some (0xA1, f)
  | .vlds f => some (0xA2, f)
  | .vsts f => some (0xA3, f)
  | .sld f => some (0xA4, f)
  | .sst f => some (0xA5, f)
  | .vatom f => some (0xA6, f)
  | .satom f => some (0xA7, f)
  | .vprf f => some (0xA8, f)
  | .ldq f => some (0xA9, f)
  | .stq f => some (0xAA, f)
  | .setq f => some (0xAB, f)
  | .getq f => some (0xAC, f)
  | .cmaintWb f => some (0xAD, f)
  | .cmaintInv f => some (0xAD, f)
  | .cmaintWbinv f => some (0xAD, f)
  | .cmaintZero f => some (0xAD, f)
  | .vldf f => some (0xAE, f)
  | .xcopy f => some (0xC0, f)
  | .xgath f => some (0xC1, f)
  | .xscat f => some (0xC2, f)
  | .xform f => some (0xC3, f)
  | .xfill f => some (0xC4, f)
  | .xcoll f => some (0xC5, f)
  | .chbind f => some (0xC6, f)
  | .chput f => some (0xC7, f)
  | .chtake f => some (0xC8, f)
  | .chwaitData f => some (0xC9, f)
  | .chwaitRoom f => some (0xC9, f)
  | .xstat f => some (0xCA, f)
  | .mma f => some (0xD0, f)
  | .mzero f => some (0xD1, f)
  | .mdrain f => some (0xD2, f)
  | .mload f => some (0xD3, f)
  | .mtoken f => some (0xD4, f)
  | .mstatTile f => some (0xD5, f)
  | .mstatCnt f => some (0xD5, f)
  | .binit f => some (0xE0, f)
  | .barrive f => some (0xE1, f)
  | .bwait f => some (0xE2, f)
  | .btest f => some (0xE3, f)
  | .cbarSync f => some (0xE4, f)
  | .cbarArrive f => some (0xE4, f)
  | .cbarRec f => some (0xE4, f)
  | .contend f => some (0xE5, f)
  | .cresultWait f => some (0xE6, f)
  | .cresultTest f => some (0xE6, f)
  | .cwithdraw f => some (0xE7, f)
  | .mark f => some (0xE8, f)
  | .brkpt f => some (0xE9, f)
  | .rplbeginRec f => some (0xEA, f)
  | .rplbeginCmp f => some (0xEA, f)
  | .rplend f => some (0xEB, f)
  | .snap f => some (0xEC, f)
  | .illegalOp _ => none
  | .regroupExchange _ => none
  | .chwaitWake _ _ => none
  | .bwaitWake _ _ => none
  | .promiseMiss _ _ => none
  | .cbarWake _ _ => none
  | .cresultWake _ _ => none
  | .ibpHit _ _ _ => none
  | .rplbeginGathered _ => none
  | .rplendGathered _ => none
  | .sleepDeadline _ _ => none
  | .mtokenReady _ _ => none
  | .quadIssueCycle _ => none
  | .pathPromote _ _ => none
  | .lineFetchComplete _ _ => none
  | .pageRequestDeferred _ => none
  | .prgResponseSuccess _ _ => none
  | .prgResponseInvalid _ _ => none
  | .prgResponseFailure _ _ => none
  | .atsInvalidate _ _ _ => none
  | .engineOpRun _ => none
  | .engineFiring _ => none
  | .engineWriteCounted _ => none
  | .engineOpEnd _ => none
  | .courierBlockReturn _ _ _ _ => none
  | .matrixPass _ _ => none
  | .kick _ _ _ => none
  | .kickReread _ _ => none
  | .rcmdRegister _ _ => none
  | .rcmdRetire _ _ => none
  | .rcmdInvalid _ _ => none
  | .replayStart _ _ => none
  | .nodeBegin _ _ _ => none
  | .dependenceReread _ => none
  | .consignmentBegin _ => none
  | .caravanHandover _ => none
  | .caravanStart _ => none
  | .caravanHold _ => none
  | .holdPreempt _ => none
  | .consignmentComplete _ => none
  | .purseRefill _ => none
  | .governorStep _ _ _ => none
  | .parklimExpiry _ _ => none
  | .crewRequeuePlace _ => none
  | .waveWatchdogExpiry _ => none
  | .crewWatchdogExpiry _ => none
  | .crewSave _ => none
  | .crewRestore _ => none
  | .precmdContext _ _ => none
  | .precmdConsignment _ _ _ => none
  | .bprel _ _ => none
  | .ctxcmdLoad _ _ => none
  | .ctxcmdRetire _ _ => none
  | .roundOpen _ => none
  | .roundClose _ => none
  | .traceSample _ _ => none
  | .homeWrite _ => none
  | .invalidate _ _ => none
  | .invalidateAck _ _ => none
  | .waystationEvictReport _ _ => none
  | .replicaLock _ _ => none
  | .replicaUpdate _ _ => none
  | .replicaStallTimeout _ _ => none
  | .cachePartialMerge _ _ => none
  | .hbmWrite _ => none
  | .hbmRead _ _ => none
  | .hostWrite _ _ _ _ _ => none
  | .hostRead _ _ _ _ => none
  | .lehrScrub _ _ _ => none
  | .lehrWindow _ => none
  | .lehrack _ _ => none
  | .lehrReencodeGroup _ => none
  | .histogramStore => none
  | .linkFail _ => none
  | .linkRetrainDone _ => none
  | .flitReceive _ _ => none
  | .engineReset _ _ _ => none
  | .linkReset _ _ _ => none
  | .dieReset _ _ _ => none
  | .dieResetComplete _ => none
  | .homeStallTimeout _ _ => none
  | .partitionReset _ _ => none
  | .rstcmdRefused _ _ => none
  | .packageReset _ _ _ => none
  | .fwload _ _ _ => none
  | .histread _ => none
  | .histclear => none
  | .ptctlStop _ => none
  | .ptctlResume _ => none
  | .pwrlimWrite _ _ => none
  | .registerWrite _ _ _ _ => none
  | .waystationFill _ _ => none
  | .acceptDoneReceive _ => none
  | .replicaLockAck _ _ => none
  | .hostLinkCompletion _ => none
  | .hardwarePrefetch _ _ _ => none
  | .powerLoss => none
  | .portTrained _ => none
  | .linkFlitReceive _ _ => none
  | .spdmRequest _ _ => none
  | .mgmtcmdRefused _ => none
  | .dieResetResume _ => none

/-! ## Decoding -/

/-- What a path that issues the word executes: total, with every field as it stands, because a field out of range is
found when the word issues (R120). -/
def decodeRaw (w : BitVec 96) : Instr := (opInstr (opAt w).toNat (fieldsAt w)).getD (.illegalOp w)

/-- Why bytes are no instruction. -/
inductive DecodeError where
  /-- Fewer than 12 bytes. -/
  | truncated
  /-- The field that starts at bit `bit` holds a value the description does not allow (R120). -/
  | illegalField (bit : Nat)
deriving DecidableEq, Repr

/-- The instruction of a word, or why it is refused. -/
def decodeWord (w : BitVec 96) : Except DecodeError Instr :=
  match Machine.fieldErr Machine.limMax (decodeRaw w) with
  | none => .ok (decodeRaw w)
  | some bit => .error (.illegalField bit)

/-- A little-endian number from bytes (R2). -/
def ofBytes : List Byte → Nat
  | [] => 0
  | b :: t => b.toNat + 256 * ofBytes t

/-- The `n` bytes of a number, little endian. -/
def toBytes : Nat → Nat → List Byte
  | 0, _ => []
  | n + 1, x => BitVec.ofNat 8 x :: toBytes n (x / 256)

/-- Decode the first 12 of the bytes; the rest is handed back. -/
def decode (bytes : List Byte) : Except DecodeError (Instr × List Byte) :=
  if bytes.length < 12 then .error .truncated
  else match decodeWord (BitVec.ofNat 96 (ofBytes (bytes.take 12))) with
    | .ok i => .ok (i, bytes.drop 12)
    | .error e => .error e

/-- The word of an instruction: events have none. (DESIGN CHOICE; log 60) -/
def encode : Instr → Option (BitVec 96)
  | .illegalOp w => some w
  | i => (wordOf i).map fun x => packWord x.1 x.2

/-- The 12 bytes of an instruction. -/
def encodeBytes (i : Instr) : Option (List Byte) := (encode i).map fun w => toBytes 12 w.toNat

/-- The instruction that the decoder reads from an instruction whose low `nbits` bits are `w` and whose other bits
are 0. -/
def decodeTableWord (nbits w : Nat) : Option Instr :=
  match decode (toBytes 12 (w % 2 ^ nbits)) with
  | .ok (i, _) => some i
  | .error _ => none

end Sys2Proof
end

