-- ==== Sys2Proof/Machine/Fetch.lean ====
section
/-!
DEFINITION. Instruction fetch: delivering a line to a path, its checks, the target check, and breakpoints (R97 to R104,
R349, R366).
-/
namespace Sys2Proof.Machine

/-- Slot i of a line (R97). -/
def slotOf (d : BitVec 512) (i : Nat) : BitVec 96 := d.extractLsb' (96 * i) 96

/-- The line word (R98). -/
def lineWord (d : BitVec 512) : BitVec 32 := d.extractLsb' 480 32

/-- The mask of slots whose residue differs from IRES (R98, R99). -/
def slotMismatch (d : BitVec 512) : BitVec 5 :=
  maskOf 5 ((List.range 5).filter fun i => fld (lineWord d) (15 + 4 * i) (12 + 4 * i) != (slotOf d i).toNat % 15)

/-- Is the line word malformed: LFMT nonzero or adjacent PAIR bits (R99)? -/
def lineBad (d : BitVec 512) : Bool :=
  let w := lineWord d
  fld w 11 9 != 0 || (List.range 3).any fun j => w.getLsbD (5 + j) && w.getLsbD (6 + j)

/-- What delivering a line to a path comes to. -/
inductive Fetched where
  /-- The line is delivered and has passed its checks. -/
  | ok (t : Th) (d : BitVec 512)
  /-- It parks or traps at the path's instruction. -/
  | merr (t : Th) (e : MErr)
  | trap (t : Th) (x : Trap)
  /-- The read stalls on a home that is being reset (R388). -/
  | stall (t : Th)

/-- A line that core `core` still holds for the context (free value; R104). (DESIGN CHOICE; log 7) -/
def heldLine (s : State) (core pasid : Nat) (line : BitVec 58) : Option (BitVec 512) :=
  match s.ms.ilines.find? fun l => l.core == core && l.pasid == pasid && l.line == line with
  | some l => if Config.keepsLine s.steps then some l.data else none
  | none => none

/-- The core holds a line (R104). -/
def State.holdLine (s : State) (l : ILine) : State :=
  { s with ms := { s.ms with
      ilines := l :: s.ms.ilines.filter fun q => !(q.core == l.core && q.pasid == l.pasid && q.line == l.line) } }

/-- Does a fetched line come from a poisoned sector of HBM, from an SRAM line that is lost, all its words poison, or from a page
whose poison bit is set with a poisoned word in it (R40, R99, R250 step 11)? -/
def lineLost (s : State) (m : MemAt) (x : Xl) (b : Blk) : Bool :=
  s.ms.phys.marks.contains m.blk || (List.range 16).all (fun i => bad (b.word i)) ||
    (x.pbit && (List.range 16).any fun i => bad (b.word i))

/-- The checks 3 and 4 of R99 on a line; `again` is the line refetched past every copy. -/
def checkLine (t : Th) (d again : BitVec 512) : Fetched :=
  let deliver (t : Th) (d : BitVec 512) : Fetched :=
    if lineBad d then .trap t { cause := cIllegalLine }
    else .ok { t with p := { t.p with line := some (t.p.pia.extractLsb' 6 58, d) } } d
  if slotMismatch d = 0 then deliver t d
  else if slotMismatch again = 0 then
    let s := (t.s.count t.w 0x0A 1).freezeDies [t.w.die] 1
    let w := { t.w with chkctl := setFld t.w.chkctl 63 32 (satInc 32 (fld t.w.chkctl 63 32)) }
    deliver { t with s := s, w := w } again
  else .trap t { cause := cFetchCheck, info := (slotMismatch again).toNat }

/-- Deliver the line of the path's address (R99). (DESIGN CHOICE; log 7) -/
def fetchLine (t : Th) : Fetched :=
  let line := t.p.pia.extractLsb' 6 58
  match t.p.line with
  | some (l, d) => if l == line then .ok t d else go t line
  | none => go t line
where
  go (t : Th) (line : BitVec 58) : Fetched :=
    let g := t.agent
    match translate t.s t.w.die t.w.pasid t.p.pia { x := true } t.w.hmode 0 with
    | (s, .error e) =>
      .merr { t with s := s } { cause := e.cause, info := e.info, addr := t.p.pia, served := e.served,
                                pages := [t.p.pia.toNat / 4096], kind := 3 }
    | (s, .ok x) =>
      let m := memAt t.w.die (x.pa / 64 * 64) x.leaf
      let s := s.touch (64 * m.blk)
      let lvl := (53 - x.bits + 8) / 9 - 1
      let b := s.localBlk g.core m
      if s.homeStalls m 0 then .stall { t with s := s }
      else if lineLost s m x b then
        .trap { t with s := s } { cause := cPoisonPage, addr := t.p.pia, info := 1 + 16 * lvl }
      else
        let d := (heldLine s g.core t.w.pasid line).getD b.data
        let s := s.holdLine { core := g.core, pasid := t.w.pasid, line := line, data := d }
        checkLine { t with s := s } d b.data

/-- The target check of R100 on a path that has arrived by a checked transfer. (DEDUCED; log 26) -/
def targetCheck (t : Th) (d : BitVec 512) : Option Trap :=
  match t.p.xfer with
  | none => none
  | some src =>
    let slot := t.p.pia.toNat % 8
    if fld t.p.pia 5 3 != 0 || 5 ≤ slot || !(lineWord d).getLsbD slot then
      some { cause := cIllegalTarget, info := src.toNat }
    else none

/-- A transfer to a line address at or above 2^57 (R102). (DEDUCED; log 26) -/
def targetHigh (t : Th) : Option Trap :=
  match t.p.xfer with
  | some src => if 2 ^ 57 ≤ t.p.pia.toNat then some { cause := cIllegalTarget, info := src.toNat } else none
  | none => none

/-- The breakpoint register that names the path's instruction (R363, R366). -/
def ibpHit (t : Th) : Option Nat :=
  if t.p.ibpSkip then none
  else (List.range 4).find? fun i =>
    let r := t.s.dbgReg t.w.pasid t.w.coreN (0x164 + i)
    r.getLsbD 0 && r.extractLsb' 6 58 == t.p.pia.extractLsb' 6 58 && fld r 5 3 == t.p.pia.toNat % 8

/-- Hold a path, with its wave or its crew as DBGCTL says (R366). (DEDUCED; log 46) -/
def holdPath (t : Th) (ctl : BitVec 64) : State :=
  let hold (p : Path) : Path := { p with held := some (p.held.getD t.s.ptime) }
  let t := { t with p := hold t.p }
  let all (w : Wave) : Wave := { w with paths := w.paths.map hold, spilled := w.spilled.map hold }
  let s := t.commit
  if ctl.getLsbD 2 then { s with waves := s.waves.map fun x => if x.2.crew == t.w.crew then (x.1, all x.2) else x }
  else if ctl.getLsbD 1 then { s with waves := s.waves.map fun x => if x.1 == t.wk then (x.1, all x.2) else x }
  else s

/-- breakpoint(path, n) of R366: none where the instruction goes on. -/
def breakpoint (t : Th) (n : Nat) (ibp : Bool) : Th × Option Res :=
  let t := t.trace 1 n t.p.pia
  let ctl := t.s.dbgReg t.w.pasid t.w.coreN 0x163
  if ctl.getLsbD 0 then
    (t, some (.gone (holdPath { t with p := { t.p with wait := if ibp then .none else .brkpt, ibpSkip := ibp } } ctl)))
  else if !t.w.hmode then
    ({ t with w := { t.w with hsave := if ibp then some (n % 16) else none } },
      some (.trap { t with w := { t.w with hsave := if ibp then some (n % 16) else none } }
        { cause := cBreakpoint, info := n + (if ibp then 65536 else 0) }))
  else (t, none)

/-- What the path selected to issue is about to execute, or the state where it executes nothing (R349 steps 1 to 3). -/
inductive Front where
  | run (s : State) (i : Instr)
  | stop (s : State)

/-- A path for whose merge a refill faulted brings the spilled entries back before it issues (R205). -/
def refilled (t : Th) : State × Except MErr Th :=
  if !t.p.owes then (t.s, .ok t)
  else
    let t := { t with p := { t.p with owes := false } }
    match refill t.s t.wk (t.w.putPath t.p) t.p.eid 8 with
    | (s, .ok w) => (s, .ok { t with s := s, w := w })
    | (s, .error e) => (s, .error e)

/-- Fetch, target check and breakpoint of path `t`. -/
def frontOf (t : Th) : Front :=
  match targetHigh t with
  | some x => .stop (enterTrap t x)
  | none => match fetchLine t with
    | .merr t e => .stop (parkPath t 15 e)
    | .trap t x => .stop (enterTrap t x)
    | .stall t => .stop t.commit
    | .ok t d => match targetCheck t d with
      | some x => .stop (enterTrap t x)
      | none =>
        let t := { t with p := { t.p with xfer := none } }
        let i := decodeRaw (slotOf d (t.p.pia.toNat % 8))
        match ibpHit t with
        | none => .run t.commit i
        | some n => .run t.commit (.ibpHit t.wk t.p.eid n)

/-- What path `t` is about to execute. A path that stands at its reconvergence address, or where an exit entry waits,
arrives or merges there instead (R207). -/
def front (t : Th) : Front :=
  if meets t.w t.p then .stop (settle t)
  else match refilled t with
    | (s, .error e) => .stop (parkOwing { t with s := s } e)
    | (_, .ok t) => frontOf t

end Sys2Proof.Machine
end

