-- ==== Sys2Proof/Machine/Paths.lean ====
section
/-!
DEFINITION. The shared operations of control: checked uses of a scalar source, the return from the handler, splitting,
leaving a loop level, and the end of paths and waves (R60, R137, R138, R144, R160, R161, R203 to R207, R343).
-/
namespace Sys2Proof.Machine

/-- A class-C instruction that is not privileged. -/
def kC : Kind := { cls := .c }

/-- A scalar instruction of opcodes 0x01 to 0x16 (R128, R181). -/
def kS (op : Nat) : Kind := { cls := .c, inj := some op }

/-- A class-L instruction that is not privileged. -/
def kL : Kind := { cls := .l }

/-- A privileged class-C instruction. -/
def kP : Kind := { cls := .c, priv := true }

/-- Check the source words of an instruction that writes no checked result, then continue (R176, R177).
(DEDUCED; log 20) -/
def checked (t : Th) (op : Nat) (srcs : List Src) (k : Th → Res) : Res :=
  check t op false false false [(0, { srcs := srcs })] fun t _ => k t

/-- Use S[n] as an address, count or operand: poison raises POISON_USE with code `use` (R41, R348). (DEDUCED; log 23) -/
def useS (t : Th) (op n use : Nat) (k : Th → BitVec 64 → Res) : Res :=
  if bad (t.sreg n) then .trap t (poisonUse use n)
  else checked t op [t.srcS 64 n 1] fun t => k t (t.sreg n).v

/-! ## Returning from the handler (R144, R164) -/

/-- The path continues at TIA, or after it with the back edges of the instruction there; neither is checked, but a slot
of 5 to 7 enters the handler anew. (DEDUCED; log 25) -/
def leaveTrap (t : Th) (skip : Bool) : State :=
  let tia := normPc t.w.tia
  let here := t.p.pia
  let p := { t.p with pia := tia, xfer := none, line := none, wait := .none, age := 0, yielded := false,
                      ibpSkip := !skip && t.w.hsave.isSome }
  let t' : Th := { t with w := { t.w with hmode := false, hsave := none }, p := p }
  if 5 ≤ tia.toNat % 8 then enterTrap t' { cause := cIllegalTarget, tia := some tia, info := here.toNat }
  else if !skip then settle t'
  else
    let words := edgeWords t' t'.w.d
    if words.any bad then enterTrap t' (poisonUse 1 0)
    else if words.any (fun w => !sound w) then enterTrap t' { cause := cResidue, info := 6 }
    else
      let (t', a) := backEdge t' t'.w.d
      settle (t'.goto a false tia)

/-! ## Crew barriers (R334) -/

def barZero : Barrier := { phase := false, arr := 0, cnt := 0, mask := 0, last := 0, lwid := 0, lwait := 0 }

def Crew.bar (c : Crew) (n : Nat) : Barrier := sget barZero c.bars n

def State.setBar (s : State) (h n : Nat) (b : Barrier) : State :=
  { s with crews := lmod s.crews (fun c => c.h == h) fun c => { c with bars := sset barZero c.bars n b } }

/-- Has every wave of the crew arrived in the phase, or ended? -/
def allIn (s : State) (h : Nat) (b : Barrier) : Bool :=
  s.waves.all fun x => x.2.crew != h || x.2.ended || b.mask.getLsbD x.2.wid

/-- Is the phase complete? -/
def barDone (s : State) (h : Nat) (b : Barrier) : Bool :=
  b.arr != 0 && (if b.cnt == 0 then allIn s h b else b.cnt ≤ b.arr)

/-- The paths that wait for barrier `n` of a crew. -/
def barWaiters (s : State) (h n : Nat) : List (Nat × Nat) :=
  (s.waves.filter fun x => x.2.crew == h).flatMap fun x =>
    (x.2.paths.filter fun p => match p.wait with | .cbar m _ _ => m == n | _ => false).map fun p => (x.1, p.eid)

/-- A phase completes by the arrival or the end of the wave `last`: its waiters wake next. -/
def State.barFlip (s : State) (h n : Nat) (b : Barrier) (last : BitVec 16) : State :=
  let s := s.setBar h n { b with phase := !b.phase, arr := 0, cnt := 0, mask := 0, last := last }
  { s with agenda := s.agenda ++ (barWaiters s h n).map fun x => .cbarWake x.1 x.2 }

/-- Complete the phase of barrier `n` if the last arrival or end completed it. -/
def State.barSettle (s : State) (h n : Nat) (last : BitVec 16) : State :=
  match s.crew h with
  | none => s
  | some c => if barDone s h (c.bar n) then s.barFlip h n (c.bar n) last else s

/-- A wave arrives with a count: the first arrival fixes the count, a wave that has arrived arrives no further. -/
def Barrier.arrive (b : Barrier) (wid count : Nat) : Barrier :=
  if b.mask.getLsbD wid then b
  else { b with cnt := if b.arr == 0 then BitVec.ofNat 5 count else b.cnt, arr := b.arr + 1, mask := setBit b.mask wid true }

/-! ## The end of a wave and of a path (R60, R139, R207) -/

/-- The wave ends: its contest entries go or complete unread (R343), and the crew ends with its last wave. (DEDUCED; log 32) -/
def endWave (s : State) (wk : Nat) : State :=
  match s.wave wk with
  | none => s
  | some w =>
    let s := s.putWave wk { w with ended := true, paths := [], spilled := [], latch := [] }
    let s := s.dropEntries fun k => k.wk == wk
    match s.crew w.crew with
    | none => s
    | some c =>
      if s.waves.all fun x => x.2.crew != c.h || x.2.ended then s.endCrew c false
      else (List.range 16).foldl (fun s n => s.barSettle c.h n (identOf w)) s

/-- Close, innermost first, every open level that no entry of the wave is inside; the loop exits that wait for such a
level run on (R148, R161). -/
def closeEmpty (w : Wave) : Nat → Wave
  | 0 => w
  | n + 1 =>
    if w.d = n + 1 && !((w.paths ++ w.spilled).any fun q => n < q.ldep.toNat) then
      let l := w.level n
      let w := { (w.setLevel n l.closed) with d := n }
      let run (l : List Path) : List Path := lmod l (fun q => q.st == .loopExit && q.ldep.toNat == n) fun q =>
        { q with st := .running }
      closeEmpty { w with paths := run w.paths, spilled := run w.spilled } n
    else w

/-- The consignment of a crew waits for what an ended path has observed (R72, R315). -/
def State.leaveObs (s : State) (crew : Nat) (obs : List Nat) : State :=
  if obs.isEmpty then s
  else match s.crew crew with
    | none => s
    | some c => { s with cons := lmod s.cons (fun k => k.h == c.cons) fun k => { k with obs := unite k.obs obs } }

/-- The path leaves the table with no lanes: it counts as arrived at its join, and what it retired counts in the key of
the merge; a level that no entry is inside any more, once joins have merged or ended, closes (R148, R207, R373). -/
def endPath (t : Th) : State :=
  let p := t.p
  let add (q : Path) : Path := { q with epc := q.epc + (p.pc - q.pc), etc := q.etc + (p.tc - q.tc), obs := unite q.obs p.obs }
  let isJ (q : Path) : Bool := p.parent == some q.eid
  let w := { (t.w.dropHeld p.eid) with
    paths := lmod (t.w.paths.filter fun q => q.eid != p.eid) isJ add, spilled := lmod t.w.spilled isJ add,
    mcheck := t.w.mcheck.filter fun m => m.eid != p.eid }
  let s := t.s.leaveObs t.w.crew p.obs
  let r : Settled := match p.parent with
    | some j => arrive s t.wk w j 64
    | none => { s := s, w := w, eid := none, err := none }
  let s := landed t.wk { r with w := closeEmpty r.w r.w.d }
  match s.wave t.wk with
  | none => s
  | some w =>
    if w.paths.isEmpty && w.spilled.isEmpty then endWave s t.wk
    else if r.err.isSome then s
    else
      -- entries that the ended path has freed take spilled ones back (R205)
      match refill s t.wk w p.eid 8 with
      | (s, .ok w) => s.putWave t.wk w
      | (s, .error e) => s.owing t.wk e

/-! ## Splitting (R205, R206) -/

/-- Make room for `need` entries, or the outcome that prevents it: a park, or ILLEGAL_TARGET of stack overflow. -/
def obtain (t : Th) (need : Nat) (target : BitVec 64) (k : Th → Res) : Res :=
  match spillFor t.s t.wk (t.w.putPath t.p) t.p.eid need with
  | (s, .ok w) => k { t with s := s, w := w }
  | (s, .error (some e)) => .merr { t with s := s } e
  | (s, .error none) => .trap { t with s := s } { cause := cIllegalTarget, tia := some target, info := t.p.pia.toNat }

/-- Check an address under R100 before the instruction has an effect: the fetch checks of its line come first, and what they
meet stops the instruction itself (R206). (DEDUCED; log 26) -/
def checkTarget (t : Th) (a : BitVec 64) (k : Th → Res) : Res :=
  let bad (t : Th) : Res := .trap t { cause := cIllegalTarget, tia := some a, info := t.p.pia.toNat }
  if 2 ^ 57 ≤ a.toNat then bad t
  else
    let here (u : Th) : Th := { t with s := u.s, w := u.w }
    match fetchLine { t with p := { t.p with pia := a } } with
    | .ok u d => if (lineWord d).getLsbD (a.toNat % 8) then k (here u) else bad (here u)
    | .merr u e => .merr (here u) e
    | .trap u x => .trap (here u) { x with tia := some a }
    | .stall u => .hold (here u)

/-- Split the retired path into a not-taken and a taken arm; it becomes their join at `rc`. `src` is the address of the
BRV, whose two addresses have been checked (R206). -/
def splitPath (t : Th) (tk : BitVec 64) (target rc src : BitVec 64) : State :=
  let e := t.p
  let w := t.w
  let nt := e.mask &&& ~~~tk
  let idx := w.freeIdx
  let arm (k : Nat) (taken : Bool) (pia m exm : BitVec 64) : Path :=
    { e with idx := idx.getD k 0, eid := w.nextEid + k, parent := some e.eid, taken := taken, st := .running, pia := pia,
             mask := m, exm := exm, rca := rc, level := e.level + 1, ws := 0, wb := 0, recs := [], age := 0,
             yielded := false, epc := 0, etc := 0, wait := .none, held := none, ibpSkip := false, xfer := none,
             line := none, park := none, tokWait := false, sdep := 0 }
  let n := arm 0 false (nextAddr src) nt (e.exm &&& nt)
  let k := arm 1 true target tk tk
  let j : Path := { e with st := .join, pia := rc, s := [], b := [], age := 0, yielded := false, epc := 0, etc := 0,
                           wait := .none, xfer := none, line := none, tokWait := false, sdep := 0 }
  -- the join keeps the common copy of the bank for the merge; its spill slot holds none (R204)
  let j := { j with s := e.s, b := e.b }
  let at' (q : Path) : Path := if q.pia == rc then { q with st := .waiting } else q
  let w := { (w.dropHeld e.eid).putPath j with paths := (w.putPath j).paths ++ [at' n, at' k], nextEid := w.nextEid + 2 }
  let s := t.s.count w 0x04 1
  let s := s.trace w.pasid w.coreN (some (w, k)) 2 n.idx src
  landed t.wk (arrive s t.wk w e.eid 64)

/-! ## Leaving a loop level early (R153, R160, R161) -/

/-- The level whose body-end slot the path stands at, if any (R153). -/
def endSlot (t : Th) : Option Nat := ((List.range t.w.d).reverse).find? fun n => (t.w.level n).enda == t.p.pia

/-- LOOP_RANGE with its reason (R151). -/
def loopRange (n reason : Nat) : Trap := { cause := cLoopRange, info := reason * 256 + n }

/-- Raise LOOP_RANGE reason 5 for a transfer in a body-end slot (R153). -/
def notInEnd (t : Th) (k : Res) : Res :=
  match endSlot t with
  | some n => .trap t (loopRange n 5)
  | none => k

/-- Does level `n` act on the path: same return depth and mode (R152, R154)? -/
def Th.acts (t : Th) (n : Nat) : Bool := t.rsd == (t.w.level n).cdep && t.w.hmode == (t.w.level n).hlev

/-- Does a body contain an address? -/
def LoopLevel.has (l : LoopLevel) (a : BitVec 64) : Bool := l.starta.toNat ≤ a.toNat && a.toNat ≤ l.enda.toNat

/-- An entry of the wave by its name, live or spilled. -/
def Wave.any (w : Wave) (eid : Nat) : Option Path := (w.paths ++ w.spilled).find? fun q => q.eid == eid

/-- The outermost entry that a path, inside level `m`, is an arm of by splits made inside the body, with the write bits
and the return records of the entries between (R160). -/
def owner (w : Wave) (m : Nat) : Nat → Path → Path
  | 0, p => p
  | n + 1, p => match p.parent.bind w.any with
    | some j => if m < j.ldep.toNat then
        owner w m n { j with ws := j.ws ||| p.ws, wb := j.wb ||| p.wb, recs := p.recs ++ j.recs }
      else p
    | none => p

/-- The exit entry of a path whose `lanes` leave level `m` for `x` (R161). -/
def exitEntry (t : Th) (o : Path) (lanes x : BitVec 64) (m : Nat) : Path :=
  { t.p with
    idx := t.w.freeIdx.headD 0, eid := t.w.nextEid, parent := o.parent, taken := o.taken, st := .loopExit, pia := x,
    mask := lanes, exm := t.p.exm &&& lanes, rca := o.rca, level := o.level, ldep := BitVec.ofNat 3 m, ws := o.ws,
    wb := o.wb, recs := o.recs, age := 0, yielded := false, epc := 0, etc := 0, wait := .none, held := none,
    ibpSkip := false, xfer := none, line := none, park := none, tokWait := false, hexit := t.w.hmode, sdep := 0 }

/-- An exit entry joined by further lanes: the arriving path takes the place of the taken child (R161, R207).
(DEDUCED; log 25) -/
def joinExit (q a : Path) : Path :=
  { q with mask := q.mask ||| a.mask, exm := q.exm ||| a.exm, s := mergeS a q, b := mergeB a q, ws := q.ws ||| a.ws,
           wb := q.wb ||| a.wb, obs := unite q.obs a.obs }

/-- Is the entry the exit entry of level `m` that waits at `x` (R161)? -/
def Th.isExit (t : Th) (x : BitVec 64) (m : Nat) (q : Path) : Bool :=
  q.st == .loopExit && q.pia == x && q.ldep.toNat == m && q.hexit == t.w.hmode

/-- Lanes are to leave level `m` for `x`: the exit entry that waits there is in the table, or an entry is free for it
(R160, R161, R205). -/
def readyExit (t : Th) (x : BitVec 64) (m : Nat) (target : BitVec 64) (k : Th → Res) : Res :=
  if t.w.paths.any (t.isExit x m) then k t
  else obtain t 1 target fun t => match t.w.spilled.find? (t.isExit x m) with
    | none => k t
    | some q => match bringBack t.s t.wk t.w t.p.eid q (t.w.freeIdx.headD 0) with
      | (s, .error e) => .merr { t with s := s } e
      | (s, .ok w) => k { t with s := s, w := w }

/-- `lanes` of the retired path leave level `m` for `x` and wait there in its exit entry; an arm left without lanes
ends, and a path that keeps lanes goes on as `next` does (R160, R161). Needs a free entry unless one waits at `x`.
(DEDUCED; log 25) -/
def exitLanes (t : Th) (lanes x : BitVec 64) (m : Nat) (next : Th → State) : State :=
  let a := exitEntry t (owner t.w m 64 t.p) lanes x m
  let there := t.w.paths.any (t.isExit x m)
  let w := { (t.w.dropHeld t.p.eid) with
    paths := if there then lmod t.w.paths (t.isExit x m) fun q => joinExit q a else t.w.paths ++ [a],
    nextEid := if there then t.w.nextEid else t.w.nextEid + 1 }
  let p := { t.p with mask := t.p.mask &&& ~~~lanes, exm := t.p.exm &&& ~~~lanes }
  let t' : Th := { t with w := w, p := p }
  if p.mask == 0 then
    -- what the arm issued to the matrix engine goes with its lanes (R302)
    let e := ((t.w.paths.find? (t.isExit x m)).map (·.eid)).getD a.eid
    endPath { t' with s := t.s.inherit t.wk p.eid e, w := w.inherit p.eid e }
  else next t'

/-- Is the path an arm of a split made inside level `m`? -/
def Th.innerArm (t : Th) (m : Nat) : Bool := match t.p.parent.bind t.w.any with
  | some j => m < j.ldep.toNat
  | none => false

/-- The whole path leaves level `m`; levels that nothing is inside any more close. -/
def Th.leaves (t : Th) (m : Nat) : Th :=
  let p := { t.p with ldep := BitVec.ofNat 3 (min t.p.ldep.toNat m) }
  let w := closeEmpty (t.w.putPath p) t.w.d
  -- the exits of the closed levels still wait for the path, which goes on
  let keep (q : Path) : Path := match t.w.path q.eid with
    | some r => if r.st == .loopExit then { q with st := .loopExit } else q
    | none => q
  { t with w := { w with paths := w.paths.map keep }, p := p }

end Sys2Proof.Machine
end

