-- ==== Sys2Proof/Machine/MemAccess.lean ====
section
/-!
DEFINITION. Loads, stores, atomics, prefetch, sideband reads, shape registers, cache maintenance, and saving and
restoring loop levels: opcodes 0xA0 to 0xAE, 0x29 and 0x2A (R158, R159, R219 to R244).
-/
namespace Sys2Proof.Machine

/-! ## Addresses and the checks of R233 -/

/-- What an access instruction asks of its lanes. -/
structure Acc where
  op    : Nat
  c     : Bool := false            -- class C: performed once, as lane 0
  n     : Nat                      -- bytes of a lane's access
  align : Nat                      -- required alignment
  rule  : ApRule := {}
  nd    : Need

/-- The sources of lane L's address (R230). -/
def addrSrcs (t : Th) (f : Fields) (L : Nat) : List Src :=
  t.srcS 64 f.sa.toNat 1 ::
    (if f.scls = 0 then [t.srcV 32 f.sb.toNat L 2] else if f.scls = 1 then [t.srcS 64 f.sb.toNat 2] else [])

/-- The generic address of lane L (R230); `strided` for VLDS and VSTS. -/
def laneAddr (t : Th) (f : Fields) (strided : Bool) (L : Nat) : BitVec 64 :=
  let base := (t.sreg f.sa.toNat).v
  let idx : BitVec 64 :=
    if strided then BitVec.ofNat 64 (t.w.lidOf L) * (t.sreg f.sb.toNat).v
    else if f.scls = 0 then (t.vreg f.sb.toNat L).v.signExtend 64
    else if f.scls = 1 then (t.sreg f.sb.toNat).v
    else 0
  base + idx + (mOff f).signExtend 64

/-- The lanes of an access in ascending LID order. -/
def accLanes (t : Th) (c : Bool) (ex : BitVec 64) : List Nat := if c then [0] else t.w.byLid ex

/-- TLANES of a list of lanes: 0 for class C (R233). (DEDUCED; log 23) -/
def shownLanes (c : Bool) (l : List Nat) : BitVec 64 := if c then 0 else maskOf 64 l

/-- A lane with its place and the sources of its address. -/
structure Placed where
  lane : Nat
  loc  : Loc
  srcs : List Src

/-- Is the place on a translated page that is not error-tolerant, where poisoned data raises POISON_USE (R235)? -/
def guards (t : Th) (l : Loc) : Bool :=
  match l with
  | .mem _ _ m => !m.et && !isStk t.s t.agent l
  | _ => false

/-- The first register of a list of sources that holds poison. -/
def badReg (l : List Src) : Nat := ((l.find? (·.bad)).map (·.reg)).getD 0

/-- The check classes of R233 over the lanes of an access; `data` gives the store data of a lane. An instruction that
stops has marked no page accessed. (DEDUCED; log 17) -/
def access (t : Th) (f : Fields) (a : Acc) (strided : Bool) (ex : BitVec 64) (data : Nat → List Src)
    (k : Th → List Placed → Res) : Res :=
  let els := (accLanes t a.c ex).map fun L => (L, laneAddr t f strided L)
  let srcs (L : Nat) : List Src := addrSrcs t f L
  let poisoned := els.filter fun e => (srcs e.1).any (·.bad)
  let crooked := els.filter fun e => e.2.toNat % a.align != 0
  let shown (l : List El) : BitVec 64 := shownLanes a.c (l.map (·.1))
  match els, poisoned, crooked with
  | [], _, _ => .done t
  | _, x :: _, _ => .trap t (poisonUse 0 (badReg (srcs x.1)) (shown poisoned) x.2)
  | _, _, x :: _ => .trap t { cause := cMisaligned, lanes := shown crooked, addr := x.2 }
  | _, _, _ =>
    match resolve t.s t.agent a.rule a.nd a.n els with
    | (s, .error e) =>
      .merr { t with s := s.revert t.s }
        { e with lanes := if a.c then 0 else e.lanes, hint := (mHint f).toNat }
    | (s, .ok locs) =>
      let placed := (els.zip locs).map fun x => ({ lane := x.1.1, loc := x.2, srcs := guardSrc t f ++ srcs x.1.1 } : Placed)
      let lost := placed.filter fun x => guards t x.loc && (data x.lane).any (·.bad)
      match lost with
      | x :: _ => .trap { t with s := s.revert t.s }
          (poisonUse 3 (badReg (data x.lane)) (shownLanes a.c (lost.map (·.lane))) (laneAddr t f strided x.lane))
      | [] => k { t with s := s } placed

/-- No store data. -/
def noData : Nat → List Src := fun _ => []

/-- Check the source words of an access and continue (R176). (DEDUCED; log 17) -/
def checkPlaced (t : Th) (a : Acc) (ps : List Placed) (data : Nat → List Src) (k : Th → Res) : Res :=
  check t a.op false false (!a.c) (ps.map fun x => (x.lane, { srcs := x.srcs ++ data x.lane })) fun t _ => k t

/-! ## Places -/

/-- The place `j` bytes on, j a multiple of 4: words of one lane's stack lie 256 bytes apart (R222). -/
def shiftLoc (s : State) (g : Agent) (L : Nat) (l : Loc) (j : Nat) : Loc :=
  match l with
  | .ls o => .ls (o + j)
  | .dsc o => .dsc (o + j)
  | .mem va pa m =>
    match aperture s g.pasid (BitVec.ofNat 64 va) with
    | some (_, o) =>
      let pa' := stkAddr s g.pasid g.stkidx L (o + j)
      .mem (va + j) pa' (rawAt pa')
    | none =>
      .mem (va + j) (pa + j) { m with blk := m.blk - pa / 64 + (pa + j) / 64, home := m.home - pa / 64 + (pa + j) / 64 }

/-- The pieces of a lane's access of `n` bytes: itself, or its 32-bit words. -/
def pieces (s : State) (g : Agent) (L : Nat) (l : Loc) (n : Nat) : List (Loc × Nat) :=
  if n ≤ 4 then [(l, n)] else (List.range (n / 4)).map fun j => (shiftLoc s g L l (4 * j), 4)

/-- The 16-byte granules of the scratchpad that pieces touch (R226). -/
def granules (ps : List (Loc × Nat)) : List Nat :=
  (ps.flatMap fun x => match x.1 with
    | .ls o => (List.range ((o + x.2 - 1) / 16 - o / 16 + 1)).map fun i => o / 16 + i
    | _ => []).eraseDups

/-- The extra cycles of one access to the scratchpad: its 32 banks work side by side, and each beyond its first granule
takes one more (R226). (DEDUCED; log 29) -/
def scrExtra (ps : List (Loc × Nat)) : Nat :=
  let gs := granules ps
  (List.range 32).foldl (fun n b => max n ((gs.filter fun g => g % 32 == b).length - 1)) 0

/-! ## Loads (R232, R234, R258, R314, R322) -/

/-- A piece as read: its value, whether a word that holds it is poison, and whether every such word is sound. -/
structure Got where
  v   : Nat
  bad : Bool
  ok  : Bool

def gotPiece (bs : List (Nat × Blk)) (p : Loc × Nat) : Got :=
  let ws := wordsAt bs p.1 p.2
  { v := valueAt ws p.1 p.2, bad := ws.any Machine.bad, ok := ws.all sound }

/-- The caching policy of an access (R228, R229). -/
def polOf (t : Th) (f : Fields) : LdPol :=
  let h := (mHint f).toNat
  { nl1 := mPol f == 2, pin := if mPol f == 3 then some t.w.crew else none,
    hint := h < 8 && h != t.w.die && t.s.online h }

/-- Has the path waited 2,000 ns on a locked replica (R322)? (DEDUCED; log 41) -/
def replicaLate (t : Th) : Bool :=
  match t.p.wait with
  | .replica t0 => 2000 ≤ (t.s.ptime - t0).toNat
  | _ => false

/-- Package time since which the path's access stalls. (DEDUCED; log 52) -/
def stallStart (t : Th) : BitVec 64 :=
  match t.p.wait with
  | .replica t0 => t0
  | _ => t.s.ptime

/-- The path waits on a locked replica or on a resetting home since its first try (R322, R388). (DEDUCED; log 41) -/
def replicaWait (t : Th) : Res :=
  .hold { t with p := { t.p with wait := match t.p.wait with
    | .replica t0 => .replica t0
    | _ => .replica t.s.ptime } }

/-- Is a store of the core, or one that the agent has observed, to one of the blocks not performed at home (R312, R314, R318)? -/
def anyPending (s : State) (g : Agent) (ls : List Loc) : Bool :=
  ls.any fun l => match l with
    | .mem _ _ m => s.ms.stores.any fun p => p.blk == m.home && p.early && (p.core == g.core || g.obs.contains p.sid)
    | _ => false

/-- The crew's record of an event on its own node and route (R396). (DESIGN CHOICE; log 29) -/
def State.crewEvent (s : State) (crew cls code : Nat) : State :=
  match s.crew crew with
  | none => s
  | some c => s.logError c.fn (crewLog s c cls code [] 0)

/-- Count substituted sectors on SUBCNT (R258). -/
def Th.subs (t : Th) (n : Nat) : Th :=
  { t with w := { t.w with subcnt := BitVec.ofNat 64 (min (t.w.subcnt.toNat + n) (2 ^ 64 - 1)) } }

/-- Is the access an acquire? Then the path acquires (R315). -/
def Th.acquires (t : Th) (f : Fields) : Th := if (mOrd f).getLsbD 0 then t.acquire else t

/-- Does the block read past the caches have words substituted (R258)? -/
def substituted (s : State) (g : Agent) : Loc → Bool
  | .mem _ _ m => (etSubst s { m with blk := m.home } (s.homeBlk g.core m)).2 != 0
  | _ => false

/-- Read the blocks of the pieces `ls`, from home when the wait on a locked replica is over, and count (R322, R369). -/
def readCounted (t : Th) (f : Fields) (ls : List Loc) : Th × List (Nat × Blk) :=
  let g := t.agent
  let reps := distinctBlks ls
  if anyLocked t.s g ls then
    let sub := (reps.filter fun l => substituted t.s g l).length
    ((({ t with s := t.s.crewEvent t.w.crew 2 0x08 }.subs sub).observe ls).acquires f, reps.map fun l => (l.key, rereadBlk t.s g l))
  else
    let r := readBlks t.s g (polOf t f) 0 reps
    let s := ((r.s.count t.w 0x06 r.st.hits).count t.w 0x07 r.st.misses).count t.w 0x0D r.st.fills
    ((({ t with s := s }.subs r.sub).observe ls).acquires f, r.blks)

/-- Must a load of these pieces wait (R314, R322, R388)? -/
def loadWaits (t : Th) (f : Fields) (ls : List Loc) (k : Th → Res) : Res :=
  let g := t.agent
  if anyLocked t.s g ls && !replicaLate t || anyAway t.s (stallStart t) false ls then replicaWait t
  else if mPol f == 2 && anyPending t.s g (ls.filter fun l => !isStk t.s g l) then .hold t
  else k t

/-- Load the pieces of every lane, check each word with its retry, and continue with what was read. (DEDUCED; log 39) -/
def loadRun (t : Th) (f : Fields) (a : Acc) (placed : List Placed) (write : Th → List (Nat × List Got) → Res) : Res :=
  let g := t.agent
  let ps := placed.map fun x => (x, pieces t.s g x.lane x.loc a.n)
  let ls := ps.flatMap fun x => x.2.map (·.1)
  loadWaits t f ls fun t =>
    let (t, bs) := readCounted t f ls
    let t := { t with s := t.s.count t.w 0x0C (scrExtra (ps.flatMap (·.2))) }
    let again := (distinctBlks ls).map fun l => (l.key, rereadBlk t.s g l)
    let got (bs : List (Nat × Blk)) : List (Nat × List Got) := ps.map fun x => (x.1.lane, x.2.map (gotPiece bs))
    let outs (bs : List (Nat × Blk)) : List (Nat × LaneOut) := ps.map fun x =>
      (x.1.lane, { srcs := x.1.srcs ++ x.2.map fun p =>
        { v := 0, bad := false, ok := (gotPiece bs p).ok, wher := 0, reg := 0 } })
    let same : Nat → Nat → Nat := fun _ v => v
    twoTries t (!a.c) (tryFails (outs bs) same) (tryFails (outs again) same)
      (fun t => write t (got bs)) (fun t => write t (got again))

/-- The value of a list of 32-bit pieces, low word first, or of one narrower piece. -/
def joinGot (l : List Got) : Nat := l.foldr (fun x a => x.v + 2 ^ 32 * a) 0

/-- Bytes of an element of the type (R232). -/
def tyBytes (f : Fields) : Nat := tyW f.ty.toNat / 8

/-- What a vector load asks. -/
def loadAcc (op : Nat) (f : Fields) (k : Nat) : Acc :=
  { op := op, n := k * tyBytes f, align := k * tyBytes f, nd := { r := true } }

/-- A vector load of one element, or of `k` words, in each executing lane (R237); poison in a word that a lane reads poisons
every destination word of the lane (R41). -/
def vecLoad (op : Nat) (strided : Bool) (f : Fields) (t : Th) (ex : BitVec 64) : Res :=
  let k := 2 ^ f.sub.toNat
  let a := loadAcc op f k
  access t f a strided ex noData fun t ps => loadRun t f a ps fun t got =>
    let put (t : Th) (x : Nat × List Got) : Th :=
      if f.sub = 0 then
        t.putV f.dst.toNat x.1 (tyWide f.ty) (x.2.any (·.bad)) (regForm f.ty.toNat (if tyWide f.ty then 64 else 32) (joinGot x.2))
      else (List.range k).foldl (fun t j =>
        t.putV (f.dst.toNat + j) x.1 false (x.2.any (·.bad)) (x.2.getD j { v := 0, bad := false, ok := true }).v) t
    .done (got.foldl put t)

/-- VLD (R237). -/
def execVld (f : Fields) : State → Host.Outcome State Fault Refusal :=
  issue (.vld f) f kL (vecLoad 0xA0 false f)

/-- VLDS (R237). -/
def execVlds (f : Fields) : State → Host.Outcome State Fault Refusal :=
  issue (.vlds f) f kL (vecLoad 0xA2 true f)

/-- Raise SPLIT_SCALAR_WRITE for S[n], or continue (R127). -/
def splitCheck (t : Th) (n : Nat) (k : Res) : Res :=
  if t.splitWrite n then .trap t { cause := cSplitWrite, info := n } else k

/-- SLD (R238). -/
def execSld (f : Fields) : State → Host.Outcome State Fault Refusal :=
  issue (.sld f) f kC fun t ex =>
    let a := { loadAcc 0xA4 f 1 with c := true }
    splitCheck t f.dst.toNat (access t f a false ex noData fun t ps => loadRun t f a ps fun t got =>
      match got with
      | (_, l) :: _ => .done (t.setS f.dst.toNat (mkP (l.any (·.bad)) (BitVec.ofNat 64 (regForm f.ty.toNat 64 (joinGot l)))))
      | [] => .done t)

/-! ## Stores (R235, R236, R314, R315) -/

/-- Is the access a release, and must it wait for earlier accesses to be performed at its scope (R315, R320, R327)?
(DEDUCED; log 16) -/
def relWaits (t : Th) (f : Fields) : Bool := (mOrd f).getLsbD 1 && t.s.mustWait t.w.coreN t.p.obs (mScope f).toNat

/-- Is the access a release at system scope (R327)? -/
def relSys (f : Fields) : Bool := (mOrd f).getLsbD 1 && mScope f == 5

/-- Capture the pages of an open replay region that the places lie on, then continue (R371). -/
def captured (t : Th) (ls : List Loc) (k : Th → Res) : Res :=
  match capture t.s t.agent ls with
  | (s, some e) => .merr { t with s := s } e
  | (s, none) => k { t with s := s }

/-- Store the data of every lane: `data` gives one source per piece (R235, R236). (DEDUCED; log 39) -/
def storeRun (t : Th) (f : Fields) (a : Acc) (placed : List Placed) (data : Nat → List Src) : Res :=
  checkPlaced t a placed data fun t =>
    if relWaits t f then .hold t
    else captured t (placed.map (·.loc)) fun t =>
      let g := t.agent
      let els := placed.flatMap fun x =>
        ((pieces t.s g x.lane x.loc a.n).zip (data x.lane)).map fun y =>
          ({ loc := y.1.1, n := y.1.2, v := y.2.v % 2 ^ (8 * y.1.2), poison := y.2.bad } : StEl)
      let s := t.s.count t.w 0x0C (scrExtra (els.map fun e => (e.loc, e.n)))
      .done (({ t with s := s.storeAll g els (relSys f) (mPol f == 2) } : Th).made t.s.ms.nextSid)

/-- The data words of a vector store in a lane: one per piece. -/
def storeData (t : Th) (f : Fields) (L : Nat) : List Src :=
  let n := 2 ^ f.sub.toNat * tyBytes f
  if n ≤ 4 then [t.srcV (8 * n) f.sc.toNat L 3] else (List.range (n / 4)).map fun j => t.srcV 32 (f.sc.toNat + j) L 3

/-- What a vector store asks. -/
def storeAcc (op : Nat) (f : Fields) (k : Nat) : Acc :=
  { op := op, n := k * tyBytes f, align := k * tyBytes f, nd := { w := true } }

def vecStore (op : Nat) (strided : Bool) (f : Fields) (t : Th) (ex : BitVec 64) : Res :=
  let a := storeAcc op f (2 ^ f.sub.toNat)
  access t f a strided ex (storeData t f) fun t ps => storeRun t f a ps (storeData t f)

/-- VST (R237). -/
def execVst (f : Fields) : State → Host.Outcome State Fault Refusal :=
  issue (.vst f) f kL (vecStore 0xA1 false f)

/-- VSTS (R237). -/
def execVsts (f : Fields) : State → Host.Outcome State Fault Refusal :=
  issue (.vsts f) f kL (vecStore 0xA3 true f)

/-- The data of a scalar store: the low bytes of S[SC], one source per piece (R238). -/
def scalarData (t : Th) (f : Fields) (_ : Nat) : List Src :=
  let x := t.srcS 64 f.sc.toNat 3
  let n := tyBytes f
  if n ≤ 4 then [{ x with v := x.v % 2 ^ (8 * n) }] else [{ x with v := x.v % 2 ^ 32 }, { x with v := x.v / 2 ^ 32 }]

/-- SST (R238). -/
def execSst (f : Fields) : State → Host.Outcome State Fault Refusal :=
  issue (.sst f) f kC fun t ex =>
    let a := { storeAcc 0xA5 f 1 with c := true }
    access t f a false ex (scalarData t f) fun t ps => storeRun t f a ps (scalarData t f)

/-! ## Atomics (R239, R318) -/

/-- The commit of an atomic or an update of an object that is in its lock step on the block (R321). -/
def State.staged (s : State) (m : MemAt) : Option PStore :=
  if m.rep then s.ms.stores.find? fun q => q.rep && q.blk == m.home && q.stage == .locking else none

/-- The word of a place as its home or its scratchpad holds it. -/
def homeWord (s : State) (g : Agent) : Loc → RWord 32
  | .ls o => (crewScr s g.crew).word (o / 4)
  | .dsc o => (s.dscMem g.pasid g.die).word (o / 4)
  | .mem _ pa m =>
    if s.away m then poisonBlk.word 0
    else match s.staged m with
      | some q => (q.apply (s.ms.phys.blk m.home)).word (pa % 64 / 4)
      | none => s.ms.phys.word (16 * m.home + pa % 64 / 4)

/-- Word `i` of a commit on a replicated page: the lock step begins, and the home copy takes the word with the update step
(R321). -/
def State.stageWord (s : State) (g : Agent) (m : MemAt) (i : Nat) (x : RWord 32) : State :=
  let mask : BitVec 64 := BitVec.ofNat 64 (15 * 2 ^ (4 * i))
  let all : BitVec 512 := BitVec.ofNat 512 ((2 ^ 32 - 1) * 2 ^ (32 * i))
  let data : BitVec 512 := BitVec.ofNat 512 (x.v.toNat * 2 ^ (32 * i))
  match s.staged m with
  | some q => s.putStore { q with mask := q.mask ||| mask, data := (q.data &&& ~~~all) ||| data, poison := setBit q.poison i (bad x) }
  | none =>
    let n := s.ms.nextSid
    let s := s.storeBlk g none m mask data (setBit 0 i (bad x)) rawPair false
    match s.findStore n with
    | some q => s.putStore { q with stage := .locking, wait := s.replicas m.hdie }
    | none => s

/-- Write the word of a place at its home; the block becomes RAW and 127 (R55). On a replicated page the write commits in two
steps, and replicas on dies that are offline miss it (R321). -/
def putHomeWord (s : State) (g : Agent) (x : RWord 32) : Loc → State
  | .ls o => s.modScr g.crew fun m => (m.putWord (o / 4) x).putPair (o / 64) rawPair
  | .dsc o => s.setDsc g.pasid g.die (((s.dscMem g.pasid g.die).putWord (o / 4) x).putPair (o / 64) rawPair)
  | .mem _ pa m =>
    if m.rep && s.replicas m.hdie != 0 then s.stageWord g m (pa % 64 / 4) x
    else
      let s := { s with ms := { s.ms with phys := (s.ms.phys.putWord (16 * m.home + pa % 64 / 4) x).putPair m.home rawPair } }
      if m.rep then ((s.partDies (s.fnOfDie m.hdie)).filter fun e => e != m.hdie && !s.online e).foldl (fun s e => s.missed e m.home) s
      else s

/-- Writes of `g` have been performed at the homes of the places: other copies are invalidated (R319). -/
def State.announced (s : State) (g : Agent) (ls : List Loc) : State :=
  (distinctBlks ls).foldl (fun s l => match l with
    | .mem _ _ m => if m.rep then s else s.announce g m.home
    | _ => s) s

/-- The new value of an atomic (R239): `c` is the operand or the compared value, `d` the new value of .cas. -/
def atomNew (sub ty : Nat) (old c d : Nat) : Nat :=
  let w := tyW ty
  let sgn := tySigned ty
  match sub with
  | 0 => (old + c) % 2 ^ w
  | 1 => if rdInt sgn w c < rdInt sgn w old then c else old
  | 2 => if rdInt sgn w old < rdInt sgn w c then c else old
  | 3 => old &&& c
  | 4 => old ||| c
  | 5 => old ^^^ c
  | 6 => c
  | 7 => if old = c then d else old
  | _ => roundFp 11 { rm := 0, sat := false, st := 0 } (FV.add false (decodeF 11 old) (decodeF 11 c))

/-- An atomic of one lane: its operands and whether they hold poison. -/
structure AtomIn where
  c      : Nat
  d      : Nat
  poison : Bool

/-- The atomics of a list of lanes, one after another: the state, the old value of each performed lane and the lanes
whose word failed its check (R239). A poisoned operand poisons the memory word and the destination (R41, R235). -/
def atomLanes (g : Agent) (sub ty : Nat) (opnd : Nat → AtomIn) :
    State → List Placed → State × List (Nat × Nat × Bool) × List Nat
  | s, [] => (s, [], [])
  | s, x :: rest =>
    let ls := (pieces s g x.lane x.loc (tyW ty / 8)).map (·.1)
    let ws := ls.map (homeWord s g)
    let old := ws.foldr (fun w a => w.v.toNat + 2 ^ 32 * a) 0
    if ws.any Machine.bad then
      let r := atomLanes g sub ty opnd s rest
      (r.1, (x.lane, old, true) :: r.2.1, r.2.2)
    else if !ws.all sound then
      let r := atomLanes g sub ty opnd s rest
      (r.1, r.2.1, x.lane :: r.2.2)
    else
      let i := opnd x.lane
      let new := atomNew sub ty old i.c i.d
      let put (s : State) (y : Nat × Loc) : State :=
        putHomeWord s g (mkP i.poison (BitVec.ofNat 32 (new / 2 ^ (32 * y.1)))) y.2
      let s := ((List.range ls.length).zip ls).foldl put s
      let r := atomLanes g sub ty opnd s rest
      (r.1, (x.lane, old, i.poison) :: r.2.1, r.2.2)

/-- How many lanes name the address of an earlier lane (R369). -/
def sameAddr (l : List Placed) : Nat := l.length - (uniq (l.map (·.loc))).length

/-- What an atomic asks: the STK and DSC apertures take none (R225). -/
def atomAcc (op : Nat) (f : Fields) : Acc :=
  { op := op, n := tyBytes f, align := tyBytes f, rule := { noStk := true, noDsc := true },
    nd := { r := true, w := true, a := true } }

/-- Must the atomic wait: for its release, for its core's stores to its blocks, or for a commit (R315, R318, R321)? -/
def atomWaits (t : Th) (f : Fields) (ls : List Loc) : Bool :=
  relWaits t f || anyPending t.s t.agent ls ||
    ls.any fun l => match l with | .mem _ _ m => t.s.committing m.home | _ => false

/-- Perform an atomic and write the old values; lanes whose word failed its check twice raise RESIDUE_CHECK after the
others have been performed (R239). (DEDUCED; log 21) -/
def atomRun (t : Th) (f : Fields) (a : Acc) (placed : List Placed) (data : Nat → List Src)
    (write : Th → Nat × Nat × Bool → Th) : Res :=
  checkPlaced t a placed data fun t =>
    let ls := placed.map (·.loc)
    if anyAway t.s (stallStart t) true ls then replicaWait t
    else if atomWaits t f ls then .hold t
    else captured t ls fun t =>
      let opnd (L : Nat) : AtomIn :=
        let d := data L
        { c := (d.headD noSrc).v, d := (d.getD 1 noSrc).v, poison := d.any (·.bad) }
      let r := atomLanes t.agent f.sub.toNat f.ty.toNat opnd t.s placed
      let t := ((({ t with s := r.1.announced t.agent ls } : Th).made t.s.ms.nextSid).observe ls).acquires f
      if r.2.2.isEmpty then
        let s := ((t.s.count t.w 0x08 placed.length).count t.w 0x09 (sameAddr placed)).count t.w 0x0C
          (scrExtra (placed.map fun x => (x.loc, a.n)))
        .done (r.2.1.foldl write { t with s := s })
      else
        let failed := shownLanes a.c r.2.2
        let t := if placed.length = 1 then t else r.2.1.foldl write t
        let s := (lanesOf failed).foldl (fun s L => s.countHist (histLane (4 * t.w.coreN + t.w.slot / 16) L) 1) t.s
        .trap { t with s := s } { cause := cResidue, lanes := failed }

/-- The operands of VATOM in a lane (R239). -/
def vatomData (t : Th) (f : Fields) (L : Nat) : List Src :=
  let w := tyW f.ty.toNat
  let c := t.srcV w f.sc.toNat L 3
  if f.sub = 7 then [c, t.srcV w (f.sc.toNat + w / 32) L 3] else [c]

/-- The words of VATOM's operands, for POISON_USE. -/
def vatomWords (t : Th) (f : Fields) (L : Nat) : List Src :=
  let n := tyW f.ty.toNat / 32 * (if f.sub = 7 then 2 else 1)
  (List.range n).map fun j => t.srcV 32 (f.sc.toNat + j) L 3

/-- VATOM (R239). -/
def execVatom (f : Fields) : State → Host.Outcome State Fault Refusal :=
  issue (.vatom f) f kL fun t ex =>
    let a := atomAcc 0xA6 f
    access t f a false ex (vatomWords t f) fun t ps => atomRun t f a ps (vatomData t f) fun t x =>
      t.putV f.dst.toNat x.1 (tyWide f.ty) x.2.2 x.2.1

/-- The operands of SATOM (R239). -/
def satomData (t : Th) (f : Fields) (_ : Nat) : List Src :=
  let w := tyW f.ty.toNat
  let c := t.srcS w f.sc.toNat 3
  if f.sub = 7 then [c, t.srcS w (f.sc.toNat + 1) 3] else [c]

/-- SATOM (R239). -/
def execSatom (f : Fields) : State → Host.Outcome State Fault Refusal :=
  issue (.satom f) f kC fun t ex =>
    let a := { atomAcc 0xA7 f with c := true }
    splitCheck t f.dst.toNat (access t f a false ex (satomData t f) fun t ps =>
      atomRun t f a ps (satomData t f) fun t x =>
        t.setS f.dst.toNat (mkP x.2.2 (BitVec.ofNat 64 (regForm f.ty.toNat 64 x.2.1))))

/-! ## Prefetch and sideband reads (R240, R241, R254) -/

/-- The place of a prefetch: none where it is dropped, no place in an aperture. -/
def prefetchLoc (s : State) (g : Agent) (e : El) : State × Option (Option Loc) :=
  if (aperture s g.pasid e.2).isSome then (s, some none)
  else match translate s g.die g.pasid e.2 { r := true, spec := true } g.hm e.1 with
    | (s, .error _) => (s, none)
    | (s, .ok x) =>
      if x.pbit then (s, none) else (s, some (some (.mem e.2.toNat x.pa (memAt g.die x.pa x.leaf))))

def prefetchLocs (g : Agent) : State → List El → State × List (Option (Option Loc))
  | s, [] => (s, [])
  | s, e :: t =>
    let (s, l) := prefetchLoc s g e
    let (s, r) := prefetchLocs g s t
    (s, l :: r)

/-- VPRF: it may bring copies into caches, and counts its dropped lanes on SPDROP (R240, R254). -/
def execVprf (f : Fields) : State → Host.Outcome State Fault Refusal :=
  issue (.vprf f) f kL fun t ex =>
    let g := t.agent
    let (s, ls) := prefetchLocs g t.s ((accLanes t false ex).map fun L => (L, laneAddr t f false L))
    let s := s.spdrop t.w.pasid (ls.filter (·.isNone)).length
    let places := distinctBlks (ls.filterMap fun l => l.bind id)
    let r := readBlks s g { nl1 := f.sub != 0, hint := (polOf t f).hint } 0 places
    .done { t with s := r.s.count t.w 0x0D r.st.fills }

/-- The sideband pair of the block at a place: RAW and 127 in STK and in host memory (R55, R57, R241). -/
def pairAt (t : Th) (bs : List (Nat × Blk)) (l : Loc) : Pair :=
  match l with
  | .mem _ _ m => if m.host || isStk t.s t.agent l then rawPair else (blkAt bs l).pair
  | _ => (blkAt bs l).pair

/-- VLDF (R241). -/
def execVldf (f : Fields) : State → Host.Outcome State Fault Refusal :=
  issue (.vldf f) f kL fun t ex =>
    let a : Acc := { op := 0xAE, n := 1, align := 1, nd := { r := true } }
    access t f a false ex noData fun t ps => checkPlaced t a ps noData fun t =>
      let ls := ps.map (·.loc)
      loadWaits t f ls fun t =>
        let sub := t.w.subcnt
        let (t, bs) := readCounted t f ls
        let t := { t with w := { t.w with subcnt := sub } }
        let put (t : Th) (x : Placed) : Th :=
          let p := pairAt t bs x.loc
          t.putV f.dst.toNat x.lane false false (p.fmt.toNat + 256 * p.scale.toNat)
        .done (ps.foldl put t)

/-! ## Shape registers (R43, R58, R242, R243) -/

/-- The writable bits of word `i` of a shape record (R43). -/
def qMask (i : Nat) : W32 := if i = 2 then 0x1FFFFF else if i = 15 then 0x3FFFFFFF else 0xFFFFFFFF

/-- Write the words of a record to Qn: reserved fields stay zero. -/
def Th.setRecord (t : Th) (n : Nat) (ws : List (RWord 32)) : Th :=
  (List.range 16).foldl (fun t i =>
    let x := ws.getD i (zw 32)
    t.setQ n i (mkP (bad x) (x.v &&& qMask i))) t

/-- LDQ and STQ name a 64-byte record outside the STK aperture (R225, R242). -/
def recAcc (op : Nat) (nd : Need) : Acc :=
  { op := op, c := true, n := 64, align := 64, rule := { noStk := true }, nd := nd }

/-- LDQ (R58, R242). -/
def execLdq (f : Fields) : State → Host.Outcome State Fault Refusal :=
  issue (.ldq f) f kC fun t ex =>
    let a := recAcc 0xA9 { r := true }
    access t f a false ex noData fun t ps =>
      match ps with
      | [] => .done t
      | x :: _ => loadWaits t f [x.loc] fun t =>
        let g := t.agent
        let (now, sub) := recordAt t.s g x.loc
        let held := heldRecord t.s g x.loc
        let ws := held.getD now
        let outs (ws : List (RWord 32)) : List (Nat × LaneOut) :=
          [(0, { srcs := x.srcs ++ ws.map fun w => { v := 0, bad := false, ok := sound w, wher := 0, reg := 0 } })]
        let same : Nat → Nat → Nat := fun _ v => v
        let n := f.dst.toNat
        let t := (if held.isSome then t
          else (({ t with s := if anyLocked t.s g [x.loc] then t.s.crewEvent t.w.crew 2 0x08 else t.s } : Th).subs sub).observe [x.loc]).acquires f
        let fin (t : Th) (ws : List (RWord 32)) : Res := .done ({ t with s := t.s.keepRecord g x.loc ws }.setRecord n ws)
        twoTries t false (tryFails (outs ws) same) (tryFails (outs now) same) (fun t => fin t ws) (fun t => fin t now)

/-- The words of Qn as store data. -/
def Th.srcQ (t : Th) (n wher : Nat) (words : List Nat) : List Src :=
  words.map fun i =>
    let x := t.qword n i
    { v := x.v.toNat, bad := bad x, ok := sound x, wher := wher, reg := n }

/-- STQ (R242). -/
def execStq (f : Fields) : State → Host.Outcome State Fault Refusal :=
  issue (.stq f) f kC fun t ex =>
    let a := recAcc 0xAA { w := true }
    let data (_ : Nat) : List Src := t.srcQ f.sc.toNat 3 (List.range 16)
    access t f a false ex data fun t ps => storeRun t f a ps data

/-- The bits of a shape field (R243). -/
def qField (n : Nat) : Nat × Nat :=
  if n = 0 then (63, 0) else if n = 1 then (95, 64)
  else if n ≤ 7 then (127 + 32 * (n - 2), 96 + 32 * (n - 2))
  else if n ≤ 13 then (319 + 32 * (n - 8), 288 + 32 * (n - 8))
  else (509, 480)

/-- The words of a shape field. -/
def qFieldWords (n : Nat) : List Nat :=
  let (hi, lo) := qField n
  (List.range (hi / 32 + 1 - lo / 32)).map fun j => lo / 32 + j

/-- SETQ (R243). -/
def execSetq (f : Fields) : State → Host.Outcome State Fault Refusal :=
  issue (.setq f) f kC fun t _ =>
    let x : Src := if f.immf then { v := f.hi.toNat, bad := false, ok := true, wher := 2, reg := 0 } else t.srcS 64 f.sb.toNat 2
    let n := f.sc.toNat
    checked t 0xAB [x] fun t =>
      .done ((qFieldWords n).foldl (fun t i =>
        t.setQ f.dst.toNat i (mkP x.bad (BitVec.ofNat 32 (x.v / 2 ^ (32 * (i - (qField n).2 / 32))) &&& qMask i))) t)

/-- GETQ (R243). -/
def execGetq (f : Fields) : State → Host.Outcome State Fault Refusal :=
  issue (.getq f) f kC fun t _ =>
    let n := f.sc.toNat
    let srcs := t.srcQ f.sa.toNat 1 (qFieldWords n)
    let raw := srcs.foldr (fun x a => x.v + 2 ^ 32 * a) 0
    let v := if n = 14 then raw % 2 ^ 30 else if 8 ≤ n && n ≤ 13 then ofSigned 64 (toSigned 32 raw) else raw
    splitCheck t f.dst.toNat (checked t 0xAC srcs fun t =>
      .done (t.setS f.dst.toNat (mkP (srcs.any (·.bad)) (BitVec.ofNat 64 v))))

/-! ## Cache maintenance (R244) -/

/-- Is a cached block a copy of the line of place `m`: its home block, or the replica of a die? -/
def sameLine (m : MemAt) (b : Nat) : Bool :=
  b == m.home || (m.rep && b % 2 ^ 31 == m.home % 2 ^ 31 && b < 2 ^ 34)

/-- Drop the copies of a line within the extent: this core's L1D, the die, or the package. -/
def dropWithin (s : State) (core scope : Nat) (m : MemAt) : State :=
  let die := core / 48
  let s := s.dropL1 fun c => sameLine m c.blk &&
    (if scope = 2 then c.core == core else if scope = 3 then c.core / 48 == die else true)
  if scope = 2 then s else s.dropWay fun c => sameLine m c.blk && (scope == 4 || c.die == die)

/-- CMAINT on the block of an address: `wb` waits for this wave's stores, `inv` for the core's, then drops copies. -/
def cmaint (wb inv : Bool) (f : Fields) (t : Th) (ex : BitVec 64) : Res :=
  let a : Acc := { op := 0xAD, c := true, n := 1, align := 1, nd := { r := true } }
  access t f a false ex noData fun t ps => checkPlaced t a ps noData fun t =>
    match ps with
    | { lane := _, loc := .mem _ _ m, srcs := _ } :: _ =>
      let own := t.s.pending t.w.coreN m.home
      if inv && !own.isEmpty || wb && own.any fun p => p.wk == t.wk then .hold t
      else if inv then .done { t with s := dropWithin t.s t.w.coreN (mScope f).toNat m }
      else .done t
    | _ => .done t

/-- CMAINT .wb (R244). -/
def execCmaintWb (f : Fields) : State → Host.Outcome State Fault Refusal :=
  issue (.cmaintWb f) f kC (cmaint true false f)

/-- CMAINT .inv (R244). -/
def execCmaintInv (f : Fields) : State → Host.Outcome State Fault Refusal :=
  issue (.cmaintInv f) f kC (cmaint false true f)

/-- CMAINT .wbinv (R244). -/
def execCmaintWbinv (f : Fields) : State → Host.Outcome State Fault Refusal :=
  issue (.cmaintWbinv f) f kC (cmaint true true f)

/-- CMAINT .zero (R244). -/
def execCmaintZero (f : Fields) : State → Host.Outcome State Fault Refusal :=
  issue (.cmaintZero f) f kC fun t ex =>
    let a : Acc := { op := 0xAD, c := true, n := 1, align := 1, nd := { w := true } }
    access t f a false ex noData fun t ps => checkPlaced t a ps noData fun t =>
      captured t (ps.map (·.loc)) fun t =>
        let g := t.agent
        .done (({ t with s := ps.foldl (fun s x => s.storeLoc g x.loc 0xFFFFFFFFFFFFFFFF 0 0 rawPair false false) t.s } : Th).made
          t.s.ms.nextSid)

/-! ## Saving and restoring loop levels (R158, R159) -/

/-- Raise LOOP_NEST when another path of the wave is inside an open level. -/
def aloneInLoops (t : Th) (k : Res) : Res :=
  if (t.w.paths ++ t.w.spilled).any fun q => q.eid != t.p.eid && q.st != .join && q.ldep != 0 then
    .trap t { cause := cLoopNest, info := t.w.d - 1 }
  else k

/-- LSAVE and LREST name a 128-byte record. -/
def levelAcc (op : Nat) (nd : Need) : Acc := { op := op, c := true, n := 128, align := 128, nd := nd }

/-- The words of the four levels as store data: REG is the level. -/
def levelData (t : Th) (_ : Nat) : List Src :=
  (List.range 32).map fun i =>
    let x := (t.w.level (i / 8)).word (i % 8)
    { v := x.v.toNat, bad := bad x, ok := sound x, wher := 6, reg := i / 8 }

/-- LSAVE (R158). -/
def execLsave (f : Fields) : State → Host.Outcome State Fault Refusal :=
  issue (.lsave f) f kC fun t ex =>
    let a := levelAcc 0x29 { w := true }
    let data := levelData t
    aloneInLoops t (access t f a false ex data fun t ps =>
      let close (p : Path) : Path := { p with ldep := 0, sdep := if p.st == .join then p.ldep else 0 }
      match storeRun t f a ps data with
      | .done t =>
        let shut (w : Wave) (n : Nat) : Wave := w.setLevel n (w.level n).closed
        let w := (List.range 4).foldl shut { t.w with d := 0, paths := t.w.paths.map close, spilled := t.w.spilled.map close }
        .done { t with w := w, p := close t.p }
      | r => r)

/-- The lowest reason for which a level of a record is invalid (R159). -/
def levelBad (l : LoopLevel) : Bool :=
  fld l.bits 228 224 != 0 ||
  (l.bits.getLsbD 255 &&
    (l.rot % 8 != 0 || 64 < l.rot || 8 < l.stg || (l.rot == 0 && l.rrb != 0) || (l.rot != 0 && l.rot ≤ l.rrb) ||
     l.ncnt == 0 || l.rem == 0 || l.iter + l.rem != l.ncnt + max l.stg 1 - 1 ||
     fld l.starta 5 3 != 0 || 4 < l.starta.toNat % 8 || fld l.enda 5 3 != 0 || 4 < l.enda.toNat % 8 ||
     linear l.enda < linear l.starta))

/-- LREST; TINFO of LOOP_NEST names the innermost open level, or the first level of the record that is open above a closed
one (R151, R158, R159). (DEDUCED; log 25) -/
def execLrest (f : Fields) : State → Host.Outcome State Fault Refusal :=
  issue (.lrest f) f kC fun t ex =>
    let a := levelAcc 0x2A { r := true }
    aloneInLoops t (access t f a false ex noData fun t ps => loadRun t f a ps fun t got =>
      let ws := match got with
        | (_, l) :: _ => l
        | [] => []
      let level (n : Nat) : LoopLevel := levelOf (BitVec.ofNat 256 (joinGot ((ws.drop (8 * n)).take 8)))
      let levels := (List.range 4).map level
      let isOpen (l : LoopLevel) : Bool := l.bits.getLsbD 255
      let m := (levels.takeWhile isOpen).length
      if ws.any (·.bad) then .trap t (poisonUse 5 0 0 (laneAddr t f false 0))
      else if t.w.d != 0 then .trap t { cause := cLoopNest, info := t.w.d - 1 }
      else if (levels.drop m).any isOpen then
        .trap t { cause := cLoopNest, info := ((List.range 4).find? fun n => m < n && isOpen (level n)).getD 0 }
      else match (List.range 4).find? fun n => levelBad (level n) with
        | some n => .trap t (loopRange n 6)
        | none =>
          -- joins of splits made inside the levels are inside them again (R148)
          let within (p : Path) : Path := if p.st == .join then
            { p with ldep := BitVec.ofNat 3 (max p.ldep.toNat (min m p.sdep.toNat)), sdep := 0 } else p
          let w := (List.range 4).foldl (fun w n => w.setLevel n (level n)) { t.w with
            d := m, paths := t.w.paths.map within, spilled := t.w.spilled.map within }
          .done { t with w := w, p := { t.p with ldep := BitVec.ofNat 3 m } })

end Sys2Proof.Machine
end

