-- ==== Sys2Proof/Machine/Objects.lean ====
section
/-!
DEFINITION. Completion objects, and the sides of channels (R277 to R281).
-/
namespace Sys2Proof.Machine

/-- A completion object: its four words, and whether any half of one is poison (R277). -/
structure Obj where
  w0  : BitVec 64
  w1  : BitVec 64
  w2  : BitVec 64
  w3  : BitVec 64
  psn : Bool
deriving DecidableEq, Repr

/-- The object of eight words. -/
def objOf (w : Nat → RWord 32) : Obj :=
  let d (i : Nat) : BitVec 64 := join64 (w (2 * i)) (w (2 * i + 1))
  { w0 := d 0, w1 := d 1, w2 := d 2, w3 := d 3, psn := (List.range 8).any fun i => bad (w i) }

/-- The object at a place, as an update finds it. -/
def objAt (s : State) (g : Agent) (l : Loc) : Obj := objOf fun i => homeWord s g (shiftLoc s g 0 l (4 * i))

/-- Write one 64-bit word of an object if it differs. -/
def putObjWord (s : State) (g : Agent) (l : Loc) (i : Nat) (old new : BitVec 64) : State :=
  if old == new then s
  else
    let s := putHomeWord s g (mkW (new.extractLsb' 0 32)) (shiftLoc s g 0 l (8 * i))
    putHomeWord s g (mkW (new.extractLsb' 32 32)) (shiftLoc s g 0 l (8 * i + 4))

/-- Write the words of an object that an update changed; copies of its block are invalidated (R319, R330). -/
def State.putObj (s : State) (g : Agent) (l : Loc) (old new : Obj) : State :=
  let s := putObjWord s g l 0 old.w0 new.w0
  let s := putObjWord s g l 1 old.w1 new.w1
  let s := putObjWord s g l 2 old.w2 new.w2
  (putObjWord s g l 3 old.w3 new.w3).announced g [l]

/-- One indivisible update; refused when a word is poison (R278). -/
def State.updObj (s : State) (g : Agent) (l : Loc) (f : Obj → Obj) : Option State :=
  let o := objAt s g l
  if o.psn then none else some (s.putObj g l o (f o))

def Obj.parr (o : Obj) : Nat := fld o.w0 63 48
def Obj.pbytes (o : Obj) : Nat := fld o.w0 47 0
def Obj.phase (o : Obj) : Bool := o.w1.getLsbD 16
def Obj.isErr (o : Obj) : Bool := o.w1.getLsbD 39
def Obj.esub (o : Obj) : Nat := fld o.w1 47 40

/-- Subcodes of ENGINE_ERROR (R276). -/
def eShape : Nat := 1
def eFormat : Nat := 2
def eIndex : Nat := 3
def ePoison : Nat := 4
def eOverlap : Nat := 5
def eFault : Nat := 6
def eStale : Nat := 7
def eCount : Nat := 9
def eResidue : Nat := 10
def eColl : Nat := 11
def eCancel : Nat := 12
def eLaunch : Nat := 13

/-- Set ERR with the first error's ESUB; 0 is no error (R278). -/
def Obj.fail (o : Obj) (sub : Nat) : Obj :=
  if sub = 0 || o.isErr then o else { o with w1 := setBit (setFld o.w1 47 40 sub) 39 true }

/-- A lowering update by agent `ident`: `n` counted bytes, an arrival if `arr`, an error if `sub` is not 0; the phase
flips when it leaves nothing awaited (R278). -/
def Obj.lower (ident : BitVec 16) (n : Nat) (arr : Bool) (sub : Nat) (o : Obj) : Obj :=
  let stray := arr && o.parr == 0
  let parr := if arr && o.parr != 0 then o.parr - 1 else o.parr
  let pb := o.pbytes - n
  let o := o.fail (if sub = 0 && stray then eCount else sub)
  if (n != 0 || (arr && !stray)) && parr == 0 && pb == 0 then
    { o with
      w0 := BitVec.ofNat 64 (fld o.w1 15 0 * 2 ^ 48),
      w1 := setFld (setBit o.w1 16 (!o.phase)) 63 48 ident.toNat, w2 := 0 }
  else { o with w0 := BitVec.ofNat 64 (parr * 2 ^ 48 + pb) }

/-- Does the object have room for `n` more bytes (R278)? -/
def Obj.fits (o : Obj) (n : Nat) : Bool := o.pbytes + n < 2 ^ 48

/-- Accept `n` more bytes. -/
def Obj.addBytes (n : Nat) (o : Obj) : Obj := { o with w0 := setFld o.w0 47 0 (o.pbytes + n) }

/-! ## Channels (R280, R281) -/

/-- An index with its phase advanced by `n` slots (R280). -/
def advance (scount : Nat) (x : BitVec 17) (n : Nat) : BitVec 17 :=
  let v := fld x 15 0 + n
  let ph : Bool := x.getLsbD 16 != (scount ≤ v)
  BitVec.ofNat 17 (v % scount + (if ph then 2 ^ 16 else 0))

def Chan.occ (c : Chan) : Nat :=
  let p := fld c.prod 15 0
  let q := fld c.cons 15 0
  if p = q then (if c.prod == c.cons then 0 else c.scount) else (p + c.scount - q) % c.scount

def Chan.room (c : Chan) : Nat := c.scount - c.occ

/-- Channel `k` of a crew, when it is bound. -/
def State.chan (s : State) (crew k : Nat) : Option Chan := (s.crew crew).bind fun c => slook c.chans k

def State.putChan (s : State) (crew k : Nat) (x : Option Chan) : State :=
  { s with crews := lmod s.crews (fun c => c.h == crew) fun c =>
      { c with chans := match x with | some x => sput c.chans k x | none => sdel c.chans k } }

/-- The 16 bytes of a channel record's words 2 and 3; the pair of their block stays (R280). -/
def chanWords (c : Chan) : List (RWord 32) :=
  [mkW (c.prod.zeroExtend 32), zw 32, mkW (c.cons.zeroExtend 32), zw 32]

/-- The channel with new pointers, rewritten in its record. (DEDUCED; log 49) -/
def State.setPointers (s : State) (crew k : Nat) (c : Chan) : State :=
  (s.putChan crew k (some c)).modScr crew fun m => m.putWords ((c.off + 16) / 4) (chanWords c)

/-- The operations of a crew that hold a side of channel `k`, oldest first: the producer side is the output of an
operation, the consumer side the input (R281). -/
def State.holders (s : State) (crew k : Nat) (prod : Bool) : List EngOp :=
  s.ops.filter fun o => o.crew == crew && (if prod then o.ko == some k else o.ki == some k)

end Sys2Proof.Machine
end

