-- ==== Sys2Proof/Machine/VecFloat.lean ====
section
/-!
DEFINITION. Floating-point and conversion instructions: opcodes 0x70 to 0x83 (R183 to R201).
-/
namespace Sys2Proof.Machine

/-- A result whose predicted residue is that of the pattern delivered by the rounder (R184). -/
def patOut (ty : Nat) (srcs : List Src) (v : Nat) : LaneOut :=
  let x := regForm ty (if tyW ty = 64 then 64 else 32) v
  { srcs := srcs, v := x, chk := fun y => y % 15 == x % 15 }

/-- The generator of a lane as a source (R35, R176). -/
def Th.srcGen (t : Th) (L : Nat) : Src :=
  let g := t.gen L
  { v := g.v.toNat, bad := bad g, ok := sound g, wher := 5, reg := 0 }

/-- A result that is rounded once to type `ty`: under .rs the lane steps its generator first (R34, R184, R185). -/
def roundOut (t : Th) (f : Fields) (ty L : Nat) (srcs : List Src) (x : FV) (low : Option Int) : LaneOut :=
  let rm := f.rm.toNat
  let g := genStep (t.gen L).v
  let o := patOut ty (if rm = 5 then srcs ++ [t.srcGen L] else srcs)
    (roundTo ty { rm := rm, sat := f.sat, st := g.toNat, low := low } x)
  if rm = 5 then { o with gen := some g } else o

/-- Source B in a floating type (R107). -/
def Th.srcBF (t : Th) (f : Fields) (L : Nat) : Src :=
  let ty := f.ty.toNat
  let x := f.hi.toNat
  if f.immf then
    { v := if ty = 12 then roundFp 12 { rm := 0, sat := false, st := 0 } (decodeF 11 x) else x % 2 ^ tyW ty,
      bad := false, ok := true, wher := 2, reg := 0 }
  else t.srcB f (tyW ty) L

/-- A floating instruction of two sources, rounded once (R186). -/
def vecF2 (op : Nat) (f : Fields) (g : Bool → FV → FV → FV) (t : Th) (ex : BitVec 64) : Res :=
  let ty := f.ty.toNat
  runVec t f op (tyW ty == 64) ex fun L =>
    let a := t.srcA f (tyW ty) L
    let b := t.srcBF f L
    roundOut t f ty L [a, b] (g (f.rm == 3) (decodeF ty a.v) (decodeF ty b.v)) none

/-- A floating instruction of one source, rounded once (R186). -/
def vecF1 (op : Nat) (f : Fields) (g : FV → FV) (t : Th) (ex : BitVec 64) : Res :=
  let ty := f.ty.toNat
  runVec t f op (tyW ty == 64) ex fun L =>
    let a := t.srcA f (tyW ty) L
    roundOut t f ty L [a] (g (decodeF ty a.v)) none

/-- VFADD (R186). -/
def execVfadd (f : Fields) : State → Host.Outcome State Fault Refusal :=
  issue (.vfadd f) f kL (vecF2 0x70 f fun down a b => FV.add down a b)

/-- VFSUB (R186). -/
def execVfsub (f : Fields) : State → Host.Outcome State Fault Refusal :=
  issue (.vfsub f) f kL (vecF2 0x71 f fun down a b => FV.add down a b.neg)

/-- VFMUL (R186). -/
def execVfmul (f : Fields) : State → Host.Outcome State Fault Refusal :=
  issue (.vfmul f) f kL (vecF2 0x72 f fun _ a b => FV.mul a b)

/-- VFMA: one exact product and sum, rounded once, under the signs of SUB (R187). -/
def execVfma (f : Fields) : State → Host.Outcome State Fault Refusal :=
  issue (.vfma f) f kL fun t ex =>
    let ty := f.ty.toNat
    let w := tyW ty
    let sub := f.sub.toNat
    runVec t f 0x73 (w == 64) ex fun L =>
      let a := t.srcA f w L
      let b := t.srcBF f L
      let c := t.srcC f w L
      let p := FV.mul (decodeF ty a.v) (decodeF ty b.v)
      let z := decodeF ty c.v
      let x := FV.add (f.rm == 3) (if sub / 2 = 1 then p.neg else p) (if sub % 2 = 1 then z.neg else z)
      roundOut t f ty L [a, b, c] x none

/-- The selection of VFMIN and VFMAX (R189): is `b` beyond `a` in the direction chosen, −0 below +0? -/
def fpBeyond (max : Bool) (a b : FV) : Bool :=
  match FV.cmp a b with
  | some .lt => max
  | some .gt => !max
  | _ => a.sign != b.sign && (a.sign == max)

def vecMinMax (op : Nat) (max : Bool) (f : Fields) (t : Th) (ex : BitVec 64) : Res :=
  let ty := f.ty.toNat
  runVec t f op (tyW ty == 64) ex fun L =>
    let a := t.srcA f (tyW ty) L
    let b := t.srcBF f L
    let x := decodeF ty a.v
    let y := decodeF ty b.v
    let v :=
      if x = .nan || y = .nan then
        (if f.sub == 1 || (x = .nan && y = .nan) then canonNan ty else if x = .nan then b.v else a.v)
      else if fpBeyond max x y then b.v else a.v
    patOut ty [a, b] v

/-- VFMIN (R189). -/
def execVfmin (f : Fields) : State → Host.Outcome State Fault Refusal :=
  issue (.vfmin f) f kL (vecMinMax 0x74 false f)

/-- VFMAX (R189). -/
def execVfmax (f : Fields) : State → Host.Outcome State Fault Refusal :=
  issue (.vfmax f) f kL (vecMinMax 0x75 true f)

/-- A condition of VFCMP (R190). -/
def fpHolds (sub : Nat) (o : Option Ordering) : Bool :=
  match sub, o with
  | 0, o => o == some .eq
  | 1, o => o != some .eq
  | 2, o => o == some .lt
  | 3, o => o == some .lt || o == some .eq
  | 4, o => o == some .gt
  | 5, o => o == some .gt || o == some .eq
  | 6, o => o == none
  | _, o => o != none

/-- VFCMP (R190). -/
def execVfcmp (f : Fields) : State → Host.Outcome State Fault Refusal :=
  issue (.vfcmp f) f kL fun t ex =>
    let ty := f.ty.toNat
    runPred t f 0x76 ex fun L =>
      let a := t.srcA f (tyW ty) L
      let b := t.srcBF f L
      ([a, b], fpHolds f.sub.toNat (FV.cmp (decodeF ty a.v) (decodeF ty b.v)))

/-- VFSGN: only the sign bit changes; its residue follows the identity of R191. -/
def execVfsgn (f : Fields) : State → Host.Outcome State Fault Refusal :=
  issue (.vfsgn f) f kL fun t ex =>
    let ty := f.ty.toNat
    let w := tyW ty
    let two := f.sub.toNat < 3
    runVec t f 0x77 (w == 64) ex fun L =>
      let a := t.srcA f w L
      let b := t.srcBF f L
      let top (x : Nat) : Bool := x.testBit (w - 1)
      let s : Bool := match f.sub.toNat with
        | 0 => top b.v
        | 1 => !top b.v
        | 2 => top a.v != top b.v
        | 3 => false
        | _ => !top a.v
      let srcs := if two then [a, b] else [a]
      if decodeF ty a.v = .nan then patOut ty srcs (canonNan ty)
      else
        let bit (x : Bool) : Int := if x then 1 else 0
        ofVal ty (if w = 64 then 64 else 32) srcs
          { v := a.v % 2 ^ (w - 1) + (if s then 2 ^ (w - 1) else 0), p := ri a.v + 8 * (bit s - bit (top a.v)) }

/-- VFRCP (R188). -/
def execVfrcp (f : Fields) : State → Host.Outcome State Fault Refusal :=
  issue (.vfrcp f) f kL (vecF1 0x78 f FV.recip)

/-- VFRSQ (R188). -/
def execVfrsq (f : Fields) : State → Host.Outcome State Fault Refusal :=
  issue (.vfrsq f) f kL (vecF1 0x79 f FV.rsqrt)

/-- VFEX2 (R188). -/
def execVfex2 (f : Fields) : State → Host.Outcome State Fault Refusal :=
  issue (.vfex2 f) f kL (vecF1 0x7A f FV.exp2)

/-- VFLG2 (R188). -/
def execVflg2 (f : Fields) : State → Host.Outcome State Fault Refusal :=
  issue (.vflg2 f) f kL (vecF1 0x7B f FV.log2)

/-- The class of a pattern (R192). -/
def fpClass (ty pat : Nat) : Nat :=
  let (eb, fb, _) := fpShape ty
  let s := pat.testBit (eb + fb)
  match decodeF ty pat with
  | .nan => if ty = 13 || ty = 14 || pat.testBit (fb - 1) then 9 else 8
  | .inf s => if s then 0 else 7
  | .fin _ m _ _ =>
    if m = 0 then (if s then 3 else 4)
    else if m < 2 ^ fb then (if s then 2 else 5)
    else if s then 1 else 6

/-- VFCLS (R192). -/
def execVfcls (f : Fields) : State → Host.Outcome State Fault Refusal :=
  issue (.vfcls f) f kL fun t ex =>
    let ty := f.ty.toNat
    runVec t f 0x7C false ex fun L =>
      let a := t.srcA f (tyW ty) L
      ofVal 6 32 [a] { v := 2 ^ fpClass ty a.v, p := 2 ^ (fpClass ty a.v % 4) }

/-- VFRND: an integral value of the same format with a's sign (R193). -/
def execVfrnd (f : Fields) : State → Host.Outcome State Fault Refusal :=
  issue (.vfrnd f) f kL fun t ex =>
    let ty := f.ty.toNat
    let w := tyW ty
    let rm := f.rm.toNat
    runVec t f 0x7D (w == 64) ex fun L =>
      let a := t.srcA f w L
      let g := genStep (t.gen L).v
      let v := match decodeF ty a.v with
        | .nan => canonNan ty
        | .inf _ => a.v
        | .fin s m e k =>
          if m = 0 then a.v
          else roundFp ty { rm := 0, sat := false, st := 0 }
            (.fin s (roundMag { rm := rm, sat := false, st := g.toNat } s m e 0 k) 0 false)
      let o := patOut ty (if rm = 5 then [a, t.srcGen L] else [a]) v
      if rm = 5 then { o with gen := some g } else o

/-- VCVT; a type converted to itself is unchanged, its NaN canonical, whatever SAT says of ±∞ (R195, R197). -/
def execVcvt (f : Fields) : State → Host.Outcome State Fault Refusal :=
  issue (.vcvt f) f kL fun t ex =>
    let ty := f.ty.toNat
    let src := f.sub.toNat
    runVec t f 0x7E (tyW ty == 64) ex fun L =>
      let a := t.srcA f (tyW src) L
      let o := roundOut t f ty L [a] (decodeF src a.v) (some (lowPlace src a.v))
      match decodeF src a.v with
      | .inf _ => if src = ty then { patOut ty o.srcs a.v with gen := o.gen } else o
      | _ => o

/-- VSEED: a seed of zero is stored as one, and a poisoned seed as a poisoned state (R198). -/
def execVseed (f : Fields) : State → Host.Outcome State Fault Refusal :=
  issue (.vseed f) f kL fun t ex =>
    let outs := (lanesOf ex).map fun L =>
      let b := if f.immf then immInt f 32 else t.srcB f 32 L
      (L, ({ srcs := guardSrc t f ++ [b], v := if b.v = 0 then 1 else b.v } : LaneOut))
    check t 0x7F false false true outs fun t outs =>
      .done (outs.foldl (fun t x => t.setGen x.1 (mkP x.2.bad (BitVec.ofNat 32 x.2.v))) t)

/-- VFDOT2: exact sum of c and two products of packed halves, rounded once to FP32 (R194). (DEDUCED; log 38) -/
def execVfdot2 (f : Fields) : State → Host.Outcome State Fault Refusal :=
  issue (.vfdot2 f) f kL fun t ex =>
    let ty := f.ty.toNat
    let half (x i : Nat) : FV := decodeF ty (x / 2 ^ (16 * i) % 2 ^ 16)
    runVec t f 0x80 false ex fun L =>
      let a := t.srcA f 32 L
      let b := if f.immf then immInt f 32 else t.srcB f 32 L
      let c := t.srcC f 32 L
      let down := f.rm == 3
      let p (i : Nat) : FV := FV.mul (half a.v i) (half b.v i)
      roundOut t f 11 L [a, b, c] (FV.add down (FV.add down (p 0) (p 1)) (decodeF 11 c.v)) none

/-- VPACK (R199). (DEDUCED; log 38) -/
def execVpack (f : Fields) : State → Host.Outcome State Fault Refusal :=
  issue (.vpack f) f kL fun t ex =>
    let w := tyW f.ty.toNat
    runVec t f 0x81 false ex fun L =>
      let a := t.srcA f w L
      let b := t.srcB f w L
      if w = 16 then ofVal 6 32 [a, b] { v := b.v * 2 ^ 16 + a.v, p := ri a.v + ri b.v }
      else
        let c := t.srcC f 32 L
        let lo := f.sub == 0
        let keep := if lo then c.v / 2 ^ 16 * 2 ^ 16 else c.v % 2 ^ 16
        let at' := if lo then 1 else 2 ^ 16
        ofVal 6 32 [a, b, c] { v := keep + (b.v * 256 + a.v) * at', p := ri a.v + ri b.v + ri keep }

/-- VUNPK (R200). -/
def execVunpk (f : Fields) : State → Host.Outcome State Fault Refusal :=
  issue (.vunpk f) f kL fun t ex =>
    let ty := f.ty.toNat
    let w := tyW ty
    runVec t f 0x82 false ex fun L =>
      let a := t.srcA f 32 L
      let x := a.v / 2 ^ (w * f.sub.toNat) % 2 ^ w
      let neg := tySigned ty && 2 ^ (w - 1) ≤ x
      ofVal ty 32 [a] { v := x, p := ri x + (if neg then ri (2 ^ 32 - 2 ^ w) else 0) }

/-- emax of a VQSCL destination (R201). -/
def emaxOf (ty : Nat) : Int :=
  match ty with
  | 13 => 8
  | 14 => 15
  | 15 => 0
  | _ => 6

/-- VQSCL (R201). -/
def execVqscl (f : Fields) : State → Host.Outcome State Fault Refusal :=
  issue (.vqscl f) f kL fun t ex =>
    let ty := f.ty.toNat
    runVec t f 0x83 false ex fun L =>
      let a := t.srcA f 32 L
      let x := decodeF 11 a.v
      if f.sub == 1 then
        let s : Nat := match x with
          | .fin _ m e _ =>
            if m = 0 then 127 else (min (max (e + Nat.log2 m - emaxOf ty + 127) 0) 254).toNat
          | _ => 0xFF
        ofVal 6 32 [a] (treeVal s)
      else
        let b := if f.immf then immInt f 8 else t.srcB f 8 L
        let k : Int := 127 - (b.v % 256 : Nat)
        let y := if b.v % 256 = 0xFF then .nan else x.scale k
        roundOut t f ty L [a, b] y (some (lowPlace 11 a.v + k))

end Sys2Proof.Machine
end

