-- ==== Sys2Proof/Machine/Shapes.lean ====
section
/-!
DEFINITION. Shape records: their fields, the check of a record, element order and element addresses, sharding, and what
lands in a destination format (R22, R43 to R51, R53, R272, R273).
-/
namespace Sys2Proof.Machine

/-- A shape record taken apart (R43): six extents, strides and sharding codes. -/
structure Shape where
  base : BitVec 64
  rank : Nat
  fmt  : Nat
  lay  : Nat
  idx  : Bool
  shard : Bool
  side : Bool
  carry : Bool
  idxq : Nat
  idx64 : Bool
  ext  : List Nat
  str  : List Int
  shd  : List Nat

/-- The 32-bit word `i` of a record. -/
def recWord (ws : List (RWord 32)) (i : Nat) : W32 := (ws.getD i (zw 32)).v

def shapeOf (ws : List (RWord 32)) : Shape :=
  let c := recWord ws 2
  { base := word64 ws 0, rank := fld c 3 0, fmt := fld c 7 4, lay := fld c 11 8, idx := c.getLsbD 12,
    shard := c.getLsbD 13, side := c.getLsbD 14, carry := c.getLsbD 15, idxq := fld c 19 16, idx64 := c.getLsbD 20,
    ext := (List.range 6).map fun d => (recWord ws (3 + d)).toNat,
    str := (List.range 6).map fun d => (recWord ws (9 + d)).toInt,
    shd := (List.range 6).map fun d => fld (recWord ws 15) (5 * d + 4) (5 * d) }

/-- Element bits by FMT (R45). -/
def fmtBits (fmt : Nat) : Nat := if fmt = 8 then 4 else if fmt = 7 then 32 else if fmt = 5 || fmt = 6 then 16 else 8

/-- Bytes of the element at its address. -/
def fmtBytes (fmt : Nat) : Nat := max (fmtBits fmt / 8) 1

/-- The type code of a format (R45); INT4 has none of its own. -/
def fmtTy (fmt : Nat) : Nat :=
  match fmt with
  | 0 => 2
  | 1 => 1
  | 2 => 13
  | 3 => 14
  | 4 => 15
  | 5 => 10
  | 6 => 9
  | 7 => 11
  | _ => 1

/-- The extents of the record's dimensions. -/
def Shape.dims (q : Shape) : List Nat := q.ext.take q.rank

def prod (l : List Nat) : Nat := l.foldl (· * ·) 1

/-- The sharding codes of the dimensions that are sharded (R51). -/
def Shape.axes (q : Shape) : List Nat := if q.shard then (q.shd.take q.rank).filter fun c => c % 8 != 7 else []

/-- Why a record is malformed, as a subcode (R47, R48, R51, R53). -/
def Shape.problem (q : Shape) : Option Nat :=
  let row := q.str.getD (q.rank - 2) 0
  if q.rank = 0 || 6 < q.rank || 4 < q.lay then some eShape
  else if 2 ≤ q.lay && q.rank = 1 then some eShape
  else if q.lay = 4 && q.fmt ≤ 8 && row * fmtBits q.fmt % 1024 != 0 then some eShape
  else if q.axes.any (fun c => c % 8 == 6 || c / 8 == 3) || (q.axes.map (· % 8)).eraseDups.length != q.axes.length then
    some eShape
  else if 8 < q.fmt then some eFormat
  else none

/-- Local extent of a dimension of global extent `e` under code `c` on rank `p` of `P` (R51). -/
def localExt (e c P p : Nat) : Nat :=
  if c % 8 = 7 || c / 8 = 2 then e
  else if c / 8 = 0 then
    let b := (e + P - 1) / P
    min b (e - p * b)
  else if p < e then (e - p + P - 1) / P else 0

/-- The record of the local shard: `at'` gives ranks and coordinate of an axis. -/
def Shape.local (q : Shape) (at' : Nat → Nat × Nat) : Shape :=
  if !q.shard then q
  else { q with ext := (List.range 6).map fun d =>
    let c := q.shd.getD d 7
    let e := q.ext.getD d 0
    if d < q.rank then localExt e c (at' (c % 8)).1 (at' (c % 8)).2 else e }

/-! ## Addresses (R46 to R48) -/

/-- The element of number `k` in element order over extents (R44). -/
def tupleOf : List Nat → Nat → List Nat
  | [], _ => []
  | _ :: es, k => k / prod es :: tupleOf es (k % prod es)

/-- A number in 64-bit two's complement. -/
def wrap64 (x : Int) : Int := (BitVec.ofInt 64 x).toInt

/-- The matrix part of an offset in bits (R47): row `i`, column `j`. -/
def Shape.matrixBits (q : Shape) (i j : Nat) : Int :=
  let b := fmtBits q.fmt
  let n := q.ext.getD (q.rank - 1) 0
  if q.lay = 2 then
    ((i / 64 * ((n + 63) / 64) + j / 64) * 4096 + i % 64 * 64 + j % 64 : Nat) * b
  else if q.lay = 3 then
    let g := 32 / b
    (i / 8 * 8 * ((n + 63) / 64 * 64) + j / g * 8 * g + i % 8 * g + j % g : Nat) * b
  else
    let m := wrap64 (i * q.str.getD (q.rank - 2) 0 + j) * b
    let low := (m % 1024).toNat
    m - low + (low ^^^ (i % 8 * 128) : Nat)

/-- The byte address of an element, and its nibble for INT4. -/
def Shape.addr (q : Shape) (t : List Nat) : BitVec 64 × Nat :=
  let n := if q.lay < 2 then q.rank else q.rank - 2
  let o := (List.range n).foldl (fun a d => a + (t.getD d 0 : Nat) * q.str.getD d 0) (0 : Int)
  let m := if q.lay < 2 then 0 else q.matrixBits (t.getD (q.rank - 2) 0) (t.getD (q.rank - 1) 0)
  let bits := if q.lay = 4 then wrap64 o * fmtBits q.fmt + m else wrap64 (o + m / fmtBits q.fmt) * fmtBits q.fmt
  (q.base + BitVec.ofInt 64 (bits / 8), (bits / 4 % 2).toNat)

/-- The tuples that bound the addresses of an index-sourced element whatever its index (R274). -/
def Shape.bounds (q : Shape) (t : List Nat) : List (List Nat) :=
  let e := q.ext.headD 0
  if !q.idx then [t]
  else if e = 0 then []
  else if q.lay = 4 && q.rank = 2 then (List.range e).map fun i => i :: t.tail
  else [0 :: t.tail, (e - 1) :: t.tail]

/-- The lowest address and the one past the highest byte of a list of elements (R274). -/
def Shape.interval (q : Shape) (ts : List (List Nat)) : Option (Nat × Nat) :=
  (ts.flatMap q.bounds).foldl (fun m t =>
    let a := (q.addr t).1.toNat
    let b := a + fmtBytes q.fmt
    match m with
    | none => some (a, b)
    | some (x, y) => some (min x a, max y b)) none

/-! ## Values (R45, R56, R272, R273) -/

/-- The value of a pattern of a format. -/
def fmtValue (fmt pat : Nat) : FV :=
  if fmt = 8 then ofInt (toSigned 4 (pat % 16)) 0 else decodeF (fmtTy fmt) pat

/-- A value times its block scale; scale 0xFF reads as NaN (R29). -/
def scaled (scale : Nat) (x : FV) : FV := if scale = 0xFF then .nan else x.scale (scale - 127)

/-- An integer value wrapped, or clamped under SAT, to `w` bits (R32, R272). -/
def landInt (w : Nat) (sgn sat : Bool) (v : Int) : Nat :=
  if sat then ofSigned w (max (tyLo sgn w) (min (tyHi sgn w) v)) else ofSigned w v

/-- The pattern that a value lands as; `int` marks an unscaled value of an integer format (R272). (DEDUCED; log 36) -/
def landPat (fmt rm : Nat) (sat int : Bool) (x : FV) : Nat :=
  let r : Rounding := { rm := rm, sat := sat, st := 0 }
  let w := fmtBits fmt
  if fmt = 0 || fmt = 1 || fmt = 8 then
    match x with
    | .fin s m e more =>
      if int && !more && 0 ≤ e then landInt w (fmt != 0) sat ((if s then -1 else 1) * m * 2 ^ e.toNat)
      else roundIntW w (fmt != 0) r x
    | _ => roundIntW w (fmt != 0) r x
  else roundTo (fmtTy fmt) r x

/-- emax of a destination under ASCL (R273). -/
def emaxFmt (fmt : Nat) : Int := if fmt = 8 then 2 else emaxOf (fmtTy fmt)

/-- May the format take an adaptive scale (R273)? -/
def asclFmt (fmt : Nat) : Bool := (1 ≤ fmt && fmt ≤ 4) || fmt == 8

/-- The scale of a block from the values that land in it (R273). -/
def asclScale (fmt : Nat) (xs : List FV) : Nat :=
  let tops := xs.filterMap fun x => match x with
    | .fin _ m e _ => if m = 0 then none else some (e + Nat.log2 m)
    | _ => none
  match tops with
  | [] => 127
  | t :: ts => (min (max (ts.foldl max t - emaxFmt fmt + 127) 0) 254).toNat

end Sys2Proof.Machine
end

