-- ==== Sys2Proof/Machine/Engine.lean ====
section
/-!
DEFINITION. Engine operations as far as their acceptance, channel instructions and XSTAT: opcodes 0xC0 to 0xCA (R49 to
R53, R267 to R271, R277 to R283).
-/
namespace Sys2Proof.Machine

/-! ## What an operation is to do -/

def EngOp.isFill (o : EngOp) : Bool := o.kind == 0xC4
def EngOp.isForm (o : EngOp) : Bool := o.kind == 0xC3
def EngOp.isColl (o : EngOp) : Bool := o.kind == 0xC5
def EngOp.srcShape (o : EngOp) : Shape := shapeOf o.src
def EngOp.dstShape (o : EngOp) : Shape := shapeOf o.dst
def EngOp.srcIxShape (o : EngOp) : Shape := shapeOf o.srcIx
def EngOp.dstIxShape (o : EngOp) : Shape := shapeOf o.dstIx

/-- Is a side bound to a channel (R281)? -/
def EngOp.bound (o : EngOp) : Bool := o.ki.isSome || o.ko.isSome

/-- The extents over which the elements of a record with index record `x` are ordered (R44, R49). -/
def Shape.order (q x : Shape) : List Nat := if q.idx then x.ext.headD 0 :: q.dims.tail else q.dims

def EngOp.srcOrder (o : EngOp) : List Nat := o.srcShape.order o.srcIxShape
def EngOp.dstOrder (o : EngOp) : List Nat := o.dstShape.order o.dstIxShape

/-- perm[d] (R270). -/
def EngOp.perm (o : EngOp) (d : Nat) : Nat := fld o.opnd (3 * d + 2) (3 * d)

/-- Is the source, or the destination, of an XFORM the unbound side of a channel-bound one, cut along dimension 0
(R281)? -/
def EngOp.cutSrc (o : EngOp) : Bool := o.isForm && o.ko.isSome && o.ki.isNone
def EngOp.cutDst (o : EngOp) : Bool := o.isForm && o.ki.isSome && o.ko.isNone

/-- The extents of a side as one firing of an XFORM sees them. -/
def formDims (q : Shape) (cut : Bool) (nf : Nat) : List Nat :=
  if cut then q.ext.headD 0 / nf :: q.dims.tail else q.dims

/-- Does XFORM pair the extents of its two records (R270, R281)? -/
def EngOp.formOk (o : EngOp) : Bool :=
  let s := o.srcShape
  let d := o.dstShape
  let r := d.rank
  let se := formDims s o.cutSrc o.nf
  let de := formDims d o.cutDst o.nf
  let ps := (List.range r).map o.perm
  (!o.cutSrc || s.ext.headD 0 % o.nf == 0) && (!o.cutDst || d.ext.headD 0 % o.nf == 0) && s.rank == r &&
    (List.range r).all (fun i => ps.contains i) && (List.range r).all fun i => de.getD i 0 == se.getD (o.perm i) 0

/-- Elements of one firing on a side of `n` elements; none when the side does not divide (R281). -/
def EngOp.perFiring (o : EngOp) (n : Nat) (bnd : Bool) : Option Nat :=
  if bnd then some n else if n % o.nf = 0 then some (n / o.nf) else none

/-- Elements of one firing. -/
def EngOp.per (o : EngOp) : Nat := (o.perFiring (prod o.dstOrder) o.ko.isSome).getD 0

/-- Destination bytes of the whole operation. -/
def EngOp.bytes (o : EngOp) : Nat := (o.per * o.nf * fmtBits o.dstShape.fmt + 7) / 8

/-- Destination bytes of firing `f`. -/
def EngOp.firingBytes (o : EngOp) (f : Nat) : Nat := o.bytes * (f + 1) / o.nf - o.bytes * f / o.nf

/-- Does every element of a bound record lie within the bytes of one firing (R281)? Index-sourced ones are judged as they
are read. -/
def EngOp.inSlots (s : State) (o : EngOp) (q : Shape) (k : Option Nat) : Bool :=
  match k.bind (s.chan o.crew) with
  | none => true
  | some c => q.idx ||
    (List.range (prod q.dims)).all fun i => (q.addr (tupleOf q.dims i)).1.toNat + fmtBytes q.fmt ≤ c.fire * c.ssize

/-- Why the index record `x` of record `q` from register Qn is malformed (R49, R53). -/
def indexProblem (q x : Shape) (n : Nat) : Option Nat :=
  if !q.idx then none
  else match ({ x with fmt := 0 } : Shape).problem with
    | some e => some e
    | none => if x.rank != 1 || x.idx || q.idxq == n then some eShape else none

/-- Why the copied records cannot be paired, as a subcode (R49, R53, R270, R281); XCOLL's counts are judged with its
crowd record. Within a record SHAPE comes before FORMAT, and the source is judged before the destination and both before
their index records: the spec names no order. (DESIGN CHOICE; log 62) -/
def EngOp.problem (s : State) (o : EngOp) : Option Nat :=
  let d := o.dstShape
  let q := o.srcShape
  let fill := o.isFill
  match (if fill then none else q.problem) <|> d.problem with
  | some e => some e
  | none =>
    if !o.isColl && ((!fill && q.idx) != (o.kind == 0xC1) || d.idx != (o.kind == 0xC2)) then some eShape
    else match (if fill then none else indexProblem q o.srcIxShape o.srcQ) <|> indexProblem d o.dstIxShape o.dstQ with
    | some e => some e
    | none =>
      if o.isColl then none
      else if o.isForm && !o.formOk then some eShape
      else
        let nd := o.perFiring (prod o.dstOrder) o.ko.isSome
        let ns := o.perFiring (prod o.srcOrder) o.ki.isSome
        if nd.isNone || (!fill && ns != nd) then some eShape
        else if !o.inSlots s d o.ko || (!fill && !o.inSlots s q o.ki) then some eShape
        else none

/-! ## Acceptance (R268, R277) -/

/-- A record with the local extents of its shard in place of the global ones (R51). -/
def localRec (ws : List (RWord 32)) (at' : Nat → Nat × Nat) : List (RWord 32) :=
  let q := (shapeOf ws).local at'
  (List.range 16).map fun i =>
    if 3 ≤ i && i < 9 then mkP (bad (ws.getD i (zw 32))) (BitVec.ofNat 32 (q.ext.getD (i - 3) 0)) else ws.getD i (zw 32)

/-- Ranks and coordinate of an axis where no crowd record names them: free values (R51; log 8). (DEDUCED; log 50) -/
def freeAxis (s : State) (a : Nat) : Nat × Nat :=
  let P := (Config.freeWord (s.ix (9000 + 2 * a))).toNat % 65536 + 1
  (P, (Config.freeWord (s.ix (9001 + 2 * a))).toNat % P)

/-- Is the package in no domain, so that no collective can run (R397)? -/
def State.noDomain (s : State) : Bool := fld (s.pkgReg 0x100) 25 16 = 0x3FF

/-- Accept an operation: its records are checked, its bytes counted in, its promise written; one that must stop is
accepted with its subcode (R52, R53, R268, R277, R278). The sharded records of every operation have the local extents, those of
XCOLL too, of which the spec does not say so. (DESIGN CHOICE; log 62) -/
def State.acceptOp (s : State) (o : EngOp) (at' : Nat → Nat × Nat) : State :=
  let o := { o with src := localRec o.src at', dst := localRec o.dst at', srcIx := localRec o.srcIx at',
                    dstIx := localRec o.dstIx at' }
  let add (s : State) (o : EngOp) : State := { s with ops := s.ops ++ [o], nextH := o.h + 1 }
  let stop (sub : Nat) : State := add s { o with stop := some (BitVec.ofNat 8 sub) }
  match o.problem s with
  | some e => stop e
  | none =>
    if o.isColl && s.noDomain then stop eColl else
    let n := o.bytes
    match o.obj with
    | none => add s { o with left := n }
    | some off =>
      let g := o.agent s
      let x := objAt s g (.ls off)
      if x.psn then stop ePoison
      else if !x.fits n then stop eCount
      else
        let s := s.putObj g (.ls off) x (x.addBytes n)
        if o.bound || o.isColl then add s { o with left := n }
        else
          let T := max s.ptime.toNat (sget 0 s.courier o.core).toNat + 250 + (n + 127) / 128
          let x := objAt s g (.ls off)
          let s := s.putObj g (.ls off) x { x with w2 := BitVec.ofNat 64 (max x.w2.toNat T) }
          add { s with courier := sset 0 s.courier o.core (BitVec.ofNat 64 T) } { o with left := n }

/-! ## The data instructions -/

/-- CHANNEL_ERROR (R282). -/
def chanErr (reason k : Nat) : Trap := { cause := cChannelError, info := k * 256 + reason }

/-- The cause that a channel side named by an engine instruction raises (R282). -/
def sideErr (t : Th) (v : Bool) (k : Nat) (prod : Bool) : Option Trap :=
  if !v then none
  else match t.s.chan t.w.crew k with
  | none => some (chanErr 3 k)
  | some c => if (if prod then c.pAdv else c.cAdv) then some (chanErr 7 k) else none

/-- The scratchpad offset of a generic address, when `n` bytes there lie in the crew's allotment. -/
def lsPlace (t : Th) (a : BitVec 64) (n : Nat) : Option Nat :=
  match apLoc t.s t.agent {} n (0, a) with
  | some (some (.ls o)) => some o
  | _ => none

/-- The words of record Qn that an operation uses: of its r dimensions the extents, and the strides that its layout does not
ignore, and the sharding codes where it is sharded (R44, R47, R51, R53). -/
def usedWords (t : Th) (n : Nat) : List Nat :=
  let c := (t.qword n 2).v
  let r := min (fld c 3 0) 6
  let strides := match fld c 11 8 with
    | 2 | 3 => r - 2
    | 4 => r - 1
    | _ => r
  [0, 1, 2] ++ (List.range r).map (3 + ·) ++ (List.range strides).map (9 + ·) ++ (if c.getLsbD 13 then [15] else [])

/-- The index record that Qn names, if it is index-sourced. -/
def indexOf (t : Th) (n : Nat) : Option Nat :=
  let c := (t.qword n 2).v
  if c.getLsbD 12 then some (fld c 19 16) else none

/-- The operation that an engine instruction asks for. -/
def opOf (t : Th) (kind : Nat) (f : Fields) (obj : Option Nat) : EngOp :=
  let sa := f.sa.toNat
  let sb := f.sb.toNat
  let fill := kind == 0xC4
  let none16 : List (RWord 32) := List.replicate 16 (zw 32)
  let ix (n : Nat) : List (RWord 32) := match indexOf t n with | some i => t.qrec i | none => none16
  let nums (v : Bool) (k : Nat) : Option Nat := if v then some k else none
  { h := t.s.nextH, kind := BitVec.ofNat 8 kind, coll := f.sub, core := t.w.coreN, wk := t.wk,
    ident := identOf t.w ||| 1, pasid := t.w.pasid, crew := t.w.crew, ia := t.p.pia, hm := t.w.hmode,
    src := if fill then none16 else t.qrec sa, dst := t.qrec sb, srcQ := sa, dstQ := sb,
    srcIx := if fill then none16 else ix sa, dstIx := ix sb, crowd := [],
    opnd := (t.sreg f.sc.toNat).v, obj := obj, arr := f.hi.getLsbD 16, ascl := f.hi.getLsbD 17, rm := f.rm,
    sat := f.sat, nf := fld f.hi 31 24 + 1, ki := nums (eKiv f) (eKi f).toNat, ko := nums (eKov f) (eKo f).toNat,
    firing := 0, landed := false, counts := [], left := 0, scales := [], vals := [], subs := [], stall := none, late := none, stop := none }

/-- Issue of an engine operation: the path waits while the core holds 64; the traps are precise; then the operation is
accepted (R267, R268). `axes` gives the shard's place for sharded records. -/
def engine (kind : Nat) (f : Fields) (axes : Th → EngOp → State × (Nat → Nat × Nat)) (t : Th) (_ : BitVec 64) : Res :=
  let d := f.dst.toNat
  let c := f.sc.toNat
  let a := (t.sreg d).v
  let fill := kind == 0xC4
  let named := if fill then [f.sb.toNat] else [f.sa.toNat, f.sb.toNat]
  let recs := uniq (named ++ named.filterMap (indexOf t))
  let words := recs.flatMap fun n => t.srcQ n 1 (usedWords t n)
  let place : Option Nat := lsPlace t a 32
  if 64 ≤ (t.s.ops.filter fun o => o.core == t.w.coreN).length then .hold t
  else match sideErr t (eKiv f) (eKi f).toNat false <|> sideErr t (eKov f) (eKo f).toNat true with
  | some x => .trap t x
  | none =>
    if bad (t.sreg d) then .trap t (poisonUse 0 d)
    else if bad (t.sreg c) then .trap t (poisonUse 5 c)
    else if d != 0 && place.isNone then .trap t { cause := cAperture, addr := a }
    else if d != 0 && a.toNat % 32 != 0 then .trap t { cause := cMisaligned, addr := a }
    else match words.find? (·.bad) with
    | some x => .trap t (poisonUse 4 x.reg)
    | none => checked t kind ([t.srcS 64 d 0, t.srcS 64 c 3] ++ words) fun t =>
      let o := opOf t kind f (if d = 0 then none else place)
      let r := axes t o
      .done { t with s := r.1.acceptOp o r.2 }

/-- No crowd record: the shard's place is a free value. -/
def freeAxes (t : Th) (_ : EngOp) : State × (Nat → Nat × Nat) := (t.s, freeAxis t.s)

/-- XCOPY (R270). -/
def execXcopy (f : Fields) : State → Host.Outcome State Fault Refusal :=
  issue (.xcopy f) f kC (engine 0xC0 f freeAxes)

/-- XGATH (R270). -/
def execXgath (f : Fields) : State → Host.Outcome State Fault Refusal :=
  issue (.xgath f) f kC (engine 0xC1 f freeAxes)

/-- XSCAT (R270). -/
def execXscat (f : Fields) : State → Host.Outcome State Fault Refusal :=
  issue (.xscat f) f kC (engine 0xC2 f freeAxes)

/-- XFORM (R270). -/
def execXform (f : Fields) : State → Host.Outcome State Fault Refusal :=
  issue (.xform f) f kC (engine 0xC3 f freeAxes)

/-- XFILL (R270). -/
def execXfill (f : Fields) : State → Host.Outcome State Fault Refusal :=
  issue (.xfill f) f kC (engine 0xC4 f freeAxes)

/-! ## Channel instructions (R280, R282) -/

/-- The channel that the words of a record describe, or none where it is malformed (R280). -/
def chanOf (off size : Nat) (ws : List (RWord 32)) : Option Chan :=
  let w0 := word64 ws 0
  let w1 := word64 ws 1
  let ssize := fld w0 51 32
  let sbase := fld w0 31 0
  let fire := fld w1 23 16
  let n := fld w1 15 0
  if fld w0 63 52 != 0 || fld w1 63 24 != 0 || ssize < 64 || ssize % 64 != 0 || sbase % 64 != 0 || fire = 0 || n = 0 ||
      4096 < n || n % fire != 0 || size < sbase + n * ssize then none
  else some { off := off, ssize := ssize, sbase := sbase, fire := fire, scount := n, prod := 0, cons := 0, pAdv := false,
              cAdv := false }

/-- CHBIND (R282). -/
def execChbind (f : Fields) : State → Host.Outcome State Fault Refusal :=
  issue (.chbind f) f kC fun t _ =>
    let k := (eKi f).toNat
    let c := f.sc.toNat
    let crew := t.w.crew
    let busy := !(t.s.holders crew k true).isEmpty || !(t.s.holders crew k false).isEmpty
    let a := (t.sreg c).v
    if c = 0 then (if busy then .trap t (chanErr 8 k) else .done { t with s := t.s.putChan crew k none })
    else if bad (t.sreg c) then .trap t (poisonUse 5 c)
    else match lsPlace t a 32 with
    | none => .trap t (chanErr 5 k)
    | some off =>
      let ws := (crewScr t.s crew).words (off / 4) 4
      if a.toNat % 32 != 0 then .trap t (chanErr 5 k)
      else if busy then .trap t (chanErr 8 k)
      else if ws.any bad then .trap t (poisonUse 5 c)
      else checked t 0xC6 (t.srcS 64 c 3 :: ws.map fun w => { v := 0, bad := false, ok := sound w, wher := 0, reg := 0 }) fun t =>
        match chanOf off ((t.crew.map (·.scrSize)).getD 0) ws with
        | none => .trap t (chanErr 4 k)
        | some x => .done { t with s := t.s.setPointers crew k x }

/-- CHPUT and CHTAKE: advance a side by n; scratchpad stores are performed at once, so the release holds (R314). -/
def chanMove (put : Bool) (f : Fields) (t : Th) (_ : BitVec 64) : Res :=
  let k := (eKi f).toNat
  let n := (eOpf f).toNat
  let crew := t.w.crew
  match t.s.chan crew k with
  | none => .trap t (chanErr 3 k)
  | some c =>
    if c.scount < n then .trap t (chanErr 6 k)
    else if !(t.s.holders crew k put).isEmpty then .trap t (chanErr 7 k)
    else if put then
      if c.room < n then .trap t (chanErr 1 k)
      else .done { t with s := t.s.setPointers crew k { c with prod := advance c.scount c.prod n, pAdv := true } }
    else if c.occ < n then .trap t (chanErr 2 k)
    else .done { t with s := t.s.setPointers crew k { c with cons := advance c.scount c.cons n, cAdv := true } }

/-- CHPUT (R282). -/
def execChput (f : Fields) : State → Host.Outcome State Fault Refusal :=
  issue (.chput f) f kC (chanMove true f)

/-- CHTAKE (R282). -/
def execChtake (f : Fields) : State → Host.Outcome State Fault Refusal :=
  issue (.chtake f) f kC (chanMove false f)

/-- Does the channel offer what a CHWAIT waits for? -/
def Chan.offers (c : Chan) (n : Nat) (room : Bool) : Bool := n ≤ (if room then c.room else c.occ)

/-- CHWAIT: the path waits until the channel offers n slots (R282). (DEDUCED; log 48) -/
def chanWait (room : Bool) (f : Fields) (t : Th) (_ : BitVec 64) : Res :=
  let k := (eKi f).toNat
  let n := (eOpf f).toNat
  match t.s.chan t.w.crew k with
  | none => .trap t (chanErr 3 k)
  | some c =>
    if c.scount < n then .trap t (chanErr 6 k)
    else if c.offers n room then .done t.acquire
    else .hold { t with p := { t.p with wait := .chwait k n room } }

/-- CHWAIT.data (R282). -/
def execChwaitData (f : Fields) : State → Host.Outcome State Fault Refusal :=
  issue (.chwaitData f) f kC (chanWait false f)

/-- CHWAIT.room (R282). -/
def execChwaitRoom (f : Fields) : State → Host.Outcome State Fault Refusal :=
  issue (.chwaitRoom f) f kC (chanWait true f)

/-- CHWAIT_WAKE (R282): the waiting instruction retires once the channel offers what it waits for. (DEDUCED; log 48) -/
def execChwaitWake (wk eid : Nat) (s : State) : Host.Outcome State Fault Refusal :=
  answer (match s.view wk eid with
    | none => s
    | some t => match t.p.wait with
      | .chwait k n room => match s.chan t.w.crew k with
        | some c => if t.p.st == .running && c.offers n room then finish t {} (.done t.acquire) else s
        | none => s
      | _ => s)

/-! ## XSTAT (R283) -/

/-- What an object word is read as an access of. -/
def objAcc (op : Nat) (nd : Need) : Acc :=
  { op := op, c := true, n := 32, align := 32, rule := { noStk := true, noDsc := true }, nd := nd }

/-- The bits of XSTAT.chan. -/
def chanStat (s : State) (crew k : Nat) : BitVec 64 :=
  match s.chan crew k with
  | none => 0
  | some c => BitVec.ofNat 64 (c.prod.toNat + c.cons.toNat * 2 ^ 32 + 2 ^ 56 +
      (if (s.holders crew k true).isEmpty then 0 else 2 ^ 57) + (if (s.holders crew k false).isEmpty then 0 else 2 ^ 58))

/-- XSTAT (R283). -/
def execXstat (f : Fields) : State → Host.Outcome State Fault Refusal :=
  issue (.xstat f) f kC fun t ex =>
    let n := f.dst.toNat
    let k := f.sub.toNat
    splitCheck t n (
      if k = 5 then
        let e := (t.crew.map (·.engErr)).getD 0
        .done ({ t with s := { t.s with crews := lmod t.s.crews (fun c => c.h == t.w.crew) fun c => { c with engErr := 0 } } }.setS n
          (mkW (e.zeroExtend 64)))
      else if k = 4 then .done (t.setS n (mkW (chanStat t.s t.w.crew (eKi f).toNat)))
      else
        -- the object address is S[DST], at offset 0
        let f' : Fields := { f with sa := f.dst, scls := 2, hi := 0x00F00000 }
        let a := objAcc 0xCA { r := true }
        access t f' a false ex noData fun t ps =>
          let word (x : Placed) : Placed := { x with loc := shiftLoc t.s t.agent 0 x.loc (8 * k) }
          loadRun t f' { a with n := 8 } (ps.map word) fun t got =>
            match got with
            | (_, l) :: _ => .done (t.setS n (mkP (l.any (·.bad)) (BitVec.ofNat 64 (joinGot l))))
            | [] => .done t)

end Sys2Proof.Machine
end

