-- ==== Sys2Proof/Machine/EngineRun.lean ====
section
/-!
DEFINITION. What accepted engine operations do: reading, landing, counting, ending, and collectives (R49, R50, R54 to R58,
R269 to R285, R328).
-/
namespace Sys2Proof.Machine

/-! ## Accesses of an operation (R225, R275, R276) -/

/-- Why an operation goes no further: a stop with its subcode, a page it waits for, a home that is being reset, or a locked
replica (R322, R388). -/
inductive EErr where
  | stop (sub : Nat)
  | page (e : MErr)
  | away
  | locked

/-- The accesses of one firing: the state, the pages translated, the blocks read, the sectors substituted (R258), and whether
the operation has waited long enough on a locked replica (R322). -/
structure Run where
  s    : State
  xl   : List ((Nat × Bool) × Except XErr Xl)
  blks : List (Nat × Blk)
  subs : List Nat
  late : Bool

/-- An operation begins its accesses; its stall on a locked replica ends after 2,000 ns (R322). -/
def runOf (s : State) (o : EngOp) : Run :=
  { s := s, xl := [], blks := [], subs := [], late := match o.late with | some t0 => 2000 ≤ (s.ptime - t0).toNat | none => false }

/-- What a cause of translation does to an operation (R276). -/
def xErrOf (s : State) (g : Agent) (w : Bool) (a : Nat) (e : XErr) : EErr :=
  if e.served && !(s.fn g.fn).prStop then
    .page { cause := e.cause, info := e.info, addr := BitVec.ofNat 64 a, served := true, pages := [a / 4096], write := w,
            kind := 4 }
  else .stop (if e.cause = cStaleGen then eStale else eFault)

/-- The place of `n` bytes at `a` that lie in one block. -/
def Run.place (r : Run) (g : Agent) (w : Bool) (a n : Nat) : Run × Except EErr Loc :=
  match apLoc r.s g { noStk := true } n (0, BitVec.ofNat 64 a) with
  | some none => (r, .error (.stop eFault))
  | some (some l) => (r, .ok l)
  | none =>
    let key := (a / 4096, w)
    let (r, x) : Run × Except XErr Xl := match r.xl.find? fun y => y.1 == key with
      | some y => (r, y.2)
      | none =>
        let nd : Need := if w then { w := true } else { r := true }
        let (s, x) := translate r.s g.die g.pasid (BitVec.ofNat 64 (a / 4096 * 4096)) nd g.hm (6000 + r.xl.length)
        ({ r with s := s, xl := (key, x) :: r.xl }, x)
    match x with
    | .ok y =>
      if !w && r.s.homeStalls (memAt g.die y.pa y.leaf) 0 then (r, .error .away)
      else if !w && !r.late && anyLocked r.s g [xLoc g y a] then (r, .error .locked)
      else (r, .ok (xLoc g y a))
    | .error e => (r, .error (xErrOf r.s g w a e))

/-- The pieces of `n` bytes at `a`, one per block. -/
def blockPieces (a n : Nat) : List (Nat × Nat) :=
  if a % 64 + n ≤ 64 then [(a, n)] else [(a, 64 - a % 64), ((a + 64 - a % 64) % 2 ^ 64, n - (64 - a % 64))]

/-- Read a block once for the operation: one that is still locked from home, which is logged (R322). -/
def Run.fetch (r : Run) (g : Agent) (l : Loc) : Run :=
  if r.blks.any fun b => b.1 == l.key then r
  else if anyLocked r.s g [l] then
    { r with s := r.s.crewEvent g.crew 2 0x08, blks := (l.key, rereadBlk r.s g l) :: r.blks,
             subs := if substituted r.s g l then ninsert r.subs l.key else r.subs }
  else
    let x := readBlks r.s g { nl1 := true } (7000 + r.blks.length) [l]
    { r with s := x.s, blks := x.blks ++ r.blks, subs := if x.sub = 0 then r.subs else ninsert r.subs l.key }

/-- Read a piece: its value, whether it is poison; a word that fails its check freezes recording and is
read again from home (R275, R368). -/
def Run.piece (r : Run) (g : Agent) (l : Loc) (n : Nat) : Run × Except EErr (Nat × Bool) :=
  let r := r.fetch g l
  let ws := wordsAt r.blks l n
  let r := if ws.all sound then r else { r with s := r.s.freezeDies [g.die] 1 }
  let ws := if ws.all sound then ws else wordsAt [(l.key, rereadBlk r.s g l)] l n
  if ws.all sound then (r, .ok (valueAt ws l n, ws.any bad)) else (r, .error (.stop eResidue))

/-- Read `n` bytes at `a`: value, poison, and the pair of the block that holds the first byte (R56, R57). -/
def Run.read (r : Run) (g : Agent) (a n : Nat) : Run × Except EErr (Nat × Bool × Pair) :=
  let one (r : Run) (p : Nat × Nat) : Run × Except EErr (Nat × Bool × Pair) :=
    match r.place g false p.1 p.2 with
    | (r, .error e) => (r, .error e)
    | (r, .ok l) =>
      match r.piece g l p.2 with
      | (r, .error e) => (r, .error e)
      | (r, .ok (x, q)) =>
        let host := match l with | .mem _ _ m => m.host | _ => false
        (r, .ok (x, q, if host then rawPair else (blkAt r.blks l).pair))
  match blockPieces a n with
  | [p] => one r p
  | p :: p' :: _ =>
    match one r p with
    | (r, .error e) => (r, .error e)
    | (r, .ok (x, q, pair)) =>
      match one r p' with
      | (r, .error e) => (r, .error e)
      | (r, .ok (y, q', _)) => (r, .ok (x + 2 ^ (8 * p.2) * y, q || q', pair))
  | [] => (r, .ok (0, false, rawPair))

/-- A value to land: its pattern in format `fmt` where it is an element as read, poison, scale, and whether it is an
unscaled value of an integer format (R56, R272). -/
structure Item where
  fmt   : Option Nat
  pat   : Nat
  psn   : Bool
  scale : Nat
  int   : Bool

def intFmt (fmt : Nat) : Bool := fmt == 0 || fmt == 1 || fmt == 8

/-- An element of format `fmt`. -/
def itemOf (fmt pat : Nat) (psn : Bool) (scale : Nat) : Item :=
  { fmt := some fmt, pat := pat, psn := psn, scale := scale, int := intFmt fmt && scale == 127 }

/-- Read the element of record `q` at tuple `t`. -/
def Run.element (r : Run) (g : Agent) (q : Shape) (t : List Nat) : Run × Except EErr Item :=
  let (a, nib) := q.addr t
  match r.read g a.toNat (fmtBytes q.fmt) with
  | (r, .error e) => (r, .error e)
  | (r, .ok (v, psn, pair)) =>
    let pat := if q.fmt = 8 then v / 16 ^ nib % 16 else v
    if !q.side then (r, .ok (itemOf q.fmt pat psn 127))
    else if pair.fmt.toNat = 0 || pair.fmt.toNat = q.fmt then (r, .ok (itemOf q.fmt pat psn pair.scale.toNat))
    else (r, .error (.stop eFormat))

/-- The address of element `i` of the index record `x` of record `q` (R49). -/
def indexAddr (x q : Shape) (i : Nat) : BitVec 64 :=
  x.base + BitVec.ofInt 64 ((i : Int) * x.str.headD 0 * ((if q.idx64 then 8 else 4 : Nat) : Int))

/-- The dimension-0 index of element `i` of the index record `x` of record `q` (R49, R50). (DEDUCED; log 49) -/
def Run.index (r : Run) (g : Agent) (x q : Shape) (i : Nat) : Run × Except EErr Nat :=
  let sz : Nat := if q.idx64 then 8 else 4
  match r.read g (indexAddr x q i).toNat sz with
  | (r, .error e) => (r, .error e)
  | (r, .ok (v, psn, _)) =>
    let k := toSigned (8 * sz) v
    if psn then (r, .error (.stop ePoison))
    else if k < 0 || (q.ext.headD 0 : Int) ≤ k then (r, .error (.stop eIndex))
    else (r, .ok k.toNat)

/-- The tuple of an element with its index taken from the index record. -/
def Run.resolve (r : Run) (g : Agent) (x q : Shape) (t : List Nat) : Run × Except EErr (List Nat) :=
  if !q.idx then (r, .ok t)
  else match r.index g x q (t.headD 0) with
    | (r, .error e) => (r, .error e)
    | (r, .ok i) => (r, .ok (i :: t.tail))

/-! ## Landing (R55, R57, R272 to R275) -/

/-- The places that an element lands in, with their sizes. -/
abbrev Spot := List (Loc × Nat)

/-- Where `n` bytes at `a` land; poison may not land on a translated page without ET (R275). -/
def Run.spot (r : Run) (g : Agent) (a n : Nat) (psn : Bool) : Run × Except EErr Spot :=
  let one (r : Run) (p : Nat × Nat) : Run × Except EErr (Loc × Nat) :=
    match r.place g true p.1 p.2 with
    | (r, .error e) => (r, .error e)
    | (r, .ok l) =>
      let guarded := match l with | .mem _ _ m => !m.et | _ => false
      if psn && guarded then (r, .error (.stop ePoison)) else (r, .ok (l, p.2))
  match blockPieces a n with
  | p :: rest =>
    match one r p with
    | (r, .error e) => (r, .error e)
    | (r, .ok x) =>
      match rest with
      | [] => (r, .ok [x])
      | p' :: _ =>
        match one r p' with
        | (r, .error e) => (r, .error e)
        | (r, .ok y) => (r, .ok [x, y])
  | [] => (r, .ok [])

/-- One element to land: its spot, nibble, block, source, value, and whether it lands in host memory. -/
structure Drop where
  spot : Spot
  nib  : Nat
  key  : Nat
  item : Item
  x    : FV
  host : Bool
  move : Bool       -- its bits move unchanged

/-- A block under construction: bytes written, and poison by nibble. -/
structure OutBlk where
  loc  : Loc
  mask : BitVec 64
  data : BitVec 512
  psn  : BitVec 128
  pair : Pair

def outPair (d : Shape) (scale : Nat) : Pair :=
  if d.side then { fmt := BitVec.ofNat 8 d.fmt, scale := BitVec.ofNat 8 scale } else rawPair

/-- The block with bytes [o, o + n) set to value `v`. -/
def OutBlk.put (b : OutBlk) (o n v : Nat) (psn : Bool) (pair : Pair) : OutBlk :=
  { b with
    mask := b.mask ||| BitVec.ofNat 64 ((2 ^ n - 1) * 2 ^ o), data := setFld b.data (8 * (o + n) - 1) (8 * o) v,
    psn := setFld b.psn (2 * (o + n) - 1) (2 * o) (if psn then 4 ^ n - 1 else 0), pair := pair }

/-- The block with one nibble set; `old` is the byte in memory, and `lost` says that its word is poison or fails its check: a
nibble kept from it stays poison (R42, R235). -/
def OutBlk.putNib (b : OutBlk) (o nib v old : Nat) (lost psn : Bool) (pair : Pair) : OutBlk :=
  let here := b.mask.getLsbD o
  let cur := if here then fld b.data (8 * o + 7) (8 * o) else old
  let new := if nib = 0 then cur / 16 * 16 + v % 16 else v % 16 * 16 + cur % 16
  let q := if here then fld b.psn (2 * o + 1) (2 * o) else if lost then 3 else 0
  let q' := q &&& (if nib = 0 then 2 else 1) ||| (if psn then 2 ^ nib else 0)
  { b with
    mask := setBit b.mask o true, data := setFld b.data (8 * o + 7) (8 * o) new, psn := setFld b.psn (2 * o + 1) (2 * o) q',
    pair := pair }

def findOut (l : List OutBlk) (loc : Loc) : OutBlk :=
  (l.find? fun b => b.loc.key == loc.key).getD { loc := loc, mask := 0, data := 0, psn := 0, pair := rawPair }

def putOut (l : List OutBlk) (b : OutBlk) : List OutBlk :=
  if l.any fun c => c.loc.key == b.loc.key then lmod l (fun c => c.loc.key == b.loc.key) fun _ => b else l ++ [b]

/-- Land a pattern at a spot. -/
def landAt (s : State) (g : Agent) (d : Shape) (out : List OutBlk) (e : Drop) (pat scale : Nat) : List OutBlk :=
  let pair := outPair d scale
  if d.fmt = 8 then
    match e.spot with
    | (l, _) :: _ =>
      let b := rereadBlk s g l
      let w := b.word (l.off / 4)
      let old := (b.data.extractLsb' (8 * l.off) 8).toNat
      putOut out ((findOut out l).putNib l.off e.nib pat old (bad w || !sound w) e.item.psn pair)
    | [] => out
  else (e.spot.foldl (fun (a : List OutBlk × Nat) x =>
      (putOut a.1 ((findOut a.1 x.1).put x.1.off x.2 (a.2 % 2 ^ (8 * x.2)) e.item.psn pair), a.2 / 2 ^ (8 * x.2))) (out, pat)).1

/-- Does an element land under an adaptive scale (R273)? -/
def EngOp.adapts (o : EngOp) (d : Shape) (host : Bool) : Bool := o.ascl && d.side && asclFmt d.fmt && !host

/-- The scale of a block under ASCL, from the values landed there before and those of this firing (R273). -/
def EngOp.blockScale (o : EngOp) (d : Shape) (drops : List Drop) (key : Nat) : Nat :=
  asclScale d.fmt ((o.vals.filter fun y => y.blk == key).map (·.x) ++ (drops.filter fun y => y.key == key).map (·.x))

/-- The pattern of a value under scale `sc` (R273). -/
def EngOp.adapted (o : EngOp) (d : Shape) (sc : Nat) (x : FV) : Nat := landPat d.fmt o.rm.toNat o.sat false (x.scale (127 - sc))

/-- The pattern and the scale with which an element lands (R57, R272, R273). -/
def EngOp.landing (o : EngOp) (d : Shape) (drops : List Drop) (e : Drop) : Nat × Nat :=
  if o.adapts d e.host then
    let sc := o.blockScale d drops e.key
    (o.adapted d sc e.x, sc)
  else if o.isFill then (e.item.pat, 127)
  else if e.move then (e.item.pat, e.item.scale)
  else (landPat d.fmt o.rm.toNat o.sat e.item.int e.x, 127)

/-- The place of byte `off` of the block of a place. -/
def Loc.atByte : Loc → Nat → Loc
  | .ls o, off => .ls (o / 64 * 64 + off)
  | .dsc o, off => .dsc (o / 64 * 64 + off)
  | .mem va pa m, off => .mem (va / 64 * 64 + off) (pa / 64 * 64 + off) m

/-- The values of earlier firings in the blocks that this firing's elements land in: they land again where the block's scale
has changed (R273). -/
def EngOp.again (o : EngOp) (s : State) (g : Agent) (d : Shape) (drops : List Drop) : List OutBlk :=
  o.vals.foldl (fun out v =>
    match drops.find? fun e => e.key == v.blk && o.adapts d e.host with
    | none => out
    | some e =>
      let sc := o.blockScale d drops v.blk
      if sc = asclScale d.fmt ((o.vals.filter fun y => y.blk == v.blk).map (·.x)) then out
      else
        let spot : Spot := match e.spot with | (l, n) :: _ => [(l.atByte v.off, n)] | [] => []
        landAt s g d out { e with spot := spot, nib := v.nib, item := { e.item with psn := v.psn } } (o.adapted d sc v.x) sc) []

/-- The blocks that the elements of a firing make (R55, R272 to R274). -/
def EngOp.made (o : EngOp) (s : State) (g : Agent) (d : Shape) (drops : List Drop) : List OutBlk :=
  drops.foldl (fun out e =>
    let (pat, scale) := o.landing d drops e
    landAt s g d out e pat scale) (o.again s g d drops)

/-- What an operation remembers of the unbound blocks it has written: the values landed under an adaptive scale, and the
scales of the sources of the others (R272, R273). On a bound side every firing has its own slots. (DEDUCED; log 34) -/
def EngOp.remember (o : EngOp) (d : Shape) (scales : List (Nat × Nat)) (drops : List Drop) : EngOp :=
  if o.nf = 1 || o.ko.isSome then o
  else
    let new := drops.filterMap fun e => match e.spot with
      | (l, _) :: _ => if o.adapts d e.host then some { blk := e.key, off := l.off, nib := e.nib, psn := e.item.psn, x := e.x } else none
      | [] => none
    { o with scales := scales, vals := o.vals ++ new }

/-- Do the bits of an element move unchanged (R57, R272)? -/
def EngOp.moves (o : EngOp) (d : Shape) (host : Bool) (it : Item) : Bool :=
  !o.isFill && it.fmt == some d.fmt && (if host then it.scale == 127 else !o.ascl)

/-- Take note that blocks receive an element from a source of scale `sc`: none where one has another (R272). -/
def noteScale (sc : Nat) : List (Nat × Nat) → List Nat → Option (List (Nat × Nat))
  | seen, [] => some seen
  | seen, k :: ks =>
    match seen.find? fun y => y.1 == k with
    | some y => if y.2 = sc then noteScale sc seen ks else none
    | none => noteScale sc ((k, sc) :: seen) ks

/-- Prepare the landing of one element at tuple `t` of record `d`; `seen` are the blocks' scales so far (R272). -/
def EngOp.prepare (o : EngOp) (r : Run) (g : Agent) (d : Shape) (seen : List (Nat × Nat)) (t : List Nat) (it : Item) (x : FV) :
    Run × List (Nat × Nat) × Except EErr Drop :=
  let (a, nib) := d.addr t
  match r.spot g a.toNat (fmtBytes d.fmt) it.psn with
  | (r, .error e) => (r, seen, .error e)
  | (r, .ok sp) =>
    let key := match sp with | (l, _) :: _ => l.key | [] => 0
    let host := match sp with | (.mem _ _ m, _) :: _ => m.host | _ => false
    let move := o.moves d host it
    let drop : Drop := { spot := sp, nib := nib, key := key, item := it, x := x, host := host, move := move }
    if d.fmt = 4 && o.rm == 6 && !o.isFill && !move then (r, seen, .error (.stop eFormat))
    else if move && !o.adapts d host then
      match noteScale it.scale seen (sp.map fun p => p.1.key) with
      | some seen => (r, seen, .ok drop)
      | none => (r, seen, .error (.stop eFormat))
    else (r, seen, .ok drop)

/-! ## One firing (R281) -/

/-- The record of a bound side at the slots of the coming firing. -/
def EngOp.atSlot (s : State) (o : EngOp) (q : Shape) (k : Option Nat) (prod : Bool) : Shape :=
  match k.bind (s.chan o.crew) with
  | none => q
  | some c =>
    let i := fld (if prod then c.prod else c.cons) 15 0
    let ls := (s.ctxReg o.pasid 0x110).toNat / 2 ^ 30 * 2 ^ 30
    { q with base := q.base + BitVec.ofNat 64 (ls + c.sbase + i * c.ssize) }

/-- The destination and source tuples of element `k` of firing `f` (R44, R270, R281). -/
def EngOp.pairing (o : EngOp) (f k : Nat) : List Nat × List Nat :=
  let d := o.dstShape
  let q := o.srcShape
  let at' (b : Bool) : Nat := if b then k else f * o.per + k
  let td := tupleOf o.dstOrder (at' o.ko.isSome)
  if !o.isForm then (td, tupleOf o.srcOrder (at' o.ki.isSome))
  else
    let cut := d.ext.headD 0 / o.nf
    let tl := if o.cutDst then (td.headD 0 - f * cut) :: td.tail else td
    let src := (List.range q.rank).map fun e =>
      tl.getD (((List.range d.rank).find? fun i => o.perm i == e).getD 0) 0
    let src := if o.cutSrc then (src.headD 0 + f * (q.ext.headD 0 / o.nf)) :: src.tail else src
    (td, src)

/-- Does a bound element lie outside its firing's slots (R281)? Its tuple is of the record before the slot's address.
(DEDUCED; log 49) -/
def EngOp.outside (s : State) (o : EngOp) (q : Shape) (k : Option Nat) (t : List Nat) : Bool :=
  match k.bind (s.chan o.crew) with
  | none => false
  | some c => c.fire * c.ssize < (q.addr t).1.toNat + fmtBytes q.fmt

/-- Do the byte intervals of a firing intersect while its source is larger than the staging (R274)? (DEDUCED; log 49) -/
def overlaps (q d : Shape) (qs ds : List (List Nat)) : Bool :=
  8 * 65536 < qs.length * fmtBits q.fmt &&
    (match q.interval qs, d.interval ds with
      | some (a, b), some (x, y) => a < y && x < b
      | _, _ => false)

/-- Read one element of a firing and prepare its landing. -/
def EngOp.one (o : EngOp) (r : Run) (g : Agent) (q d : Shape) (f : Nat) (seen : List (Nat × Nat)) (k : Nat) :
    Run × List (Nat × Nat) × Except EErr Drop :=
  let (td, ts) := o.pairing f k
  match r.resolve g o.dstIxShape d td with
  | (r, .error e) => (r, seen, .error e)
  | (r, .ok td) =>
    match r.resolve g o.srcIxShape q ts with
    | (r, .error e) => (r, seen, .error e)
    | (r, .ok ts) =>
      if o.outside r.s o.dstShape o.ko td || (!o.isFill && o.outside r.s o.srcShape o.ki ts) then
        (r, seen, .error (.stop eShape))
      else if o.isFill then
        let pat := o.opnd.toNat % 2 ^ fmtBits d.fmt
        o.prepare r g d seen td (itemOf d.fmt pat false 127) (fmtValue d.fmt pat)
      else match r.element g q ts with
        | (r, .error e) => (r, seen, .error e)
        | (r, .ok it) => o.prepare r g d seen td it (scaled it.scale (fmtValue q.fmt it.pat))

/-- Read the elements of a firing in order up to the first that fails. -/
def EngOp.gather (o : EngOp) (g : Agent) (q d : Shape) (f : Nat) :
    Run → List (Nat × Nat) → List Nat → Run × List (Nat × Nat) × List Drop × Option EErr
  | r, seen, [] => (r, seen, [], none)
  | r, seen, k :: ks =>
    match o.one r g q d f seen k with
    | (r, seen, .error e) => (r, seen, [], some e)
    | (r, seen, .ok x) =>
      let (r, seen, l, e) := o.gather g q d f r seen ks
      (r, seen, x :: l, e)

/-- Capture the pages that an operation is about to write in an open replay region (R406). -/
def captureFor (s : State) (g : Agent) (ls : List Loc) : State × Option EErr :=
  match capture s g ls with
  | (s, none) => (s, none)
  | (s, some e) =>
    if e.served && !(s.fn g.fn).prStop then (s, some (.page { e with kind := 4 }))
    else (s, some (.stop (if e.cause = cPoisonUse then ePoison else if e.cause = cResidue then eResidue else eFault)))

/-- Write the blocks under construction: each is one update of data and pair (R55). -/
def writeOut (s : State) (g : Agent) (out : List OutBlk) : State :=
  out.foldl (fun s b =>
    let psn : BitVec 16 := maskOf 16 ((List.range 16).filter fun i => b.psn.extractLsb' (8 * i) 8 != 0)
    let host := match b.loc with | .mem _ _ m => m.host | _ => false
    s.storeLoc g b.loc b.mask b.data psn (if host then rawPair else b.pair) false false) s

/-- Count substituted sectors on the issuing wave's SUBCNT, each once for the operation (R258). -/
def countSubs (s : State) (o : EngOp) (keys : List Nat) : State × EngOp :=
  let new := keys.filter fun k => !o.subs.contains k
  let add (w : Wave) : Wave := { w with subcnt := BitVec.ofNat 64 (min (w.subcnt.toNat + new.length) (2 ^ 64 - 1)) }
  let s := match s.wave o.wk with
    | some w => if w.crew == o.crew then s.putWave o.wk (add w) else s
    | none => s
  (s, { o with subs := new.foldl ninsert o.subs })

def State.putOp (s : State) (o : EngOp) : State := { s with ops := lmod s.ops (fun x => x.h == o.h) fun _ => o }

def State.op (s : State) (h : Nat) : Option EngOp := s.ops.find? fun o => o.h == h

/-- The operation stalls on a page (R276). -/
def stallOp (s : State) (o : EngOp) (e : MErr) : State :=
  let fn := (o.agent s).fn
  let (s, h) := newPark s (.op o.h) fn o.pasid o.crew 15 e
  s.putOp { o with stall := some h }

/-- The operation stalls on a locked replica (R322). -/
def stallLocked (s : State) (o : EngOp) : State := s.putOp { o with late := some (o.late.getD s.ptime) }

/-- Advance the input side once a firing's reads are complete (R281). -/
def advanceIn (s : State) (o : EngOp) : State :=
  match o.ki, o.ki.bind (s.chan o.crew) with
  | some k, some c => s.setPointers o.crew k { c with cons := advance c.scount c.cons c.fire }
  | _, _ => s

/-- Advance the output side once a firing's writes are counted, and go on to the next firing (R281). -/
def firingDone (s : State) (o : EngOp) : State :=
  let s := match o.ko, o.ko.bind (s.chan o.crew) with
    | some k, some c => s.setPointers o.crew k { c with prod := advance c.scount c.prod c.fire }
    | _, _ => s
  s.putOp { o with firing := o.firing + 1, landed := o.firing + 1 == o.nf }

/-- The courier times the `n` block requests of a firing, where the histogram of its core is enabled (R370): how long each
took is a free value (log 8). -/
def timeBlocks (s : State) (o : EngOp) (n : Nat) : State :=
  if !(s.dbgReg o.pasid o.core 0x178).getLsbD 63 then s
  else
    let ns (i : Nat) : Nat := (Config.freeWord (s.ix (20000 + i))).toNat % 2 ^ 24
    { s with agenda := s.agenda ++ (List.range n).map fun i => .courierBlockReturn o.core o.pasid o.wk (ns i) }

/-- What a cause that writes nothing does to an operation: it waits, with the state before its accesses (R276, R322, R388). -/
def waitOp (s0 : State) (o : EngOp) (s : State) : EErr → State
  | .page e => s.revert (stallOp s0 o e)
  | .away => s0
  | .locked => stallLocked s0 o
  | .stop e => s.stopOp o e

/-- Write the blocks of a firing, or of what precedes a failing element, with their pages captured. -/
def landOut (s0 : State) (r : Run) (o : EngOp) (out : List OutBlk) (err : Option EErr) (done : State → EngOp → State) : State :=
  let g := o.agent s0
  match captureFor r.s g (out.map (·.loc)) with
  | (s, some e) => waitOp s0 o s e
  | (s, none) =>
    let s := timeBlocks (writeOut s g out) o r.blks.length
    let (s, o) := countSubs s { o with late := none } r.subs
    match err with
    | some (.stop e) => s.stopOp o e
    | _ => done s o

/-- Run firing `f` of an operation whole: all its reads, then all its writes (R274); the elements before a failing one are
written (R276). (DEDUCED; log 15) -/
def runFiring (s0 : State) (o : EngOp) : State :=
  let g := o.agent s0
  let f := o.firing
  let q := o.atSlot s0 o.srcShape o.ki false
  let d := o.atSlot s0 o.dstShape o.ko true
  let ts := (List.range o.per).map (o.pairing f)
  if !o.isFill && overlaps q d (ts.map (·.2)) (ts.map (·.1)) then s0.stopOp o eOverlap
  else
    let (r, scales, drops, err) := o.gather g q d f (runOf s0 o) o.scales (List.range o.per)
    match err with
    | some (.page e) => waitOp s0 o r.s (.page e)
    | some .away => s0
    | some .locked => waitOp s0 o r.s .locked
    | _ => landOut s0 r (o.remember d scales drops) (o.made r.s g d drops) err fun s o =>
      let s := advanceIn s o
      let n := o.firingBytes f
      if n = 0 then firingDone s o else s.putOp { o with counts := [n] }

/-- Is the operation free to work: neither stopped, stalled nor with uncounted writes? -/
def EngOp.free (o : EngOp) : Bool := o.stop.isNone && o.stall.isNone && o.counts.isEmpty && !o.landed

/-- May the next firing start: the oldest holder of its sides, with data and room (R281)? -/
def firingReady (s : State) (o : EngOp) : Bool :=
  let first (k : Nat) (prod : Bool) : Bool := ((s.holders o.crew k prod).head?.map (·.h)) == some o.h
  (match o.ki with
    | none => true
    | some k => first k false && (match s.chan o.crew k with | some c => c.fire ≤ c.occ | none => false)) &&
  (match o.ko with
    | none => true
    | some k => first k true && (match s.chan o.crew k with | some c => c.fire ≤ c.room | none => false))

/-- The run-ahead stream unit reads the index of element `n` of the coming firing before that needs it: one that meets a cause,
or a page with its poison bit set, is dropped and counted (R254, R276, R281). -/
def EngOp.readAhead (o : EngOp) (s : State) (n : Nat) : State :=
  let g := o.agent s
  let (td, ts) := o.pairing o.firing (n % max o.per 1)
  let (q, x, i) := if o.srcShape.idx then (o.srcShape, o.srcIxShape, ts.headD 0) else (o.dstShape, o.dstIxShape, td.headD 0)
  if !o.free || !q.idx || o.per = 0 then s
  else match prefetchLoc s g (0, indexAddr x q i) with
    | (s, none) => s.spdrop o.pasid 1
    | (s, some _) => s

/-- ENGINE_FIRING (R281). -/
def fireOp (s : State) (h : Nat) : State :=
  match s.op h with
  | none => s
  | some o => if o.free && o.bound && firingReady s o then runFiring s o else s

/-! ## Counting and ending (R269, R271, R276, R278, R279, R328) -/

/-- Is a store performed with respect to die `e`: at home with e's stale copies gone, or on a replicated page committed
(R320, R321)? -/
def PStore.performedFor (p : PStore) (e : Nat) : Bool :=
  p.stage == .done || (p.stage == .atHome && !p.rep && !(p.wait.getLsbD e && !p.got.getLsbD e))

/-- Are the writes of the operation performed with respect to its core's die (R328)? -/
def EngOp.performed (s : State) (o : EngOp) : Bool :=
  s.ms.stores.all fun p => p.op != some o.h || p.performedFor (o.core / 48)

/-- Record a stop or a refused update where no object records it (R279). -/
def noObject (s : State) (o : EngOp) (sub : Nat) : State :=
  match s.crew o.crew with
  | none => s
  | some c =>
    let s := s.putCrew { c with engErr := BitVec.ofNat 8 sub }
    s.logError c.fn (crewLog s c 2 sub [] 0)

/-- Apply an update to the operation's object, if it has one and it takes updates. (DEDUCED; log 49) -/
def opUpdate (s : State) (o : EngOp) (f : Obj → Obj) : Option State :=
  match o.obj with
  | none => none
  | some off => s.updObj (o.agent s) (.ls off) f

/-- The operation leaves the engines; with the last of an ended crew, the crew goes. -/
def removeOp (s : State) (o : EngOp) : State :=
  { s with
    ops := s.ops.filter fun x => x.h != o.h,
    parks := lmod s.parks (fun k => k.who == ParkWho.op o.h) fun k => { k with dead := true } }.sweepCrew o.crew

/-- ENGINE_WRITE_COUNTED (R269): the writes of a firing count once they are performed. (DEDUCED; log 15) -/
def countOp (s : State) (h : Nat) : State :=
  match s.op h with
  | none => s
  | some o =>
    match o.counts with
    | [] => s
    | n :: rest =>
      if o.stop.isSome || !o.performed s then s
      else
        let s := s.countAt o.pasid o.core o.hm 0x0E n
        let o' := { o with counts := rest, left := o.left - n }
        let fin (s : State) : State := if rest.isEmpty then firingDone s o' else s.putOp o'
        if o.obj.isNone then fin s
        else match opUpdate s o (·.lower o.ident n false 0) with
          | some s => fin s
          | none => s.stopOp o ePoison

/-- ENGINE_OP_END (R271, R276, R278): the arrival of an operation that is done, or the stop of one that failed.
(DEDUCED; log 15) -/
def endOp (s : State) (h : Nat) : State :=
  match s.op h with
  | none => s
  | some o =>
    if !o.performed s then s
    else match o.stop with
      | some e =>
        let s := if o.obj.isNone then noObject s o e.toNat
          else match opUpdate s o (·.lower o.ident o.left o.arr e.toNat) with
            | some s => s
            | none => noObject s o e.toNat
        removeOp s o
      | none =>
        if !o.landed || !o.counts.isEmpty then s
        else
          let s := if !o.arr then s
            else match opUpdate s o (·.lower o.ident 0 true 0) with
              | some s => s
              | none => noObject s o ePoison
          removeOp s o

/-- ENGINE_FIRING (R281). -/
def execEngineFiring (h : Nat) (s : State) : Host.Outcome State Fault Refusal := answer (fireOp s h)

/-- ENGINE_WRITE_COUNTED (R269). -/
def execEngineWriteCounted (h : Nat) (s : State) : Host.Outcome State Fault Refusal := answer (countOp s h)

end Sys2Proof.Machine
end

