-- ==== Sys2Proof/Machine/Collective.lean ====
section
/-!
DEFINITION. Collectives: XCOLL, opcode 0xC5, and the run of an engine operation (R51, R58, R272, R284, R285, R329, R397).
-/
namespace Sys2Proof.Machine

/-! ## Crowd records (R284) -/

/-- The words of the crowd record of an operation, read through the layout-record cache (R58). -/
def crowdWords (s : State) (o : EngOp) : State × Except EErr (List (RWord 32)) :=
  let g := o.agent s
  if o.opnd.toNat % 64 != 0 then (s, .error (.stop eShape))
  else
    let r := runOf s o
    match r.place g false o.opnd.toNat 64 with
    | (r, .error e) => (r.s, .error e)
    | (r, .ok l) =>
      let now := (recordAt r.s g l).1
      let ws := (heldRecord r.s g l).getD now
      let r := if ws.all sound then r else { r with s := r.s.freezeDies [g.die] 1 }
      let ws := if ws.all sound then ws else now
      if !ws.all sound then (r.s, .error (.stop eResidue))
      else if ws.any bad then (r.s, .error (.stop ePoison))
      else (r.s.keepRecord g l ws, .ok ws)

/-- Does the record hold together for a collective of this kind (R284)? -/
def Crowd.ok (c : Crowd) (kind : Nat) : Bool :=
  c.n == prod c.pa && c.rank == rankAt c.pa c.ca && (List.range 6).all (fun a => c.ca.getD a 0 < c.pa.getD a 1) &&
    c.axis != 6 && (kind != 3 || c.root < c.size)

/-- The ranks and the coordinate of an axis. -/
def Crowd.on (c : Crowd) (a : Nat) : Nat × Nat := (c.pa.getD a 1, c.ca.getD a 0)

/-- The shard of an XCOLL's records, once these are checked: the crowd record names it; one that cannot be read leaves it free
(R51, R53). -/
def crowdAxes (t : Th) (o : EngOp) : State × (Nat → Nat × Nat) :=
  let sharded := [o.srcShape, o.dstShape, o.srcIxShape, o.dstIxShape].any (·.shard)
  if !sharded || (o.problem t.s).isSome || t.s.noDomain then (t.s, freeAxis t.s)
  else match crowdWords t.s o with
    | (s, .ok ws) => if (crowdOf ws).ok o.coll.toNat then (s, (crowdOf ws).on) else (s, freeAxis s)
    | (s, .error _) => (s.revert t.s, freeAxis t.s)

/-- XCOLL (R285). -/
def execXcoll (f : Fields) : State → Host.Outcome State Fault Refusal :=
  issue (.xcoll f) f kC (engine 0xC5 f crowdAxes)

/-! ## Participants (R285, R397) -/

/-- Do the element counts fit the kind (R285)? -/
def countsFit (kind P ns nd : Nat) : Bool :=
  match kind with
  | 0 => nd == ns
  | 1 => ns == P * nd
  | 2 => nd == P * ns
  | _ => nd == ns

/-- The endpoint of a rank: none where the record is malformed. -/
def endpoint (r : Run) (g : Agent) (c : Crowd) (rank : Nat) : Run × Except EErr (Nat × Nat) :=
  match r.read g ((c.rtab + 4 * rank) % 2 ^ 64) 4 with
  | (r, .error e) => (r, .error e)
  | (r, .ok (v, psn, _)) =>
    if psn then (r, .error (.stop ePoison))
    else if 2 ^ 13 ≤ v || 575 < v % 1024 then (r, .error (.stop eShape))
    else (r, .ok (v % 1024, v / 1024))

/-- The endpoints of a list of positions. -/
def endpoints (g : Agent) (c : Crowd) : Run → List Nat → Run × Except EErr (List (Nat × Nat))
  | r, [] => (r, .ok [])
  | r, j :: js =>
    match endpoint r g c (c.rankOf j) with
    | (r, .error e) => (r, .error e)
    | (r, .ok x) =>
      match endpoints g c r js with
      | (r, .error e) => (r, .error e)
      | (r, .ok xs) => (r, .ok (x :: xs))

/-- The operation on this package that takes part as rank `rank` at an endpoint's function. (DEDUCED; log 50) -/
def peerOp (s : State) (o : EngOp) (c : Crowd) (fn rank : Nat) : Option EngOp :=
  s.ops.find? fun p => p.isColl && p.coll == o.coll && !p.crowd.isEmpty && s.fnOfDie (p.core / 48) == fn &&
    (crowdOf p.crowd).group == c.group && (crowdOf p.crowd).rank == rank && (crowdOf p.crowd).axis == c.axis

/-! ## Values (R285) -/

/-- A value taken to FP32 under .rn. -/
def toFp32 (x : FV) : FV := decodeF 11 (roundFp 11 { rm := 0, sat := false, st := 0 } x)

/-- One addition of a reduction. -/
def redAdd (int : Bool) (x y : FV) : FV := if int then x.add false y else toFp32 (x.add false y)

/-- Adjacent pairs of a reduction. -/
def redPairs (int : Bool) : List FV → List FV
  | x :: y :: l => redAdd int x y :: redPairs int l
  | l => l

/-- red(0, n): the halves split at a power of two, which is pairing neighbours again and again. -/
def redTree (int : Bool) : Nat → List FV → FV
  | _, [] => .fin false 0 0 false
  | _, [x] => x
  | 0, x :: _ => x
  | n + 1, l => redTree int n (redPairs int l)

/-- A contribution that another package sends: a free value (log 8). (DEDUCED; log 50) -/
def freeItem (s : State) (fmt j i : Nat) : Item :=
  let k := s.ix (20000 + 70000 * j + 2 * i)
  itemOf fmt ((Config.freeWord k).toNat % 2 ^ fmtBits fmt) ((Config.freeWord (k + 1)).getLsbD 0) 127

/-- The value of an item. -/
def Item.val (it : Item) : FV := match it.fmt with
  | some f => scaled it.scale (fmtValue f it.pat)
  | none => .fin false 0 0 false

/-- Every element of the source in element order, up to the first that fails. -/
def readAll (o : EngOp) (g : Agent) : Run → List Nat → Run × List Item × Option EErr
  | r, [] => (r, [], none)
  | r, k :: ks =>
    match r.resolve g o.srcIxShape o.srcShape (tupleOf o.srcOrder k) with
    | (r, .error e) => (r, [], some e)
    | (r, .ok t) =>
      match r.element g o.srcShape t with
      | (r, .error e) => (r, [], some e)
      | (r, .ok x) =>
        let (r, xs, e) := readAll o g r ks
        (r, x :: xs, e)

/-- Does an operation carry its residual (R285)? -/
def EngOp.carries (o : EngOp) : Bool := o.srcShape.carry && o.coll.toNat ≤ 1 && o.dstShape.fmt != 7

/-- What a participant contributes, the residuals it keeps, with their addresses and poison, and what stopped it before its
last element. -/
structure Given where
  items : List Item
  resid : List (Nat × Nat × Bool)
  err   : Option EErr

/-- Carry the residual: c := x + r, the contribution is c in the destination format, r := c − q. -/
def carryAll (o : EngOp) (g : Agent) (rbuf : Nat) : Run → Nat → List Item → Run × Given
  | r, _, [] => (r, { items := [], resid := [], err := none })
  | r, i, x :: xs =>
    let a := (rbuf + 4 * i) % 2 ^ 64
    match r.read g a 4 with
    | (r, .error e) => (r, { items := [], resid := [], err := some e })
    | (r, .ok (v, psn, _)) =>
      let fmt := o.dstShape.fmt
      let c := toFp32 ((toFp32 x.val).add false (decodeF 11 v))
      let pat := landPat fmt o.rm.toNat o.sat false c
      let it := itemOf fmt pat (x.psn || psn) 127
      let left := roundFp 11 { rm := 0, sat := false, st := 0 } (c.add false (fmtValue fmt pat).neg)
      let (r, y) := carryAll o g rbuf r (i + 1) xs
      (r, { y with items := it :: y.items, resid := (a, left, it.psn) :: y.resid })

/-- What an operation contributes, up to its first element that fails. -/
def contribution (o : EngOp) (r : Run) : Run × Given :=
  let g := o.agent r.s
  let none' (e : EErr) : Given := { items := [], resid := [], err := some e }
  if o.carries && (crowdOf o.crowd).rbuf = 0 then (r, none' (.stop eShape))
  else if o.carries && o.dstShape.fmt = 4 && o.rm == 6 then (r, none' (.stop eFormat))
  else
    let (r, xs, err) := readAll o g r (List.range (prod o.srcOrder))
    if !o.carries then (r, { items := xs, resid := [], err := err })
    else
      let (r, y) := carryAll o g (crowdOf o.crowd).rbuf r 0 xs
      (r, { y with err := y.err <|> err })

/-- The contributions that element `i` of the result at an operation is made of, as positions and elements. -/
def resultParts (o : EngOp) (c : Crowd) (i : Nat) : List (Nat × Nat) :=
  let ns := max (prod o.srcOrder) 1
  match o.coll.toNat with
  | 2 => [(i / ns, i % ns)]
  | 3 => [(c.root, i)]
  | k =>
    let e := if k = 1 then c.pos * prod o.dstOrder + i else i
    (List.range c.size).map fun j => (j, e)

/-- Element `i` of the result at an operation, from every participant's items in position order; none where a contribution is
missing. -/
def resultItem (o : EngOp) (all : List (List Item)) (i : Nat) : Option (Item × FV) :=
  let its := (resultParts o (crowdOf o.crowd) i).map fun p => (all.getD p.1 [])[p.2]?
  if its.any (·.isNone) then none
  else
    let its := its.filterMap id
    if 2 ≤ o.coll.toNat then its.head?.map fun it => (it, it.val)
    else
      let int := intFmt o.srcShape.fmt && !o.carries
      let x := redTree int 17 (its.map fun it => if int then it.val else toFp32 it.val)
      some ({ fmt := none, pat := 0, psn := its.any (·.psn), scale := 127, int := int && its.all (·.int) }, x)

/-! ## Running a collective -/

/-- Prepare the landing of the elements of the result, up to the first that fails. -/
def prepareAll (o : EngOp) (g : Agent) (all : List (List Item)) :
    Run → List (Nat × Nat) → List Nat → Run × List Drop × Option EErr
  | r, _, [] => (r, [], none)
  | r, seen, i :: is =>
    match resultItem o all i with
    | none => (r, [], none)
    | some (it, x) =>
      match r.resolve g o.dstIxShape o.dstShape (tupleOf o.dstOrder i) with
      | (r, .error e) => (r, [], some e)
      | (r, .ok t) =>
        match o.prepare r g o.dstShape seen t it x with
        | (r, _, .error e) => (r, [], some e)
        | (r, seen, .ok y) =>
          let (r, l, e) := prepareAll o g all r seen is
          (r, y :: l, e)

/-- The landing of residuals in the FP32 buffer, up to the first that fails. -/
def residuals (g : Agent) : Run → List (Nat × Nat × Bool) → Run × List Drop × Option EErr
  | r, [] => (r, [], none)
  | r, (a, v, psn) :: t =>
    match r.spot g a 4 psn with
    | (r, .error e) => (r, [], some e)
    | (r, .ok sp) =>
      let it : Item := { itemOf 7 v psn 127 with int := false }
      let (r, l, e) := residuals g r t
      (r, { spot := sp, nib := 0, key := 0, item := it, x := it.val, host := false, move := true } :: l, e)

/-- A participant with what it read and what it is about to write. -/
structure Member where
  op    : EngOp
  run   : Run
  give  : Given
  resid : List Drop
  drops : List Drop
  err   : Option EErr

/-- Does a cause let an operation wait rather than stop? -/
def EErr.waits : EErr → Bool
  | .stop _ => false
  | _ => true

/-- Every local participant reads its contribution: positions and participants; none where one must wait. -/
def readPeers : State → List (Nat × EngOp) → State × Except (EngOp × EErr) (List (Nat × Member))
  | s, [] => (s, .ok [])
  | s, (j, o) :: t =>
    let (r, x) := contribution o (runOf s o)
    match x.err.filter EErr.waits with
    | some e => (r.s, .error (o, e))
    | none =>
      match readPeers r.s t with
      | (s, .error e) => (s, .error e)
      | (s, .ok l) => (s, .ok ((j, { op := o, run := r, give := x, resid := [], drops := [], err := x.err }) :: l))

/-- Every local participant prepares its landing, its residuals first, and the pages are captured; none where one must
wait. -/
def preparePeers (all : List (List Item)) : State → List Member → State × Except (EngOp × EErr) (List Member)
  | s, [] => (s, .ok [])
  | s, p :: t =>
    let g := p.op.agent s
    let (r, kept, e1) := residuals g { p.run with s := s } p.give.resid
    let (r, drops, e2) := if e1.isSome then (r, [], none)
      else prepareAll p.op g all r [] (List.range (prod p.op.dstOrder))
    let err := e1 <|> e2 <|> p.err
    let (s, e3) := captureFor r.s g ((kept ++ drops).flatMap fun d => d.spot.map (·.1))
    match (e3.toList ++ err.toList).find? EErr.waits with
    | some e => (s, .error (p.op, e))
    | none =>
      match preparePeers all s t with
      | (s, .error e) => (s, .error e)
      | (s, .ok l) =>
        let drops := if e3.isSome then [] else drops
        let kept := if e3.isSome then [] else kept
        (s, .ok ({ p with run := r, resid := kept, drops := drops, err := e3 <|> err } :: l))

/-- A participant writes its residuals and its result, or what precedes its failing element; where another one failed, it
stops with it and writes nothing (R276, R285). (DEDUCED; log 50) -/
def landPart (failed : Bool) (s : State) (p : Member) : State :=
  let o := p.op
  let g := o.agent s
  if failed && p.err.isNone then s
  else
    let kept := p.resid.foldl (fun out e => landAt s g { o.dstShape with fmt := 7, side := false } out e e.item.pat 127) []
    let out := p.drops.foldl (fun out e =>
      let (pat, scale) := o.landing o.dstShape p.drops e
      landAt s g o.dstShape out e pat scale) kept
    let s := writeOut s g out
    let (s, o) := countSubs s { o with late := none } p.run.subs
    match p.err with
    | some (.stop e) => s.stopOp o e
    | _ => if o.bytes = 0 then firingDone s o else s.putOp { o with counts := [o.bytes] }

/-- The participants of this package meet: all read, then all write. A page that one of them waits for leaves all as they
were (R274, R276). -/
def exchangeColl (s0 : State) (o : EngOp) (c : Crowd) (ops : List (Nat × EngOp)) : State :=
  match readPeers s0 ops with
  | (s, .error (p, e)) => waitOp s0 p s e
  | (s, .ok l) =>
    let all := (List.range c.size).map fun j => match l.find? fun x => x.1 == j with
      | some x => x.2.give.items
      | none => (List.range (prod o.srcOrder)).map (freeItem s0 o.srcShape.fmt j)
    match preparePeers all s (l.map (·.2)) with
    | (s, .error (p, e)) => waitOp s0 p s e
    | (s, .ok ps) => ps.foldl (landPart (ps.any fun p => p.err.isSome)) s

/-- The run of a collective once its crowd record is read: it waits for the participants of this package; what the
others contribute is free (R285, R397). -/
def meetColl (s0 : State) (o : EngOp) (c : Crowd) (eps : List (Nat × Nat)) : State :=
  let me := fld (s0.pkgReg 0x100) 25 16
  let ps := (List.range c.size).zip eps
  let here := ps.filter fun x => x.2.1 == me
  let peers := here.map fun x => (x.1, peerOp s0 o c x.2.2 (c.rankOf x.1))
  let far := here.length < c.size
  let trained := (List.range 64).any fun p => (s0.pkgReg (0x200 + 8 * p)).getLsbD 0
  if far && (!trained || (Config.freeWord (s0.ix 19999)).getLsbD 0) then s0.stopOp o eColl
  else if peers.any fun x => match x.2 with | some p => !p.free | none => true then s0
  else
    let ops := peers.filterMap fun x => x.2.map fun p => (x.1, p)
    match ops.find? fun x => !countsFit x.2.coll.toNat c.size (prod x.2.srcOrder) (prod x.2.dstOrder) with
    | some x => s0.stopOp x.2 eShape
    | none =>
      match ops.find? fun x =>
          let all (l : List Nat) : List (List Nat) := (List.range (prod l)).map (tupleOf l)
          overlaps x.2.srcShape x.2.dstShape (all x.2.srcOrder) (all x.2.dstOrder) with
      | some x => s0.stopOp x.2 eOverlap
      | none => exchangeColl s0 o c ops

/-- The run of a collective operation: on empty tensors it accesses nothing (R44); else first its crowd record is read, then
its participants meet. -/
def runColl (s : State) (o : EngOp) : State :=
  let nd := prod o.dstOrder
  let ns := prod o.srcOrder
  if nd = 0 && ns = 0 then firingDone s o
  else if nd = 0 || ns = 0 then s.stopOp o eShape
  else if !o.crowd.isEmpty then meet s o
  else match crowdWords s o with
    | (s', .error e) => waitOp s o s' e
    | (s', .ok ws) =>
      let o := { o with crowd := ws }
      let c := crowdOf ws
      let s := s'.putOp o
      if !c.ok o.coll.toNat then s.stopOp o eShape
      else if s.collFailed o c then s.stopOp o eColl
      else meet s o
where
  meet (s : State) (o : EngOp) : State :=
    let c := crowdOf o.crowd
    match endpoints (o.agent s) c (runOf s o) (List.range c.size) with
    | (r, .error e) => waitOp s o r.s e
    | (r, .ok eps) => meetColl r.s o c eps

/-- ENGINE_OP_RUN (R272, R285): an operation without a channel reads and writes. -/
def runOp (s : State) (h : Nat) : State :=
  match s.op h with
  | none => s
  | some o => if !o.free || o.bound then s else if o.isColl then runColl s o else runFiring s o

/-- ENGINE_OP_RUN (R272). -/
def execEngineOpRun (h : Nat) (s : State) : Host.Outcome State Fault Refusal := answer (runOp s h)

/-- ENGINE_OP_END (R271): a collective operation that stopped before it read its crowd record stops its peers now (R285). -/
def execEngineOpEnd (h : Nat) (s : State) : Host.Outcome State Fault Refusal :=
  answer (endOp (match s.op h with
    | some o => if o.performed s && o.stop.isSome && o.crowd.isEmpty then s.failGroup o else s
    | none => s) h)

end Sys2Proof.Machine
end

