-- ==== Sys2Proof/Machine/Control.lean ====
section
/-!
DEFINITION. Branches and calls, vector branches, loops, the end of paths, and traps: opcodes 0x00, 0x20 to 0x28, 0x2B
to 0x31 and 0x35 (R119, R121, R136 to R145, R149 to R154, R160, R161, R206, R208).
-/
namespace Sys2Proof.Machine

/-- NOP has no effect (R121). -/
def execNop (f : Fields) : State → Host.Outcome State Fault Refusal :=
  issue (.nop f) f { cls := .none } fun t _ => .done t

/-- A word whose opcode is no instruction raises ILLEGAL_OP at decode (R119). -/
def execIllegalOp (w : BitVec 96) : State → Host.Outcome State Fault Refusal :=
  issue (.illegalOp w) (fieldsAt w) { cls := .none, dec := fun _ => some { cause := 0x01 } } fun t _ => .done t

/-! ## Branches (R136, R154) -/

/-- The target of an offset from the path's address (R102). -/
def Th.offset (t : Th) (off : Int) : BitVec 64 := addrOf (linear t.p.pia + off)

/-- LOOP_RANGE reason 3 of a BRA or BRX that leaves the body of the innermost open level (R154). -/
def stayIn (t : Th) (a : BitVec 64) (k : Res) : Res :=
  let n := t.w.d - 1
  if t.w.d != 0 && t.acts n && !(t.w.level n).has a then .trap t (loopRange n 3) else k

/-- BRA (R136, R153, R154). -/
def execBra (f : Fields) : State → Host.Outcome State Fault Refusal :=
  issue (.bra f) f kC fun t _ =>
    let a := t.offset f.hi.toInt
    notInEnd t (stayIn t a (.jump t a true true))

/-- BRX (R136, R153, R154). (DEDUCED; log 26) -/
def execBrx (f : Fields) : State → Host.Outcome State Fault Refusal :=
  issue (.brx f) f kC fun t _ =>
    let n := f.sa.toNat
    if bad (t.sreg n) then notInEnd t (.trap t (poisonUse 1 n))
    else
      let a := (t.sreg n).v
      notInEnd t (stayIn t a (checked t 0x21 [t.srcS 64 n 1] fun t => .jump t a true true))

/-! ## Calls and returns (R136 to R138) -/

/-- The slots of the return area that spilled records of the wave use (R137). -/
def usedSlots (w : Wave) : List Nat := (w.paths ++ w.spilled).flatMap fun q => q.recs.filterMap (·.spill)

/-- Records of the wave in the pool (R137). -/
def poolSize (w : Wave) : Nat := ((w.paths ++ w.spilled).map fun q => (q.recs.filter (·.spill.isNone)).length).sum

/-- The oldest record of a list that is in the pool, by place. (DESIGN CHOICE; log 27) -/
def oldest (l : List RetRec) : Option Nat := ((List.range l.length).reverse).find? fun i =>
  (l[i]?.bind (·.spill)).isNone && i < l.length

/-- The entries of a path's join chain, the path first. -/
def chainUp (w : Wave) : Nat → Path → List Path
  | 0, p => [p]
  | n + 1, p => p :: (match p.parent.bind w.any with
    | some j => chainUp w n j
    | none => [])

/-- The first of some entries that has a record in the pool, the outermost first, with the place of its oldest. -/
def poolOldest (l : List Path) : Option (Path × Nat) :=
  (l.filterMap fun q => (oldest q.recs).map fun i => (q, i)).foldl (fun m x => match m with
    | none => some x
    | some y => if x.1.level.toNat < y.1.level.toNat then some x else some y) none

/-- The entries below join `j` that are no entry of the chain: the sibling arm there. -/
def siblingArm (w : Wave) (chain : List Path) (j : Nat) : List Path := (w.paths ++ w.spilled).filter fun q =>
  !(chain.any fun c => c.eid == q.eid) && (chainUp w 64 q).any fun c => c.eid == j

/-- The entry whose oldest pool record a CALL of the path spills: its own, else a shared one, the outermost first, else one
of its sibling arm, or of the sibling arm of a join above it (R137). (DESIGN CHOICE; log 27) -/
def spillFrom (t : Th) : Option (Path × Nat) :=
  let chain := chainUp t.w 64 t.p
  match poolOldest [t.p] with
  | some x => some x
  | none => match poolOldest (chain.drop 1) with
    | some x => some x
    | none => chain.findSome? fun c => c.parent.bind fun j => poolOldest (siblingArm t.w chain j)

/-- The return-area slot of the next older spilled record than record `i` of entry `q`, or 0xFF (R137). -/
def linkOf (w : Wave) (q : Path) (i : Nat) : Nat :=
  let older := (q.recs.drop (i + 1)) ++ ((chainUp w 64 q).drop 1).flatMap (·.recs)
  (older.findSome? (·.spill)).getD 0xFF

/-- The virtual address of a return-area slot (R137, R204). (DESIGN CHOICE; log 27) -/
def retSlot (s : State) (w : Wave) (i : Nat) : BitVec 64 := BitVec.ofNat 64 (spillPage s w + 2048 + 16 * i)

/-- Make room in the pool, then push a return record (R137). (DESIGN CHOICE; log 27) -/
def pushRet (t : Th) (r : RetRec) (target : BitVec 64) (k : Th → Res) : Res :=
  let push (t : Th) : Res := k { t with p := { t.p with recs := r :: t.p.recs } }
  let t := { t with w := t.w.putPath t.p }
  if poolSize t.w < 16 then push t
  else match spillFrom t, (List.range 128).find? (fun i => !(usedSlots t.w).contains i) with
    | some (q, i), some slot =>
      match q.recs[i]? with
      | none => push t
      | some x =>
        let ws := two x.addr ++ two (BitVec.ofNat 64 (linkOf t.w q i * 256 + x.ldep.toNat))
        match t.s.agentWrite t.agent (retSlot t.s t.w slot) ws 4200 with
        | (s, some e) => .merr { t with s := s } { e with kind := 5 }
        | (s, none) =>
          let q' : Path := { q with recs := q.recs.set i { x with spill := some slot } }
          let put (l : List Path) : List Path := lmod l (fun z => z.eid == q.eid) fun _ => q'
          push { t with
            s := s, w := { t.w with paths := put t.w.paths, spilled := put t.w.spilled },
            p := if q.eid == t.p.eid then q' else t.p }
    | _, _ => .trap t { cause := cIllegalTarget, tia := some target, info := t.p.pia.toNat }

/-- CALL (R136, R137, R153). -/
def execCall (f : Fields) : State → Host.Outcome State Fault Refusal :=
  issue (.call f) f kC fun t _ =>
    let a := t.offset f.hi.toInt
    notInEnd t (pushRet t { addr := nextAddr t.p.pia, ldep := BitVec.ofNat 3 t.w.d, spill := none } a fun t =>
      .jump t a true true)

/-- CALLX (R136, R137, R153). -/
def execCallx (f : Fields) : State → Host.Outcome State Fault Refusal :=
  issue (.callx f) f kC fun t _ =>
    let n := f.sa.toNat
    if bad (t.sreg n) then notInEnd t (.trap t (poisonUse 1 n))
    else
      let a := (t.sreg n).v
      notInEnd t (checked t 0x23 [t.srcS 64 n 1] fun t =>
        pushRet t { addr := nextAddr t.p.pia, ldep := BitVec.ofNat 3 t.w.d, spill := none } a fun t =>
          .jump t a true true)

/-- A return record with its address and depth read back where it has been spilled (R137). -/
def readRet (t : Th) (r : RetRec) (k : Th → BitVec 64 → Nat → Res) : Res :=
  match r.spill with
  | none => k t r.addr r.ldep.toNat
  | some slot => match t.s.agentRead t.agent (retSlot t.s t.w slot) 4 4210 with
    | (s, .error e) => .merr { t with s := s } { e with kind := 5 }
    | (s, .ok ws) =>
      let t := { t with s := s }
      if ws.any bad then .trap t (poisonUse 1 0)
      else if ws.any (fun x => !sound x) then .trap t { cause := cResidue }
      else k t (word64 ws 0) (fld (word64 ws 1) 2 0)

/-- RET (R138, R153): the checks in their order, then the record is popped. -/
def execRet (f : Fields) : State → Host.Outcome State Fault Refusal :=
  issue (.ret f) f kC fun t _ =>
    notInEnd t (match t.recs with
      | [] => .trap t { cause := cIllegalTarget }
      | r :: _ => readRet t r fun t a ldep =>
        if t.p.recs.isEmpty then .trap t { cause := cIllegalTarget, info := a.toNat }
        else if ldep < t.w.d then .trap t { cause := cLoopOpen, info := t.w.d - 1 }
        else .jump { t with p := { t.p with recs := t.p.recs.drop 1 } } a true true)

/-! ## Vector branches (R161, R206, R208) -/

/-- The guard's source words of a vector branch (R176). -/
def brvSrcs (t : Th) (f : Fields) (k : Th → Res) : Res :=
  check t 0x25 false false true ((lanesOf t.p.exm).map fun L => (L, { srcs := guardSrc t f })) fun t _ => k t

/-- The innermost level whose body the path's address is in and that acts on the path (R161). -/
def bodyLevel (t : Th) : Option Nat :=
  ((List.range t.w.d).reverse).find? fun n => t.acts n && (t.w.level n).has t.p.pia && n < t.p.ldep.toNat

/-- What R161 makes of a BRV to `a` with reconvergence address `rc`: a violation at a level, an ordinary split, or an
exit from every level at or above the answer. -/
inductive Exits where
  | no
  | bad (n : Nat)
  | leaves (m : Nat)

/-- R161 for the levels that act on the path, innermost first: `m` is the outermost level left so far.
(DEDUCED; log 25) -/
def exitsFrom (t : Th) (a rc : BitVec 64) : Nat → Exits → Exits
  | 0, e => e
  | n + 1, e =>
    let l := t.w.level n
    if !(t.acts n && l.has t.p.pia && n < t.p.ldep.toNat) then exitsFrom t a rc n e
    else if l.has a then (if l.has rc then e else .bad n)
    else if l.enda.toNat < a.toNat && a == rc then exitsFrom t a rc n (.leaves n)
    else .bad n

/-- BRV (R161, R206). (DEDUCED; log 25) -/
def execBrv (f : Fields) : State → Host.Outcome State Fault Refusal :=
  issue (.brv f) f kL fun t tk =>
    let off (hi lo : Nat) : Int := toSigned 16 (fld f.hi hi lo)
    let a := t.offset (off 15 0)
    let rc := t.offset (off 31 16)
    notInEnd t (match exitsFrom t a rc t.w.d .no with
      | .bad n => .trap t (loopRange n 4)
      | e => brvSrcs t f fun t =>
        if tk = 0 then .done t
        else checkTarget t a fun t => match e with
          | .leaves m =>
            if tk = t.p.mask && !t.innerArm m then .jump (t.leaves m) a false true
            else
              readyExit t a m a fun t =>
                let src := t.p.pia
                let t := countRetire t { vec := true, exec := tk } true
                .gone (exitLanes t tk a m fun t => settle (t.goto (nextAddr src) false src))
          | _ =>
            if tk = t.p.mask then .jump t a false true
            else checkTarget t rc fun t =>
              obtain t 2 a fun t =>
                let src := t.p.pia
                let t := countRetire t { vec := true, exec := tk } true
                .gone (splitPath t tk a rc src))

/-- RCV (R208). -/
def execRcv (f : Fields) : State → Host.Outcome State Fault Refusal :=
  issue (.rcv f) f kC fun t _ =>
    match t.p.parent with
    | none => .trap t { cause := cIllegalTarget }
    | some _ => .jump t t.p.rca false false

/-! ## Loops (R149 to R153, R160) -/

/-- LOOP (R150). (DEDUCED; log 25) -/
def execLoop (f : Fields) : State → Host.Outcome State Fault Refusal :=
  issue (.loop f) f kC fun t _ =>
    let immc := f.hi.getLsbD 28
    let stg := fld f.hi 27 24
    let rot := fld f.hi 23 16
    let off := fld f.hi 15 0
    let cnt := f.sc.toNat * 256 + f.sb.toNat
    let n := f.dst.toNat
    let sa := f.sa.toNat
    notInEnd t (
      if !immc && bad (t.sreg sa) then .trap t (poisonUse 1 sa)
      else
        let count := if immc then cnt else (t.sreg sa).v.toNat
        let busy := (t.w.paths ++ t.w.spilled).any fun q =>
          q.eid != t.p.eid && q.st != .waiting && q.st != .join && q.st != .loopExit
        let nest : Trap := { cause := cLoopNest, info := n }
        let start := nextAddr t.p.pia
        let fin := t.offset off
        let out := t.w.level (t.w.d - 1)
        if busy || n != t.w.d then .trap t nest
        else if t.w.d != 0 && t.acts (t.w.d - 1) && (t.p.pia.toNat < out.starta.toNat || out.enda.toNat < fin.toNat) then
          .trap t nest
        else if 2 ^ 32 - 1 < count + max stg 1 - 1 then .trap t (loopRange n 1)
        else if rot != 0 && 8 * t.w.vregs < 192 + rot then .trap t (loopRange n 2)
        else if 2 ^ 57 ≤ fin.toNat then .trap t (loopRange n 5)
        else checked t 0x27 (if immc then [] else [t.srcS 64 sa 1]) fun t =>
          if count = 0 then .jump t (nextAddr fin) false false
          else
            let bits : BitVec 256 := BitVec.ofNat 256 (2 ^ 255 + rot * 2 ^ 248 + stg * 2 ^ 244 + t.rsd * 2 ^ 230 +
              (if t.w.hmode then 2 ^ 229 else 0) + count * 2 ^ 192 + (count + max stg 1 - 1) * 2 ^ 128 +
              fin.toNat * 2 ^ 64 + start.toNat)
            let t := { t with w := { (t.w.setLevel n (levelOf bits)) with d := n + 1 },
                              p := { t.p with ldep := BitVec.ofNat 3 (n + 1) } }
            .jump t start false false)

/-- LBRK (R160). (DEDUCED; log 25) -/
def execLbrk (f : Fields) : State → Host.Outcome State Fault Refusal :=
  issue (.lbrk f) f kC fun t _ =>
    match ((List.range t.w.d).reverse).find? t.acts with
    | none => .trap t { cause := cLoopNest }
    | some n =>
      let x := nextAddr (t.w.level n).enda
      if t.innerArm n then
        readyExit t x n x fun t => .gone (exitLanes (countRetire t {} false) t.p.mask x n fun t => settle t)
      else .jump (t.leaves n) x false false

/-! ## Path and wave control (R139) -/

/-- EXIT (R139): in handler mode every path of the wave ends. -/
def execExit (f : Fields) : State → Host.Outcome State Fault Refusal :=
  issue (.exit f) f { cls := .c, drain := true } fun t _ =>
    let t := countRetire t {} false
    if t.w.hmode then
      let mine (k : Park) : Bool := match k.who with
        | .path wk _ => wk == t.wk
        | _ => false
      let s := { t.s with parks := lmod t.s.parks mine fun k => { k with dead := true } }
      .gone (endWave (s.putWave t.wk t.w) t.wk)
    else .gone (endPath t)

/-- YIELD (R139). -/
def execYield (f : Fields) : State → Host.Outcome State Fault Refusal :=
  issue (.yield f) f kC fun t _ => .done { t with p := { t.p with yielded := true } }

/-- SLEEP: the path is not ready until its deadline, and then retires (R139). -/
def execSleep (f : Fields) : State → Host.Outcome State Fault Refusal :=
  issue (.sleep f) f kC fun t _ =>
    let until' := t.s.ptime + BitVec.ofNat 64 (fld f.hi 15 0)
    if until' = t.s.ptime then .done t else .hold { t with p := { t.p with wait := .sleep until' } }

/-- SETPRI (R139). -/
def execSetpri (f : Fields) : State → Host.Outcome State Fault Refusal :=
  issue (.setpri f) f kC fun t _ => .done { t with w := { t.w with prio := f.hi.extractLsb' 0 2 } }

/-! ## Traps (R144, R145, R163) -/

/-- TRAP aborts the crew, with NUM in the log record (R145). -/
def execTrap (f : Fields) : State → Host.Outcome State Fault Refusal :=
  issue (.trap f) f kP fun t _ =>
    .gone (t.commit.abortCrew t.w.crew cSoftware (trapRecs t.w) (BitVec.ofNat 64 (fld f.hi 15 0)))

/-- Leave the handler; with a level of handler mode open, LOOP_OPEN, which ends the crew (R163). -/
def tret (t : Th) (skip : Bool) : Res :=
  match ((List.range t.w.d).reverse).find? fun n => (t.w.level n).hlev with
  | some n => .trap t { cause := cLoopOpen, info := n }
  | none => .gone (leaveTrap (countRetire t {} false) skip)

/-- TRET.retry (R144). -/
def execTretRetry (f : Fields) : State → Host.Outcome State Fault Refusal :=
  issue (.tretRetry f) f kP fun t _ => tret t false

/-- TRET.skip (R144, R164). -/
def execTretSkip (f : Fields) : State → Host.Outcome State Fault Refusal :=
  issue (.tretSkip f) f kP fun t _ => tret t true

end Sys2Proof.Machine
end

