-- ==== Sys2Proof/Machine/Scalar.lean ====
section
/-!
DEFINITION. Scalar arithmetic, scalar predicates and special registers: opcodes 0x01 to 0x19 (R124 to R135).
-/
namespace Sys2Proof.Machine

/-- A scalar instruction of two sources (R128, R129). -/
def scal2 (op : Nat) (f : Fields) (g : Bool → Nat → Nat → Nat → Val) (t : Th) (_ : BitVec 64) : Res :=
  let ty := f.ty.toNat
  let w := tyW ty
  let a := t.srcS w f.sa.toNat 1
  let b := t.scalB f w
  runScalar t f op (ofVal ty 64 [a, b] (g (tySigned ty) w a.v b.v))

/-- A scalar instruction whose second source is a count or a control read in full (R131). -/
def scalCount (op : Nat) (f : Fields) (g : Bool → Nat → Nat → Nat → Val) (t : Th) (_ : BitVec 64) : Res :=
  let ty := f.ty.toNat
  let w := tyW ty
  let a := t.srcS w f.sa.toNat 1
  let b := if f.immf then immInt f w else t.srcS 64 f.sb.toNat 2
  runScalar t f op (ofVal ty 64 [a, b] (g (tySigned ty) w a.v b.v))

/-- A scalar instruction of one source. -/
def scal1 (op : Nat) (f : Fields) (g : Nat → Nat → Val) (t : Th) (_ : BitVec 64) : Res :=
  let ty := f.ty.toNat
  let a := t.srcS (tyW ty) f.sa.toNat 1
  runScalar t f op (ofVal ty 64 [a] (g (tyW ty) a.v))

/-- SADD (R129). -/
def execSadd (f : Fields) : State → Host.Outcome State Fault Refusal :=
  issue (.sadd f) f (kS 0x01) (scal2 0x01 f fun sgn w a b => addOp sgn f.sat w a b)

/-- SSUB (R129). -/
def execSsub (f : Fields) : State → Host.Outcome State Fault Refusal :=
  issue (.ssub f) f (kS 0x02) (scal2 0x02 f fun sgn w a b => subOp sgn f.sat w a b)

/-- SMUL (R129). -/
def execSmul (f : Fields) : State → Host.Outcome State Fault Refusal :=
  issue (.smul f) f (kS 0x03) (scal2 0x03 f fun _ w a b => mulOp w a b)

/-- SMULH (R129). -/
def execSmulh (f : Fields) : State → Host.Outcome State Fault Refusal :=
  issue (.smulh f) f (kS 0x04) (scal2 0x04 f fun sgn w a b => mulhOp sgn w a b)

/-- A division: quotient or remainder, checked by multiplying back (R130). -/
def scalDiv (op : Nat) (quot : Bool) (f : Fields) (t : Th) (_ : BitVec 64) : Res :=
  let ty := f.ty.toNat
  let w := tyW ty
  let a := t.srcS w f.sa.toNat 1
  let b := t.scalB f w
  let (q, m) := divRem (tySigned ty) w a.v b.v
  let v := regForm ty 64 (if quot then q else m)
  runScalar t f op
    { srcs := [a, b], v := v,
      chk := fun y => if quot then divCheck w a.v b.v (y % 2 ^ w) m else divCheck w a.v b.v q (y % 2 ^ w) }

/-- SDIV (R130). -/
def execSdiv (f : Fields) : State → Host.Outcome State Fault Refusal :=
  issue (.sdiv f) f (kS 0x05) (scalDiv 0x05 true f)

/-- SREM (R130). -/
def execSrem (f : Fields) : State → Host.Outcome State Fault Refusal :=
  issue (.srem f) f (kS 0x06) (scalDiv 0x06 false f)

/-- SAND (R129). -/
def execSand (f : Fields) : State → Host.Outcome State Fault Refusal :=
  issue (.sand f) f (kS 0x07) (scal2 0x07 f fun _ _ a b => andOp a b)

/-- SOR (R129). -/
def execSor (f : Fields) : State → Host.Outcome State Fault Refusal :=
  issue (.sor f) f (kS 0x08) (scal2 0x08 f fun _ _ a b => orOp a b)

/-- SXOR (R129). -/
def execSxor (f : Fields) : State → Host.Outcome State Fault Refusal :=
  issue (.sxor f) f (kS 0x09) (scal2 0x09 f fun _ _ a b => xorOp a b)

/-- SSHL (R131). -/
def execSshl (f : Fields) : State → Host.Outcome State Fault Refusal :=
  issue (.sshl f) f (kS 0x0A) (scalCount 0x0A f fun _ w a k => shlOp w a k)

/-- SSHR (R131). -/
def execSshr (f : Fields) : State → Host.Outcome State Fault Refusal :=
  issue (.sshr f) f (kS 0x0B) (scalCount 0x0B f fun _ w a k => shrOp w a k)

/-- SSRA (R131). -/
def execSsra (f : Fields) : State → Host.Outcome State Fault Refusal :=
  issue (.ssra f) f (kS 0x0C) (scalCount 0x0C f fun _ w a k => sraOp w a k)

/-- SMIN (R129). -/
def execSmin (f : Fields) : State → Host.Outcome State Fault Refusal :=
  issue (.smin f) f (kS 0x0D) (scal2 0x0D f fun sgn w a b => minOp sgn w a b)

/-- SMAX (R129). -/
def execSmax (f : Fields) : State → Host.Outcome State Fault Refusal :=
  issue (.smax f) f (kS 0x0E) (scal2 0x0E f fun sgn w a b => maxOp sgn w a b)

/-- SMOV (R129): reads only source B. -/
def execSmov (f : Fields) : State → Host.Outcome State Fault Refusal :=
  issue (.smov f) f (kS 0x0F) fun t _ =>
    let ty := f.ty.toNat
    let b := t.scalB f (tyW ty)
    runScalar t f 0x0F (ofVal ty 64 [b] { v := b.v, p := ri b.v })

/-- SSEL (R129): B[c] is a predicate source, and only the selected source is read. -/
def execSsel (f : Fields) : State → Host.Outcome State Fault Refusal :=
  issue (.ssel f) f (kS 0x10) fun t _ =>
    let ty := f.ty.toNat
    let w := tyW ty
    let c := t.breg f.sc.toNat
    if bad c then .trap t (poisonUse 2 f.sc.toNat)
    else
      let x := if c.v == 1 then t.srcS w f.sa.toNat 1 else t.scalB f w
      runScalar t f 0x10 (ofVal ty 64 [x] { v := x.v, p := ri x.v })

/-- A condition of SCMP and VCMP (R132). -/
def cmpHolds (sub : Nat) (x y : Int) : Bool :=
  match sub with
  | 0 => x == y
  | 1 => x != y
  | 2 => x < y
  | 3 => x ≤ y
  | 4 => y < x
  | _ => y ≤ x

/-- SCMP (R132). -/
def execScmp (f : Fields) : State → Host.Outcome State Fault Refusal :=
  issue (.scmp f) f (kS 0x11) fun t _ =>
    let ty := f.ty.toNat
    let w := tyW ty
    let sgn := tySigned ty
    let a := t.srcS w f.sa.toNat 1
    let b := t.scalB f w
    let r := if cmpHolds f.sub.toNat (rdInt sgn w a.v) (rdInt sgn w b.v) then 1 else 0
    check t 0x11 true false false [(0, { srcs := [a, b], v := r, chk := fun y => y % 2 == r })] fun t outs =>
      match outs with
      | (_, x) :: _ => .done (t.setB f.dst.toNat (mkP x.bad (BitVec.ofNat 1 x.v)))
      | [] => .done t

/-- SLEA (R129): the SSHL identity, then the SADD identity. -/
def execSlea (f : Fields) : State → Host.Outcome State Fault Refusal :=
  issue (.slea f) f (kS 0x12) (scal2 0x12 f fun _ w a b =>
    let s := shlOp w b f.sub.toNat
    let r := addId w a s.v
    { v := r.v, p := r.p - ri s.v + s.p })

/-- SCLZ (R129). -/
def execSclz (f : Fields) : State → Host.Outcome State Fault Refusal :=
  issue (.sclz f) f (kS 0x13) (scal1 0x13 f fun w a => treeVal (clz w a))

/-- SPOPC (R129). -/
def execSpopc (f : Fields) : State → Host.Outcome State Fault Refusal :=
  issue (.spopc f) f (kS 0x14) (scal1 0x14 f fun _ a => treeVal (bitCount a))

/-- SBFX (R131). -/
def execSbfx (f : Fields) : State → Host.Outcome State Fault Refusal :=
  issue (.sbfx f) f (kS 0x15) (scalCount 0x15 f fun sgn w a ctl => bfxOp sgn w a ctl)

/-- SBFI (R131). -/
def execSbfi (f : Fields) : State → Host.Outcome State Fault Refusal :=
  issue (.sbfi f) f (kS 0x16) fun t _ =>
    let ty := f.ty.toNat
    let w := tyW ty
    let a := t.srcS w f.sa.toNat 1
    let b := if f.immf then immInt f w else t.srcS 64 f.sb.toNat 2
    let c := t.srcS w f.sc.toNat 3
    runScalar t f 0x16 (ofVal ty 64 [a, b, c] (bfiOp w a.v b.v c.v))

/-! ## Special registers (R134, R135) -/

/-- PWRTOK of the wave (R94). -/
def pwrtok (t : Th) : BitVec 64 :=
  let purse := min (sget 0 t.s.pkg.purse t.w.die / 137760) 65535
  BitVec.ofNat 64 (t.w.tokwait.toNat * 2 ^ 32 + purse * 2 ^ 16 + sget 0 t.s.pkg.qbuf (4 * t.w.coreN + t.w.slot / 16))

/-- CAPMSC as a wave on die `d` reads it (R14). -/
def capmsc (d : Nat) : BitVec 64 :=
  BitVec.ofNat 64 (((List.range 8).map dieMib).sum * 2 ^ 32 + Config.dualFuses.toNat * 2 ^ 24 + dieMib d)

/-- A special register other than LID, as the wave reads it (R134). -/
def readSpecial (t : Th) (n : Nat) : BitVec 64 :=
  match n with
  | 0x01 => BitVec.ofNat 64 t.w.wid
  | 0x02 => BitVec.ofNat 64 ((t.crew.map (·.idx.toNat)).getD 0)
  | 0x03 => BitVec.ofNat 64 ((t.crew.map (·.carav.toNat)).getD 0)
  | 0x04 => BitVec.ofNat 64 t.w.die
  | 0x05 => BitVec.ofNat 64 t.w.core
  | 0x06 => BitVec.ofNat 64 (t.w.slot / 16)
  | 0x07 => t.w.stkidx.setWidth 64
  | 0x10 => t.s.clk t.w.coreN
  | 0x11 => t.s.ptime
  | 0x18 => (t.s.ctx t.w.pasid).gen.setWidth 64
  | 0x20 => t.w.chkctl
  | 0x21 => t.w.inj
  | 0x28 => t.w.tcause
  | 0x29 => t.w.tia
  | 0x2A => t.w.tlanes
  | 0x2B => t.w.tpath
  | 0x2C => t.w.taddr
  | 0x2D => t.w.tinfo
  | 0x2E => t.w.tvec
  | 0x38 => pwrtok t
  | 0x39 => t.w.subcnt
  | 0x3A => capmsc t.w.die
  | _ => sget 0 t.w.tscr (n - 0x30)

/-- SREAD: the Lane register LID goes to each lane of EXM (R134, R135). -/
def execSread (f : Fields) : State → Host.Outcome State Fault Refusal :=
  issue (.sread f) f kC fun t _ =>
    let n := (yNum f).toNat
    if n = 0 then
      .done ((lanesOf t.p.exm).foldl (fun t L => t.setV f.dst.toNat L (mkW (BitVec.ofNat 32 (t.w.lidOf L)))) t)
    else if t.splitWrite f.dst.toNat then .trap t { cause := cSplitWrite, info := f.dst.toNat }
    else .done (t.setS f.dst.toNat (mkW (readSpecial t n)))

/-- The writable bits of a special register (R134, R142, R180, R181); reserved bits keep 0 (R3). -/
def specialMask (n : Nat) : BitVec 64 :=
  match n with
  | 0x20 => 0xFFFFFFFF00000003
  | 0x21 => 0xC01FFF01FFFFFFFF
  | 0x28 => 0x0000000000FF01FF
  | 0x2B => 0x0000000000007FFF
  | _ => 0xFFFFFFFFFFFFFFFF

/-- The wave after a write of a special register; a register marked RO ignores it (R134). -/
def writeSpecial (w : Wave) (n : Nat) (x : BitVec 64) : Wave :=
  let x := x &&& specialMask n
  match n with
  | 0x20 => { w with chkctl := x }
  | 0x21 => { w with inj := x }
  | 0x28 => { w with tcause := x }
  | 0x29 => { w with tia := x }
  | 0x2A => { w with tlanes := x }
  | 0x2B => { w with tpath := x }
  | 0x2C => { w with taddr := x }
  | 0x2D => { w with tinfo := x }
  | 0x2E => { w with tvec := x }
  | 0x39 => { w with subcnt := x }
  | 0x30 | 0x31 | 0x32 | 0x33 => { w with tscr := sset 0 w.tscr (n - 0x30) x }
  | _ => w

/-- SWRITE: PRIV_OP at decode for a register marked H outside handler mode, POISON_USE of a poisoned source (R134). -/
def execSwrite (f : Fields) : State → Host.Outcome State Fault Refusal :=
  let n := (yNum f).toNat
  issue (.swrite f) f
    { cls := .c, dec := fun t => if isHandlerOnly n && !t.w.hmode then some { cause := cPrivOp } else none }
    fun t _ => useS t 0x18 f.sa.toNat 5 fun t x => .done { t with w := writeSpecial t.w n x }

/-- BLOP (R133). -/
def execBlop (f : Fields) : State → Host.Outcome State Fault Refusal :=
  issue (.blop f) f kC fun t _ =>
    let a := t.breg f.sa.toNat
    let b := t.breg f.sb.toNat
    let one := 4 ≤ f.sub.toNat
    let v : BitVec 1 := match f.sub.toNat with
      | 0 => a.v &&& b.v
      | 1 => a.v ||| b.v
      | 2 => a.v ^^^ b.v
      | 3 => a.v &&& ~~~b.v
      | 4 => a.v
      | _ => ~~~a.v
    .done (t.setB f.dst.toNat (mkP (bad a || (!one && bad b)) v))

end Sys2Proof.Machine
end

