-- ==== Sys2Proof/Machine/CrossLane.lean ====
section
/-!
DEFINITION. Cross-lane instructions, the execute mask and path information: opcodes 0x90 to 0x9A, and the exchange of
REGROUP (R210 to R218).
-/
namespace Sys2Proof.Machine

/-- The executing lane of LID `l`, if any: the only lanes that another lane may read (R213). -/
def laneOfLid (w : Wave) (ex : BitVec 64) (l : Nat) : Option Nat := (lanesOf ex).find? fun L => w.lidOf L == l

/-- A word or pair that a lane receives, with the residues it carries as its prediction (R214). (DEDUCED; log 38) -/
def carried (t : Th) (k L w : Nat) (others : List Src) : LaneOut :=
  let x := t.srcV w k L 1
  let lo := (t.vreg k L).r.toNat
  let hi := (t.vreg (k + 1) L).r.toNat
  { srcs := x :: others, v := x.v,
    chk := fun y => y % 2 ^ 32 % 15 == lo && (w == 32 || y / 2 ^ 32 % 15 == hi) }

/-- The fill operand of a lane, with its own residue (R213). -/
def filled (t : Th) (f : Fields) (L w : Nat) (others : List Src) : LaneOut :=
  let x := t.srcC f w L
  { srcs := x :: others, v := x.v, chk := fun y => y % 15 == x.v % 15 }

/-- What lane `L` receives from the lane of LID `s`, or its fill (R213). -/
def fromLid (t : Th) (f : Fields) (ex : BitVec 64) (L w : Nat) (s : Int) (others : List Src) : LaneOut :=
  match (if 0 ≤ s && s < 64 then laneOfLid t.w ex s.toNat else none) with
  | some M => carried t f.sa.toNat M w others
  | none => filled t f L w others

/-- An index operand: an unsigned 32-bit word (R215). -/
def Th.srcIndex (t : Th) (f : Fields) (L : Nat) : Src := if f.immf then immInt f 32 else t.srcB f 32 L

/-- VSHFL (R215). (DEDUCED; log 21) -/
def execVshfl (f : Fields) : State → Host.Outcome State Fault Refusal :=
  issue (.vshfl f) f kL fun t ex =>
    let w := tyW f.ty.toNat
    runVec t f 0x90 (w == 64) ex fun L =>
      let l := t.w.lidOf L
      let b := t.srcIndex f L
      let s : Int := match f.sub.toNat with
        | 0 => b.v
        | 1 => l - b.v
        | 2 => l + b.v
        | _ => (l ^^^ b.v : Nat)
      fromLid t f ex L w s [b]

/-- VLROT (R215). -/
def execVlrot (f : Fields) : State → Host.Outcome State Fault Refusal :=
  issue (.vlrot f) f kL fun t ex =>
    let w := tyW f.ty.toNat
    let g : Nat := match f.sub.toNat with
      | 0 => 64
      | 1 => 8
      | _ => 32
    runVec t f 0x91 (w == 64) ex fun L =>
      let l := t.w.lidOf L
      let b := t.srcIndex f L
      fromLid t f ex L w (g * (l / g) + ((l : Int) - b.v) % g) [b]

/-- VREADL executes once when any lane executes (R215). (DEDUCED; log 21) -/
def execVreadl (f : Fields) : State → Host.Outcome State Fault Refusal :=
  issue (.vreadl f) f kL fun t ex =>
    let w := tyW f.ty.toNat
    let b := if f.immf then immInt f 32 else t.srcS 32 f.sb.toNat 2
    let x := match laneOfLid t.w ex b.v with
      | some M => t.srcV w f.sa.toNat M 1
      | none => t.srcS w f.sc.toNat 3
    runOnce t f 0x92 ex (some f.dst.toNat) (fun _ => [x, b]) fun t poison =>
      .done (t.setS f.dst.toNat (mkP poison (BitVec.ofNat 64 x.v)))

/-- VVOTE (R216). (DEDUCED; log 21) -/
def execVvote (f : Fields) : State → Host.Outcome State Fault Refusal :=
  issue (.vvote f) f kL fun t ex =>
    let n := f.sa.toNat
    let p := t.srcP n 1
    let bool (b : Bool) : BitVec 1 := if b then 1 else 0
    if f.sub == 3 then
      let vals := (lanesOf ex).map fun L => (t.vreg n L).v
      runOnce t f 0x93 ex none (fun L => [t.srcV 32 n L 1]) fun t poison =>
        .done (t.setB f.dst.toNat (mkP poison (bool (vals.all fun v => v == vals.headD 0))))
    else if ex != 0 && p.bad then .trap t (poisonUse 2 n ex)
    else
      let hits := (lanesOf ex).filter fun L => p.v.testBit L
      if f.sub == 0 then
        runOnce t f 0x93 ex (some f.dst.toNat) (fun _ => [p]) fun t _ =>
          .done (t.setS f.dst.toNat (mkW (maskOf 64 (hits.map t.w.lidOf))))
      else
        let r := if f.sub == 1 then !hits.isEmpty else hits.length == popcount ex
        runOnce t f 0x93 ex none (fun _ => [p]) fun t _ => .done (t.setB f.dst.toNat (mkW (bool r)))

/-- A source that only passes on poison. -/
def poisonOnly (s : Src) : Src := { s with ok := true }

/-- The sum of patterns, with its prediction (R216). -/
def sumVal (w : Nat) (xs : List Nat) : Val :=
  { v := xs.sum % 2 ^ w, p := (xs.map ri).sum - mi (xs.sum / 2 ^ w : Nat) }

/-- The lesser or greater of a list of patterns. -/
def bestVal (sgn : Bool) (w : Nat) (max : Bool) (xs : List Nat) : Val :=
  let v := xs.foldl (fun (m : Option Nat) x => match m with
    | none => some x
    | some y => some (if max then (maxOp sgn w y x).v else (minOp sgn w y x).v)) none
  treeVal (v.getD 0)

/-- VSCAN: lane l receives the combination of the lanes of lower LID, its own too unless .exc (R216).
(DEDUCED; log 23) -/
def execVscan (f : Fields) : State → Host.Outcome State Fault Refusal :=
  issue (.vscan f) f kL fun t ex =>
    let ty := f.ty.toNat
    let sub := f.sub.toNat
    runVec t f 0x94 false ex fun L =>
      let l := t.w.lidOf L
      let w := tyW ty
      let before := (lanesOf ex).filter fun M => if sub = 1 then t.w.lidOf M < l else t.w.lidOf M ≤ l
      let src (M : Nat) : Src := t.srcA f w M
      let xs := before.map fun M => (src M).v
      let srcs := (before.map fun M => if M = L then src M else poisonOnly (src M)) ++
        (if sub = 1 then [{ src L with bad := false }] else [])
      ofVal ty 32 srcs (if sub ≤ 1 then sumVal w xs else bestVal (tySigned ty) w (sub == 3) xs)

/-- VRED: one S register from the executing lanes (R216). -/
def execVred (f : Fields) : State → Host.Outcome State Fault Refusal :=
  issue (.vred f) f kL fun t ex =>
    let ty := f.ty.toNat
    let w := tyW ty
    let n := f.dst.toNat
    let xs := (lanesOf ex).map fun L => (t.srcA f w L).v
    let x : Val := match f.sub.toNat with
      | 0 => sumVal w xs
      | 1 => bestVal (tySigned ty) w false xs
      | 2 => bestVal (tySigned ty) w true xs
      | 3 => treeVal (xs.foldl (fun a b => a &&& b) (2 ^ w - 1))
      | 4 => treeVal (xs.foldl (fun a b => a ||| b) 0)
      | _ => treeVal (xs.foldl (fun a b => a ^^^ b) 0)
    if ex = 0 then .done t
    else if t.splitWrite n then .trap t { cause := cSplitWrite, info := n }
    else
      let outs := (lanesOf ex).map fun L =>
        (L, { ofVal ty 64 [] x with srcs := guardSrc t f ++ [t.srcA f w L] })
      check t 0x95 false false true outs fun t outs =>
        .done (t.setS n (mkP (outs.any fun y => y.2.bad) (BitVec.ofNat 64 (regForm ty 64 x.v))))

/-- VCPRS: the executing lane of rank j receives a of the j-th selected lane, or its fill (R215). -/
def execVcprs (f : Fields) : State → Host.Outcome State Fault Refusal :=
  issue (.vcprs f) f kL fun t ex =>
    let w := tyW f.ty.toNat
    let n := f.sb.toNat
    let sel := t.srcP n 7
    if ex != 0 && sel.bad then .trap t (poisonUse 2 n ex)
    else
      let order := t.w.byLid ex
      let chosen := order.filter fun L => sel.v.testBit L
      runVec t f 0x97 (w == 64) ex fun L =>
        match chosen[order.idxOf L]? with
        | some M => carried t f.sa.toNat M w [sel]
        | none => filled t f L w [sel]

/-! ## Execute mask (R211) -/

/-- SETEXM evaluates its guard over the lanes of MASK. -/
def execSetexm (f : Fields) : State → Host.Outcome State Fault Refusal :=
  issue (.setexm f) f kL fun t _ =>
    let n := f.sb.toNat
    match guardOf t .l f with
    | .error x => .trap t x
    | .ok g =>
      let s := t.sreg n
      if bad s then .trap t (poisonUse 5 n t.p.exm)
      else check t 0x98 false false true
        ((lanesOf t.p.mask).map fun L => (L, { srcs := guardSrc t f ++ [t.srcS 64 n 2] })) fun t _ =>
          .done { t with p := { t.p with exm := t.p.mask &&& s.v &&& g } }

/-- Write an S register that no source but the guard feeds; it is written even when no lane executes. -/
def putS (t : Th) (f : Fields) (op : Nat) (ex : BitVec 64) (x : BitVec 64) : Res :=
  let n := f.dst.toNat
  if t.splitWrite n then .trap t { cause := cSplitWrite, info := n }
  else check t op false false true ((lanesOf ex).map fun L => (L, { srcs := guardSrc t f })) fun t _ => .done (t.setS n (mkW x))

/-- GETEXM. -/
def execGetexm (f : Fields) : State → Host.Outcome State Fault Refusal :=
  issue (.getexm f) f kL fun t ex => putS t f 0x99 ex (if f.sub == 1 then t.p.mask else t.p.exm)

/-- The word of PATHINFO. -/
def pathInfo (t : Th) : BitVec 64 :=
  let sib := (t.w.paths ++ t.w.spilled).any fun q =>
    q.eid != t.p.eid && t.p.parent.isSome && q.parent == t.p.parent && q.st == .running
  BitVec.ofNat 64 (t.p.idx + (if t.w.half then 8 else 0) + 16 * t.w.paths.length + 256 * t.w.spilled.length +
    (if sib then 2 ^ 12 else 0) + t.p.level.toNat * 2 ^ 13 + t.p.ldep.toNat * 2 ^ 19)

/-- PATHINFO. -/
def execPathinfo (f : Fields) : State → Host.Outcome State Fault Refusal :=
  issue (.pathinfo f) f kL fun t ex => putS t f 0x9A ex (pathInfo t)

/-! ## REGROUP (R217, R218) -/

/-- REGROUP waits for its participants; in a W32 object it raises ILLEGAL_OP (R212). (DEDUCED; log 57) -/
def execRegroup (f : Fields) : State → Host.Outcome State Fault Refusal :=
  issue (.regroup f) f { cls := .l, dec := fun t => if t.w.w32 then some { cause := cIllegalOp } else none } fun t ex =>
    if 1 < t.w.paths.length + t.w.spilled.length || t.w.d != 0 then .trap t { cause := cLoopNest }
    else .hold { t with p := { t.p with
      wait := .regroup (f.hi.extractLsb' 0 8) (f.hi.extractLsb' 16 16) f.sa.toNat (fld f.hi 14 8) ex } }

/-- A participant that has issued REGROUP. -/
structure Part where
  wk  : Nat
  w   : Wave
  p   : Path
  sa  : Nat
  cnt : Nat
  ex  : BitVec 64

/-- A survivor that changes its wave. -/
structure Mover where
  wid  : Nat
  lid  : Nat
  sa   : Nat
  regs : List (RWord 32)
  gen  : RWord 32

/-- The participants of the regroup that wave `wk` waits in, lowest WID first; none while one has still to come. -/
def regroupParts (s : State) (wk : Nat) : Option (List Part) :=
  match (s.wave wk).bind fun w => w.paths.head?.map fun p => (w, p) with
  | some (w, { wait := .regroup num wm _ _ _, .. }) =>
    let ws := (List.range 16).flatMap fun i => s.waves.filter fun x =>
      x.2.crew == w.crew && x.2.wid == i && wm.getLsbD i && !x.2.ended
    ws.foldr (fun x acc => match acc, x.2.paths.head? with
      | some l, some p => if p.held.isSome then none else match p.wait with
        | .regroup n m sa cnt ex =>
          if n = num && m = wm then some ({ wk := x.1, w := x.2, p := p, sa := sa, cnt := cnt, ex := ex } :: l) else none
        | _ => none
      | _, _ => none) (some [])
  | _ => none

/-- The view of a participant. -/
def Part.view (s : State) (x : Part) : Th := { s := s, wk := x.wk, w := x.w, p := x.p }

/-- The survivors of a wave that is no target, lowest LID first. -/
def moversOf (s : State) (x : Part) : List Mover :=
  (x.w.byLid x.ex).map fun L =>
    { wid := x.w.wid, lid := x.w.lidOf L, sa := x.sa, regs := (List.range x.cnt).map fun k => (x.view s).vreg (x.sa + k) L,
      gen := (x.view s).gen L }

/-- A target or emptied wave after the exchange: `keep` its survivors in place, `come` the arrivals with their lanes.
(DEDUCED; log 57) -/
def regrouped (s : State) (x : Part) (keep : BitVec 64) (come : List (Nat × Mover)) : Th :=
  let t := come.foldl (fun (t : Th) m =>
    ((List.range m.2.regs.length).foldl (fun t k => t.setV (m.2.sa + k) m.1 (m.2.regs.getD k (zw 32))) t).setGen m.1 m.2.gen)
    (x.view s)
  let occ : List (Nat × Nat) := (lanesOf keep).map (fun L => (L, 64 * x.w.wid + x.w.lidOf L)) ++
    come.map fun m => (m.1, 64 * m.2.wid + m.2.lid)
  let mask := maskOf 64 (occ.map (·.1))
  let order := ((List.range 1024).flatMap fun k => (occ.filter fun o => o.2 == k).map (·.1)) ++ lanesOf (~~~mask)
  let lid := (List.range 64).foldl (fun m L =>
    sset (BitVec.ofNat 6 L) m L (BitVec.ofNat 6 (order.idxOf L))) ([] : SMap (BitVec 6))
  -- lanes that keep their occupant, or that are unoccupied before and after
  let same := keep ||| (~~~x.p.mask &&& ~~~mask)
  let pm := (List.range 14).foldl (fun m k =>
    let r := t.preg (k + 1)
    sset (zw 64) m (k + 1) (mkP (bad r) (r.v &&& same))) t.w.p
  { t with w := { t.w with lid := lid, p := sset (zw 64) pm 0 (mkW mask) }, p := { t.p with mask := mask, exm := mask } }

/-- Run the exchange wave by wave: targets take arrivals from `ms` into their free lanes (R218). (DEDUCED; log 57) -/
def exchange : State → Nat → List Mover → List Part → State
  | s, _, _, [] => s
  | s, targets, ms, x :: rest =>
    let keep := if targets = 0 then 0 else x.ex
    let room := if targets = 0 then [] else lanesOf (~~~keep)
    let come := room.zip ms
    let t := regrouped s x keep come
    let s := finish t { vec := true, exec := x.ex } (.done t)
    exchange s (targets - 1) (ms.drop come.length) rest

/-- REGROUP_EXCHANGE: once every participant has issued or ended (R218). -/
def execRegroupExchange (wk : Nat) (s : State) : Host.Outcome State Fault Refusal :=
  match regroupParts s wk with
  | none => answer s
  | some ps =>
    let n := (ps.map fun x => popcount x.ex).sum
    let t := (n + 63) / 64
    answer (exchange s t ((ps.drop t).flatMap (moversOf s)) ps)

end Sys2Proof.Machine
end

