-- ==== Sys2Proof/Machine/Debug.lean ====
section
/-!
DEFINITION. Marks, breakpoints, snapshots, replay regions, samples and latency histograms: opcodes 0xE8 to 0xEC (R365 to
R373, R406).
-/
namespace Sys2Proof.Machine

/-! ## Marks and breakpoints (R366, R367) -/

/-- MARK (R367). -/
def execMark (f : Fields) : State → Host.Outcome State Fault Refusal :=
  issue (.mark f) f kC fun t _ => .done (t.trace 0 (yNum f).toNat t.p.pia)

/-- BRKPT (R366): one that was held retires when it is released. -/
def execBrkpt (f : Fields) : State → Host.Outcome State Fault Refusal :=
  issue (.brkpt f) f kC fun t _ =>
    if t.p.wait == .brkpt then .done t
    else match breakpoint t (yNum f).toNat false with
      | (_, some r) => r
      | (t, none) => .done t

/-- IBP_HIT (R366): the path is about to issue the instruction that register `i` names. -/
def execIbpHit (wk eid i : Nat) (s : State) : Host.Outcome State Fault Refusal :=
  answer (match s.view wk eid with
    | none => s
    | some t =>
      if ibpHit t != some i then s
      else match breakpoint t (0xFFF0 + i) true with
        | (t, some r) => finish t {} r
        | (t, none) => ({ t with p := { t.p with ibpSkip := true } }).commit)

/-! ## Snapshots (R367) -/

/-- The eight words of a snapshot: the key is that after the SNAP (R373). -/
def snapWords (t : Th) : List (BitVec 64) :=
  let cnt (k : Nat) : BitVec 64 := t.s.dbgReg t.w.pasid t.w.coreN (0x174 + k)
  let pc := if t.w.hmode then t.p.pc else t.p.pc + 1
  [t.s.ptime, t.s.clk t.w.coreN, cnt 0, cnt 1, cnt 2, cnt 3, t.p.tc ++ pc,
    BitVec.ofNat 64 ((identOf t.w).toNat * 2 ^ 48 + t.p.idx)]

/-- SNAP (R367). -/
def execSnap (f : Fields) : State → Host.Outcome State Fault Refusal :=
  issue (.snap f) f kC fun t ex =>
    let f' : Fields := { f with scls := 2, hi := 0x00F00000 }
    let a : Acc := { op := 0xEC, c := true, n := 64, align := 64, nd := { w := true } }
    let word (x : BitVec 32) : Src := { v := x.toNat, bad := false, ok := true, wher := 0, reg := 0 }
    let data (_ : Nat) : List Src := (snapWords t).flatMap fun x => [word (x.extractLsb' 0 32), word (x.extractLsb' 32 32)]
    access t f' a false ex noData fun t ps => storeRun t f' a ps data

/-! ## Replay regions (R371, R372, R406) -/

/-- Is the wave's only path one that may open or close a region? LOOP_NEST otherwise. -/
def alone (t : Th) (inside : Bool) : Bool :=
  t.w.paths.length ≤ 1 && (t.crew.bind (·.region)).isSome == inside

/-- RPLBEGIN waits for the other waves of the crew (R371). (DEDUCED; log 31) -/
def rplBegin (cmp : Bool) (f : Fields) (t : Th) (_ : BitVec 64) : Res :=
  useS t 0xEA f.sa.toNat 0 fun t a =>
    if a.toNat % 4096 != 0 then .trap t { cause := cMisaligned, addr := a }
    else if !alone t false then .trap t { cause := cLoopNest }
    else .hold { t with p := { t.p with wait := .rplbegin a cmp } }

/-- RPLBEGIN.rec (R371). -/
def execRplbeginRec (f : Fields) : State → Host.Outcome State Fault Refusal :=
  issue (.rplbeginRec f) f kC (rplBegin false f)

/-- RPLBEGIN.cmp (R371). -/
def execRplbeginCmp (f : Fields) : State → Host.Outcome State Fault Refusal :=
  issue (.rplbeginCmp f) f kC (rplBegin true f)

/-- RPLEND waits for the other waves of the crew (R372). -/
def execRplend (f : Fields) : State → Host.Outcome State Fault Refusal :=
  issue (.rplend f) f kC fun t _ =>
    if !alone t true then .trap t { cause := cLoopNest } else .hold { t with p := { t.p with wait := .rplend } }

/-- The paths of a crew that wait as `q` says. -/
def waiters (s : State) (h : Nat) (q : Wait → Bool) : List (Nat × Nat) :=
  (s.waves.filter fun x => x.2.crew == h).flatMap fun x => (x.2.paths.filter fun p => q p.wait).map fun p => (x.1, p.eid)

/-- Does every wave of the crew wait as `q` says, not held by a debugger, or has it ended? -/
def gathered (s : State) (h : Nat) (q : Wait → Bool) : Bool :=
  s.waves.all fun x => x.2.crew != h || x.2.ended || x.2.paths.any fun p => q p.wait && p.held.isNone

/-- Finish the waiting instruction of each path as `r` says. -/
def finishAll (s : State) (l : List (Nat × Nat)) (r : Th → Res) : State :=
  l.foldl (fun s x => match s.view x.1 x.2 with
    | some t => finish t {} (r t)
    | none => s) s

/-- The RCB's words, or the cause that stops the instruction (R406). -/
def rcbChecked (t : Th) (r : Region) : Th × Except MErr (List (RWord 32)) :=
  match rcbWords t.s t.agent r with
  | (s, .error e) => ({ t with s := s }, .error e)
  | (s, .ok ws) =>
    let t := { t with s := s }
    if ws.any bad then (t, .error { cause := cPoisonUse, info := 0x500, addr := r.rcb })
    else if ws.all sound then (t, .ok ws) else (t, .error { cause := cResidue })

/-- The RCB and, in a compare pass, the page list, read and checked as RPLBEGIN finds them; a recording pass zeroes its
fields. (DEDUCED; log 31) -/
def openRcb (t : Th) (r : Region) : Th × Option MErr :=
  match rcbChecked t r with
  | (t, .error e) => (t, some e)
  | (t, .ok ws) =>
    let w2 := word64 ws 2
    if r.cmp then
      match readList t.s t.agent r (fld w2 31 16) 0 with
      | (s, .error e) => ({ t with s := s }, some e)
      | (s, .ok _) => ({ t with s := s }, none)
    else
      let w2 := setFld (setFld (setBit (setBit (setBit w2 32 false) 34 false) 35 false) 31 16 0) 47 40 0
      match t.s.agentWrite t.agent (r.rcb + 16) (two w2 ++ two (word64 ws 3)) 2401 with
      | (s, e) => ({ t with s := s }, e)

/-- The region opens: the keys and log indices of the crew's waves start anew (R373). -/
def State.openRegion (s : State) (h : Nat) (r : Region) : State :=
  let key (p : Path) : Path := { p with pc := 0, tc := 0, epc := 0, etc := 0 }
  let go (w : Wave) : Wave := { w with logIdx := 0, paths := w.paths.map key }
  { s with
    waves := s.waves.map fun x => if x.2.crew == h then (x.1, go x.2) else x,
    crews := lmod s.crews (fun c => c.h == h) fun c => { c with region := some r } }

def isBegin : Wait → Option (BitVec 64 × Bool)
  | .rplbegin a c => some (a, c)
  | _ => none

/-- RPLBEGIN_GATHERED (R371): every wave has issued RPLBEGIN naming one RCB, or has ended. (DEDUCED; log 31) -/
def execRplbeginGathered (h : Nat) (s : State) : Host.Outcome State Fault Refusal :=
  let ws := waiters s h fun w => (isBegin w).isSome
  let first : Option (Th × BitVec 64 × Bool) := match ws with
    | [] => none
    | x :: _ => (s.view x.1 x.2).bind fun t => (isBegin t.p.wait).map fun y => (t, y.1, y.2)
  answer (match first with
    | none => s
    | some (t, a, cmp) =>
      if !gathered s h fun w => (isBegin w).map (·.1) == some a then s
      else if !gathered s h fun w => isBegin w == some (a, cmp) then finishAll s ws fun t => .trap t { cause := cLoopNest }
      else
        let r : Region := { rcb := a, cmp := cmp, counts := [] }
        match openRcb t r with
        | (t', some e) => finish t {} (.merr { t with s := t'.s } e)
        | (t', none) => finishAll (t'.s.openRegion h r) ws .done)

/-- A listed page and its save slot, as places. -/
def pagePlaces (t : Th) (save : BitVec 64) (page k : Nat) : Th × Except MErr (Option (Nat × Nat × MemAt)) :=
  match resolve t.s t.agent {} { r := true } 4 [(0, save + BitVec.ofNat 64 (4096 * k))] (2500 + 2 * k) with
  | (s, .error e) => ({ t with s := s }, .error { e with lanes := 0 })
  | (s, .ok src) =>
    match resolve s t.agent {} { w := true } 4 [(0, BitVec.ofNat 64 (4096 * page))] (2501 + 2 * k) with
    | (s, .error e) => ({ t with s := s }, .error { e with lanes := 0 })
    | (s, .ok dst) => ({ t with s := s }, .ok (match src, dst with
      | .mem _ pa m :: _, .mem _ pb n :: _ => some (if m.rep then 64 * m.home else pa, if n.rep then 64 * n.home else pb, n)
      | _, _ => none))

/-- The places of every listed page, or the first cause met. -/
def allPlaces (t : Th) (save : BitVec 64) : List Nat → Nat → Th × Except MErr (List (Nat × Nat × MemAt))
  | [], _ => (t, .ok [])
  | p :: ps, k =>
    match pagePlaces t save p k with
    | (t, .error e) => (t, .error e)
    | (t, .ok x) => match allPlaces t save ps (k + 1) with
      | (t, .error e) => (t, .error e)
      | (t, .ok l) => (t, .ok (x.toList ++ l))

/-- Steps 1 and 2 of R372: the listed pages take their saved content at home, and what the core holds of memory goes. -/
def State.restorePages (s : State) (g : Agent) (l : List (Nat × Nat × MemAt)) : State :=
  let s := l.foldl (fun s x => s.copyOver g x.1 x.2.1 x.2.2) (s.flushCore g.core)
  { s with ms := { s.ms with
      l1d := s.ms.l1d.filter (fun c => c.core != g.core), lrc := s.ms.lrc.filter fun c => c.core != g.core } }

/-- Keys that each wave of a crew has appended. -/
def keyCounts (s : State) (h : Nat) : SMap Nat :=
  (s.waves.filter fun x => x.2.crew == h).foldl (fun m x => sset 0 m x.2.wid x.2.logIdx) []

/-- The region closes: TINFO of REPLAY_MISMATCH where the waiting waves raise it (R372). (DEDUCED; log 31) -/
def closeRegion (t : Th) (c : Crew) (r : Region) : Th × Except MErr (Option Nat) :=
  match rcbChecked t r with
  | (t, .error e) => (t, .error e)
  | (t, .ok ws) =>
    let w2 := word64 ws 2
    match readList t.s t.agent r (fld w2 31 16) 0 with
    | (s, .error e) => ({ t with s := s }, .error e)
    | (s, .ok pages) =>
      match allPlaces { t with s := s } (word64 ws 0) pages 0 with
      | (t, .error e) => (t, .error e)
      | (t, .ok l) =>
        let counts := keyCounts t.s c.h
        let short := r.cmp && t.s.waves.any fun x => x.2.crew == c.h && !x.2.ended && x.2.logIdx < sget 0 c.logged x.2.wid
        let pass := (fld w2 47 40 + 1) % 256
        let w2' := setFld (if short then setBit w2 32 true else w2) 47 40 pass
        match t.s.agentWrite t.agent (r.rcb + 16) (two w2' ++ two (word64 ws 3)) 2402 with
        | (s, some e) => ({ t with s := s }, .error e)
        | (s, none) =>
          let s := s.restorePages t.agent l
          let s := { s with crews := lmod s.crews (fun x => x.h == c.h) fun x =>
            { x with region := none, logged := if r.cmp then x.logged else counts } }
          let t := ({ t with s := s }).trace 10 pass t.p.pia
          let info := fld w2' 63 48 + fld (word64 ws 3) 3 0 * 2 ^ 16 + fld w2' 35 35 * 2 ^ 20 + fld w2' 34 34 * 2 ^ 21
          (t, .ok (if w2'.getLsbD 32 && w2'.getLsbD 33 then some info else none))

/-- RPLEND_GATHERED (R372): every wave has issued RPLEND, or has ended. (DEDUCED; log 31) -/
def execRplendGathered (h : Nat) (s : State) : Host.Outcome State Fault Refusal :=
  let q (w : Wait) : Bool := w == .rplend
  let ws := waiters s h q
  let first : Option Th := match ws with
    | [] => none
    | x :: _ => s.view x.1 x.2
  answer (match first, s.crew h with
    | some t, some c => match c.region with
      | none => s
      | some r =>
        if !gathered s h q then s
        else match closeRegion t c r with
          | (t', .error e) => finish t {} (.merr { t with s := t'.s } e)
          | (t', .ok none) => finishAll t'.s ws .done
          | (t', .ok (some info)) => finishAll t'.s ws fun t => .trap t { cause := cReplayMismatch, info := info }
    | _, _ => s)

/-! ## Samples and latencies (R365, R370) -/

/-- What a quad issues of the context in the sampled cycle: the instruction that it issued last, or none (log 8). -/
def sampled (s : State) (core pasid q : Nat) : Option QuadIssue :=
  if (Config.freeWord (s.ix (30000 + q))).getLsbD 0 then none
  else (slook s.pkg.issued (4 * core + q)).filter fun x => x.pasid == pasid

/-- TRACE_SAMPLE (R365): each quad of the core writes one record for the context. -/
def execTraceSample (core pasid : Nat) (s : State) : Host.Outcome State Fault Refusal :=
  answer ((List.range 4).foldl (fun s q =>
    let x := sampled s core pasid q
    s.traceRec pasid core (x.map (·.path)) 8 q ((x.map (·.pia)).getD 0)) s)

/-- The histogram bucket of a latency (R370). -/
def bucketOf (ns : Nat) : Nat := if ns < 64 then 0 else if 2 ^ 20 ≤ ns then 15 else Nat.log2 ns - 5

/-- The lowest bucket whose cumulative count reaches `want` (R370). -/
def percentile (counts : List Nat) (want : Nat) : Nat :=
  ((List.range 16).find? fun b => want ≤ (counts.take (b + 1)).sum).getD 15

/-- COURIER_BLOCK_RETURN (R370): a block's data has returned after `ns`. -/
def courierReturn (s : State) (core pasid ns : Nat) : State :=
  let ctl := s.dbgReg pasid core 0x178
  if !ctl.getLsbD 63 || frozen s pasid core then s
  else
    let b := bucketOf ns
    let s := s.setDbgReg pasid core (0x180 + b) (BitVec.ofNat 64 (satInc 32 (s.dbgReg pasid core (0x180 + b)).toNat))
    let counts := (List.range 16).map fun i => (s.dbgReg pasid core (0x180 + i)).toNat
    let total := counts.sum
    if ctl.getLsbD 62 && 256 ≤ total && percentile counts ((fld ctl 7 0 * total + 255) / 256) < b then s.freeze pasid core 5
    else s

/-- COURIER_BLOCK_RETURN (R370). (DESIGN CHOICE; log 8) -/
def execCourierBlockReturn (core pasid _wk ns : Nat) (s : State) : Host.Outcome State Fault Refusal :=
  answer (courierReturn s core pasid ns)

end Sys2Proof.Machine
end

