-- ==== Sys2Proof/Machine/Power.lean ====
section
/-!
DEFINITION. Energy purses, the power limit and the frequency governor (R92, R93, R96, R392, R401). Energy is counted in
1/84000 nJ: a power token of 1.64 nJ is 137,760 of them, one watt for one microsecond 84,000,000.
-/
namespace Sys2Proof.Machine

/-- A power token. (DEDUCED; log 54) -/
def tokenUnits : Nat := 137760

/-- One watt for one microsecond. (DEDUCED; log 54) -/
def wattUnits : Nat := 84000000

/-- The dies that are online. -/
def State.onlineDies (s : State) : List Nat := (List.range 8).filter s.online

/-- The core's arithmetic clock in MHz (R96). -/
def State.clock (s : State) (core : Nat) : Nat := sget 2250 s.pkg.mhz core

/-- PWRSTAT for a microsecond that drew `draw` units under limit `limit` (R392). -/
def pwrstat (s : State) (draw limit : Nat) : BitVec 64 :=
  let low := (List.range 384).foldl (fun m c => min m (s.clock c)) 2700
  BitVec.ofNat 64 (min (draw / wattUnits) 4095 * 2 ^ 32 + low * 2 ^ 16 + (if limit * wattUnits < draw then 1 else 0))

/-- The refill of one die's purse (R92). -/
def refillOf (limit drawn dies : Nat) : Nat := max (limit * wattUnits - drawn) (limit * wattUnits / 10) / dies

/-- The number of the latest 1,000 ns tick. -/
def State.microTick (s : State) : Nat := s.ptime.toNat / 1000

/-- PURSE_REFILL (R92, R96, R401): at each tick, in order, the OVER test of the previous microsecond is made under the limit that
governed it, a written limit takes effect, and every online die's purse is refilled; then the governor of each core steps, by the
vector instructions that its core issued in the previous microsecond and their live lanes. (DEDUCED; log 54) -/
def execPurseRefill (drawn : Nat) (s : State) : Host.Outcome State Fault Refusal :=
  answer (
    if s.microTick ≤ s.pkg.refilled then s
    else
      let draw := drawn + s.pkg.drawn * (tokenUnits / 2)
      let overs := s.pkg.limit * wattUnits < draw
      let s := s.setPkgReg 0x118 (pwrstat s draw s.pkg.limit)
      let limit := fld (s.pkgReg 0x110) 11 0
      let dies := s.onlineDies
      let r := refillOf limit drawn dies.length
      let fill (m : SMap Nat) (d : Nat) : SMap Nat := sset 0 m d (min (sget 0 m d + r) (2 * r))
      let vecs (c : Nat) : Nat × Nat := sget (0, 0) s.pkg.vecs c
      { s with
        agenda := (List.range 384).map (fun c => .governorStep c (vecs c).2 (vecs c).1) ++ s.agenda,
        pkg := { s.pkg with
          limit := limit, purse := dies.foldl fill s.pkg.purse, drawn := 0, overs := if overs then s.pkg.overs + 1 else 0,
          refilled := s.pkg.refilled + 1, wasBound := s.pkg.bound, bound := 0, vecs := [] } })

/-- The clock of the next microsecond (R96): `now` the present one, `overs` the consecutive microseconds over the limit.
(DEDUCED; log 54) -/
def nextClock (now overs : Nat) (bound : Bool) (live issued : Nat) : Nat :=
  if 4 ≤ overs then max 1500 (now - 75)
  else if overs = 0 && now < 2250 then 2250
  else if bound || overs != 0 then 2250
  else if issued = 0 || 48 * issued ≤ live then 2250
  else if 32 * issued ≤ live then 2475
  else 2700

/-- GOVERNOR_STEP (R96): at each tick, after the refill. (DEDUCED; log 54) -/
def execGovernorStep (core live issued : Nat) (s : State) : Host.Outcome State Fault Refusal :=
  answer (
    if s.pkg.refilled ≤ sget 0 s.pkg.gov core then s
    else
      let mhz := nextClock (s.clock core) s.pkg.overs (s.pkg.wasBound.getLsbD (core / 48)) live issued
      { s with pkg := { s.pkg with mhz := sset 2250 s.pkg.mhz core mhz, gov := sset 0 s.pkg.gov core (sget 0 s.pkg.gov core + 1) } })

/-- PWRLIM_WRITE (R392, R401): clamped, and in force from the next refill; only function 0 writes it. -/
def execPwrlimWrite (fn : Nat) (value : BitVec 64) (s : State) : Host.Outcome State Fault Refusal :=
  answer (if fn != 0 then s else s.setPkgReg 0x110 (BitVec.ofNat 64 (min 2800 (max 1400 (fld value 11 0)))))

end Sys2Proof.Machine
end

