-- ==== Sys2Proof/Machine/MemSys.lean ====
section
/-!
DEFINITION. What the memory system does by itself: stores reaching home, invalidations, replicated commits, partial
merges, fills and evictions, host accesses, prefetches and dropped translations (R235, R254, R259, R319 to R323, R326,
R327, R336).
-/
namespace Sys2Proof.Machine

/-! ## Messages that fences wait for (R336) -/

/-- A message from die `die` about store `p` reaches the fences that wait for it, where `q` says which of them by core
and scope. (DEDUCED; log 42) -/
def State.noteFences (s : State) (p : PStore) (die : Nat) (q : Nat → Nat → Bool) : State :=
  let note (c : Nat) (x : Path) : Path := match x.wait with
    | .fence t0 sc _ => if x.obs.contains p.sid && p.holds s c sc && q c sc then { x with wait := .fence t0 sc (some die) } else x
    | _ => x
  { s with waves := s.waves.map fun x => (x.1, { x.2 with paths := x.2.paths.map (note x.2.coreN) }) }

/-- A store whose acknowledgements or updates have all arrived: DONE (R319 step 4, R321). -/
def State.allArrived (s : State) (p : PStore) (die : Nat) : State :=
  let s := s.noteFences p die fun c sc => 4 ≤ sc && (c != p.core || p.home == c / 48)
  s.putStore { p with stage := .done, wait := 0, got := 0 }

/-! ## Stores on their way (R319, R321) -/

/-- HOME_WRITE (R314, R319, R321). (DEDUCED; log 14) -/
def execHomeWrite (sid : Nat) (s : State) : Host.Outcome State Fault Refusal :=
  answer (match s.findStore sid with
    | some p => s.homeWrite p
    | none => s)

/-- Does a copy that an invalidation has reached still stand on one of the dies (R314)? -/
def State.stale (s : State) (b : Nat) (dies : List Nat) : Bool :=
  s.ms.l1d.any fun c => c.inv && c.blk == b && dies.contains (c.core / 48)

/-- INVALIDATE (R319 step 3): the die drops its copies of the block. -/
def execInvalidate (die sid : Nat) (s : State) : Host.Outcome State Fault Refusal :=
  answer (match s.findStore sid with
    | none => s
    | some p =>
      if p.stage == .atHome && !p.rep && p.wait.getLsbD die && !p.got.getLsbD die then
        let s := s.invalL1 p.blk p.blk fun c => c.core / 48 == die
        let s := s.dropWay fun c => c.blk == p.blk && c.die == die
        let s := s.noteFences p die fun c sc => c / 48 == die && sc == 3
        s.putStore { p with got := setBit p.got die true }
      else s)

/-- INVALIDATE_ACK (R319 step 4): with the last acknowledgement the write is DONE. -/
def execInvalidateAck (die sid : Nat) (s : State) : Host.Outcome State Fault Refusal :=
  answer (match s.findStore sid with
    | none => s
    | some p =>
      if p.stage == .atHome && !p.rep && p.wait.getLsbD die && p.got.getLsbD die && !s.stale p.blk [die] then
        let p' := { p with wait := setBit p.wait die false, got := setBit p.got die false }
        if p'.wait = 0 then s.allArrived p (if p.home == p.core / 48 then die else p.home) else s.putStore p'
      else s)

/-- ACCEPT_DONE_RECEIVE (R319 steps 1 and 4): ACCEPT, and after it DONE, reaches the writer's die. -/
def execAcceptDoneReceive (sid : Nat) (s : State) : Host.Outcome State Fault Refusal :=
  answer (match s.findStore sid with
    | none => s
    | some p =>
      if p.stage == .done && p.part = 0 && !s.stale p.blk [p.home, p.core / 48] then
        let s := s.noteFences p p.home fun c _ => c == p.core
        { s with ms := { s.ms with stores := s.ms.stores.filter fun q => q.sid != sid } }
      else if p.stage == .atHome && !p.told then
        (s.noteFences p p.home fun c sc => c == p.core && sc == 3).putStore { p with told := true }
      else s)

/-- HOST_LINK_COMPLETION (R327): the flushing read that followed a write to host memory completes. -/
def execHostLinkCompletion (sid : Nat) (s : State) : Host.Outcome State Fault Refusal :=
  answer (match s.findStore sid with
    | none => s
    | some p =>
      if p.stage == .atHome && isHost (64 * p.blk) && p.part = 0 then
        let s := s.noteFences p p.home fun _ sc => sc == 5
        { s with ms := { s.ms with stores := s.ms.stores.filter fun q => q.sid != sid } }
      else s)

/-- REPLICA_LOCK (R321 step 1). -/
def execReplicaLock (die sid : Nat) (s : State) : Host.Outcome State Fault Refusal :=
  answer (match s.findStore sid with
    | none => s
    | some p =>
      if p.stage == .locking && p.wait.getLsbD die && !s.locked die p.blk then
        { s with ms := { s.ms with locks := (die, p.blk) :: s.ms.locks } }
      else s)

/-- The lock step ends once every replica that is online has acknowledged: the home writes its copy (R321 step 2). -/
def State.lockStep (s : State) (p : PStore) : State :=
  let s := s.putStore p
  if p.stage == .locking && p.wait &&& ~~~p.got = 0 then s.arriveHome p else s

/-- REPLICA_LOCK_ACK (R321). -/
def execReplicaLockAck (die sid : Nat) (s : State) : Host.Outcome State Fault Refusal :=
  answer (match s.findStore sid with
    | none => s
    | some p =>
      if p.stage == .locking && p.wait.getLsbD die && s.locked die p.blk && !p.got.getLsbD die then
        let s := s.noteFences p die fun c sc => c == p.core && sc == 3 && p.home == c / 48
        s.lockStep { p with got := setBit p.got die true }
      else s)

/-- REPLICA_UPDATE (R321 step 2): with the last update the commit is complete. -/
def execReplicaUpdate (die sid : Nat) (s : State) : Host.Outcome State Fault Refusal :=
  answer (match s.findStore sid with
    | none => s
    | some p =>
      if p.stage == .atHome && p.rep && p.wait.getLsbD die && p.part = 0 then
        let s := s.updateReplica p.blk p.home die
        let p' := { p with wait := setBit p.wait die false }
        if p'.wait = 0 then s.allArrived p (if p.home == p.core / 48 then die else p.home) else s.putStore p'
      else s)

/-- CACHE_PARTIAL_MERGE (R235). -/
def execCachePartialMerge (sid w : Nat) (s : State) : Host.Outcome State Fault Refusal :=
  answer (match s.findStore sid with
    | none => s
    | some p =>
      if w / 16 == p.blk && p.part.getLsbD (w % 16) then
        let s := if sound (s.ms.phys.word w) then s else s.freezeDies [p.home] 1
        (s.mergeHome p (w % 16)).putStore { p with part := setBit p.part (w % 16) false }
      else s)

/-- A die that is offline counts as having acknowledged every invalidation, lock and update (R319, R321). -/
def State.dieGone (s : State) (die : Nat) : State :=
  let one (s : State) (sid : Nat) : State := match s.findStore sid with
    | none => s
    | some p =>
      if !p.wait.getLsbD die then s
      else
        let p' := { p with wait := setBit p.wait die false, got := setBit p.got die false }
        let s := if p.rep && p.stage == .atHome then s.missed die p.blk else s
        if p.stage == .locking then s.lockStep p'
        else if p.stage == .atHome && p'.wait = 0 then s.allArrived p p.home
        else s.putStore p'
  let s := { s with ms := { s.ms with locks := s.ms.locks.filter fun l => l.1 != die } }
  (s.ms.stores.map (·.sid)).foldl one s

/-- REPLICA_STALL_TIMEOUT (R322): a load that has stalled 2,000 ns on a locked replica is selected, and is then served
from the home copy and logged. (DEDUCED; log 41) -/
def execReplicaStallTimeout (wk eid : Nat) (s : State) : Host.Outcome State Fault Refusal :=
  answer (match s.view wk eid with
    | none => s
    | some t => if replicaLate t && s.sel.isNone then { s with sel := some (wk, eid) } else s)

/-! ## Fills, evictions and prefetch -/

/-- WAYSTATION_FILL (R319): the home returns the line and sets the die's sharer bit. -/
def execWaystationFill (die blk : Nat) (s : State) : Host.Outcome State Fault Refusal :=
  answer (
    let pa := 64 * blk
    if physOk pa && !isHost pa && dieOf pa != die && s.online die && s.online (dieOf pa) then s.fillWay die blk else s)

/-- WAYSTATION_EVICT_REPORT (R319): the die has evicted every line of the region, and its sharer bit is cleared. Lines
pinned in an L1D of the die stay, and then nothing is reported. (DEDUCED; log 40) -/
def execWaystationEvictReport (die region : Nat) (s : State) : Host.Outcome State Fault Refusal :=
  answer (
    if s.ms.l1d.any fun c => c.core / 48 == die && c.blk / 64 == region && c.pin.isSome then s
    else
      let s := s.dropL1 fun c => c.core / 48 == die && c.blk / 64 == region
      let s := s.dropWay fun c => c.die == die && c.blk / 64 == region
      { s with ms := { s.ms with dir := sset 0 s.ms.dir region (setBit (sget 0 s.ms.dir region) die false) } })

/-- HARDWARE_PREFETCH (R254): it may bring a copy into the caches; one that meets a cause or a poisoned page is dropped
and counted on SPDROP. -/
def execHardwarePrefetch (core wk : Nat) (va : BitVec 64) (s : State) : Host.Outcome State Fault Refusal :=
  answer (match s.wave wk with
    | none => s
    | some w =>
      if w.coreN != core then s
      else
        let g := { agentOf s wk w 0 with hm := false }
        match prefetchLoc s g (0, va) with
        | (s, none) => s.spdrop w.pasid 1
        | (s, some none) => s
        | (s, some (some l)) =>
          let r := readBlks s g {} 0 [l]
          r.s.count w 0x0D r.st.fills)

/-! ## Translations (R259) -/

/-- ATS_INVALIDATE: translations of host memory in the range are dropped. -/
def execAtsInvalidate (pasid : Nat) (va : BitVec 64) (size : Nat) (s : State) : Host.Outcome State Fault Refusal :=
  answer (s.dropTlb fun t => t.pasid == pasid && isHost (leafFrame t.leaf) && t.va < va.toNat + size && va.toNat < t.va + 2 ^ t.bits)

/-! ## The host (R326) -/

/-- The host's accesses through BAR2: translated through the context of the request, outside handler mode.
(DEDUCED; log 43) -/
def hostAgent (s : State) (fn pasid : Nat) : Agent :=
  { core := 48 * (fn * s.partSize), wk := 2 ^ 64, eid := 0, pasid := pasid, crew := 2 ^ 64, fn := fn, stkidx := 0, hm := false }

/-- The pieces of `n` bytes from address `a`, one per block. -/
def bytePieces (a n : Nat) : Nat → List (Nat × Nat)
  | 0 => []
  | k + 1 =>
    if n = 0 then []
    else
      let m := min n (64 - a % 64)
      (a, m) :: bytePieces (a + m) (n - m) k

/-- The place of a piece, where it translates to device memory. (DEDUCED; log 43) -/
def hostPlace (s : State) (g : Agent) (nd : Need) (va i : Nat) : State × Option (Nat × MemAt) :=
  match translate s g.die g.pasid (BitVec.ofNat 64 va) nd false i with
  | (s, .error _) => (s, none)
  | (s, .ok x) => (s, if isHost x.pa then none else some (x.pa, memAt g.die x.pa x.leaf))

/-- Write the bytes of one piece. -/
def hostPiece (g : Agent) (ordered : Bool) (s : State) (p : Nat × Nat) (bytes : List (BitVec 8)) (i : Nat) : State :=
  match hostPlace s g { w := true } p.1 i with
  | (s, none) => s
  | (s, some (pa, m)) =>
    let o := pa % 64
    let mask : BitVec 64 := BitVec.ofNat 64 ((2 ^ p.2 - 1) * 2 ^ o)
    let data : BitVec 512 := BitVec.ofNat 512 (leNat bytes * 2 ^ (8 * o))
    let sid := s.ms.nextSid
    let s := s.storeBlk { g with core := hostCore } none m mask data 0 rawPair ordered
    match s.findStore sid with
    | some q => s.homeWrite q
    | none => s

/-- HOST_WRITE (R326): performed at home in order of arrival unless relaxed; a request that does not translate writes
nothing. (DEDUCED; log 43) -/
def execHostWrite (fn pasid : Nat) (va : BitVec 64) (bytes : List (BitVec 8)) (relaxed : Bool) (s : State) :
    Host.Outcome State Fault Refusal :=
  let g := hostAgent s fn pasid
  let ps := bytePieces va.toNat bytes.length (bytes.length / 64 + 2)
  let go := ps.foldl (fun (a : State × List (BitVec 8) × Nat) p =>
    (hostPiece g (!relaxed) a.1 p (a.2.1.take p.2) a.2.2, a.2.1.drop p.2, a.2.2 + 1)) (s, bytes, 0)
  answer go.1

/-- The bytes of a piece as home serves them; of a poisoned word they are free values. -/
def hostBytes (s : State) (b : Blk) (o n i : Nat) : List (BitVec 8) :=
  (List.range n).map fun j =>
    let w := b.word ((o + j) / 4)
    if bad w then (Config.freeWord (s.ix (30000 + i * 64 + j))).truncate 8 else w.v.extractLsb' (8 * ((o + j) % 4)) 8

/-- HOST_READ (R326): served at home, never from a copy. (DEDUCED; log 43) -/
def execHostRead (fn pasid : Nat) (va : BitVec 64) (len : Nat) (s : State) : Host.Outcome State Fault Refusal :=
  let g := hostAgent s fn pasid
  let ps := bytePieces va.toNat len (len / 64 + 2)
  let go := ps.foldl (fun (a : State × List (BitVec 8) × Nat) p =>
    match hostPlace a.1 g { r := true } p.1 a.2.2 with
    | (s, none) => (s, a.2.1 ++ (List.range p.2).map (fun j => (Config.freeWord (s.ix (30000 + a.2.2 * 64 + j))).truncate 8), a.2.2 + 1)
    | (s, some (pa, m)) => (s, a.2.1 ++ hostBytes s (s.served m) (pa % 64) p.2 a.2.2, a.2.2 + 1)) (s, [], 0)
  answer { go.1 with outbox := .readData fn go.2.1 :: go.1.outbox }

end Sys2Proof.Machine
end

