-- ==== Sys2Proof/Machine/Place.lean ====
section
/-!
DEFINITION. Placing one instruction before a path: a crew of one wave with one path, to which a fetch line has been
delivered whose slot 0 holds the instruction (R67, R97 to R99).
-/
namespace Sys2Proof.Machine

/-- A line whose slot 0 holds `w`, the other slots NOP, slot 0 a legal target, residues right (R98). -/
def lineOf (w : BitVec 96) : BitVec 512 :=
  BitVec.ofNat 512 (w.toNat + (1 + w.toNat % 15 * 2 ^ 12) * 2 ^ 480)

/-- The address the placed wave starts at. -/
def placedPc : BitVec 64 := 0x0000001000000000

/-- A path at launch (R67). (DEDUCED; log 4) -/
def pathAt (pia : BitVec 64) (mask : BitVec 64) : Path :=
  { idx := 0, eid := 0, parent := none, taken := false, st := .running, pia := pia, mask := mask, exm := mask, rca := 0,
    half := false, level := 0, ldep := 0, s := [], b := [], ws := 0, wb := 0, recs := [], age := 0, yielded := false,
    pc := 0, tc := 0, epc := 0, etc := 0, wait := .none, held := none, ibpSkip := false, xfer := none, line := none,
    park := none, tokWait := false, owes := false, hexit := false, sdep := 0,
    obs := [] }

/-- A wave at launch (R67) with `vregs` units of 8 V registers and `acc` tiles. (DEDUCED; log 4) -/
def waveAt (die core slot pasid crew wid role vregs acc : Nat) (stk : BitVec 32) (tvec : BitVec 64) (p : Path) : Wave :=
  { die := die, core := core, slot := slot, half := p.half, w32 := false, pasid := pasid, crew := crew, wid := wid,
    role := role, vregs := vregs, acc := acc, stkidx := stk, ended := false, paths := [p], spilled := [], nextEid := 1,
    sreg := [], p := [], d := 0, lc := [], v := [], gen := [], lid := [], q := [], tiles := [], chkctl := 0, inj := 0,
    tcause := 0, tia := 0, tlanes := 0, tpath := 0, taddr := 0, tinfo := 0, tvec := tvec, tscr := [], subcnt := 0,
    hmode := false, hpath := 0, hsave := none, prio := 0, tokwait := 0, corr := 0, rpl := 0, mcheck := [], wdog := 0,
    logIdx := 0, latch := [] }

/-- A resident crew as it starts. -/
def crewAt (h fn pasid cons cav : Nat) (carav : BitVec 32) (idx : BitVec 16) (die core nwaves : Nat) : Crew :=
  { h := h, fn := fn, pasid := pasid, cons := cons, cav := cav, carav := carav, idx := idx, die := die, core := core,
    code := 0, args := 0, nwaves := nwaves, nbar := 0, nchan := 0, scrSize := 0, scr := Mem.empty, bars := [],
    chans := [], engErr := 0, idem := false, st := .resident, requeues := 0, start := 0, cwdog := 0, recNo := none, abort := none,
    saved := [], savedOps := [], region := none, logged := [] }

/-- The crew that carries a placed instruction. (DEDUCED; log 4) -/
def placedCrew (h : Nat) : Crew :=
  { crewAt h 0 0 0 0 0 0 0 0 1 with code := placedPc, nbar := 16, nchan := 32, scrSize := 65536 }

/-- The state in which wave 0 of die 0, core 0 is about to issue `w`. (DEDUCED; log 4) -/
def placeWord (s : State) (w : BitVec 96) : State :=
  let p := { pathAt placedPc 0xFFFFFFFFFFFFFFFF with line := some (placedPc.extractLsb' 6 58, lineOf w) }
  { s with
    agenda := [], sel := some (0, 0), waves := sput s.waves 0 (waveAt 0 0 0 0 s.nextH 0 0 32 32 0 0 p),
    crews := s.crews ++ [placedCrew s.nextH], nextH := s.nextH + 1 }

end Sys2Proof.Machine
end

