-- ==== Sys2Proof/Machine/Route.lean ====
section
/-!
DEFINITION. The command processor: its reads and arrivals, routes, kicks and replays (R68 to R80).
-/
namespace Sys2Proof.Machine

/-! ## What the command processor reads (R68, R73) -/

/-- No crew: the handle of accesses that no crew makes. -/
def noCrew : Nat := 2 ^ 64

/-- The command processor as an agent in a context of a function. -/
def cpAgent (s : State) (fn pasid : Nat) : Agent :=
  { core := 48 * (fn * s.partSize), wk := noCrew, eid := 0, pasid := pasid, crew := noCrew, fn := fn, stkidx := 0, hm := false }

/-- Why a read of the command processor gives nothing: it waits for a page, or it is denied, poisoned or fails its
check. -/
inductive CpErr where
  | page (e : MErr)
  | bad

/-- The 64-byte pieces of `n` bytes at `a`. (DEDUCED; log 44) -/
def cpPieces : Nat → Nat → Nat → List (Nat × Nat)
  | 0, _, _ => []
  | fuel + 1, a, n =>
    if n = 0 then []
    else
      let k := min n (64 - a % 64)
      (a, k) :: cpPieces fuel (a + k) (n - k)

/-- Read one piece: its words. -/
def cpPiece (s : State) (g : Agent) (i : Nat) (p : Nat × Nat) : State × Except CpErr (List (RWord 32)) :=
  match resolve s g {} { r := true } 4 [(0, BitVec.ofNat 64 p.1)] (4000 + i) with
  | (s, .error e) =>
    if e.served && !(s.fn g.fn).prStop then (s, .error (.page { e with lanes := 0, hint := 15 })) else (s, .error .bad)
  | (s, .ok ls) =>
    match ls with
    | [] => (s, .error .bad)
    | l :: _ =>
      let ws := (List.range (p.2 / 4)).map fun j => homeWord s g (shiftLoc s g 0 l (4 * j))
      if allClean ws then (s, .ok ws) else (s, .error .bad)

/-- Read the pieces of a record in order. -/
def cpPiecesAll (s : State) (g : Agent) : Nat → List (Nat × Nat) → State × Except CpErr (List (RWord 32))
  | _, [] => (s, .ok [])
  | i, p :: ps =>
    match cpPiece s g i p with
    | (s, .error e) => (s, .error e)
    | (s, .ok ws) =>
      match cpPiecesAll s g (i + 1) ps with
      | (s, .error e) => (s, .error e)
      | (s, .ok vs) => (s, .ok (ws ++ vs))

/-- Read `n` bytes (a multiple of 4) at virtual address `a` of a context (R68). (DEDUCED; log 44) -/
def State.cpRead (s : State) (fn pasid : Nat) (a : BitVec 64) (n : Nat) : State × Except CpErr (List (RWord 32)) :=
  cpPiecesAll s (cpAgent s fn pasid) 0 (cpPieces (n / 64 + 2) a.toNat n)

/-- Read `n` words at physical address `pa`: none where it names no memory or a word is poison or fails its check.
(DEDUCED; log 44) -/
def State.physRead (s : State) (pa n : Nat) : Option (List (RWord 32)) :=
  if !physOk pa || !physOk (pa + 4 * n - 1) then none
  else
    let ws := s.ms.phys.words (pa / 4) n
    if allClean ws then some ws else none

/-- Is an access of the command processor for a function waiting for its page? -/
def State.cpWaits (s : State) (fn : Nat) (x : CpWhat) : Bool :=
  s.parks.any fun k => k.fn == fn && k.who == ParkWho.cp x && !k.dead

/-- The access waits for the page it met (R68, R255). -/
def State.cpPark (s : State) (fn pasid : Nat) (x : CpWhat) (e : MErr) : State := (newPark s (.cp x) fn pasid noCrew 15 e).1

/-! ## Arrivals (R72, R76) -/

/-- Launch errors (R81). -/
def lHeader : Nat := 0x01
def lClass : Nat := 0x02
def lFloor : Nat := 0x03
def lResources : Nat := 0x04
def lDiemask : Nat := 0x05
def lParam : Nat := 0x06
def lCodeFault : Nat := 0x07
def lKickCheck : Nat := 0x08
def lKickRoute : Nat := 0x09
def lKickBusy : Nat := 0x0A
def lRouteLimit : Nat := 0x0B
def lRouteBad : Nat := 0x0C
def lPacket : Nat := 0x0D

/-- Log a launch error (R81). -/
def State.launchError (s : State) (fn code route : Nat) (seq : BitVec 16) (node : Nat) : State :=
  s.logError fn { cls := 0, code := code, route := BitVec.ofNat 16 route, seq := seq, node := BitVec.ofNat 16 node }

/-- Consignments that wait for a dependence read it again after every arrival of the command processor (R70). -/
def State.rereadAll (s : State) : State :=
  { s with agenda := s.agenda ++ (s.cons.filter fun k => k.st == .waiting).map fun k => .dependenceReread k.h }

/-- One arrival on the object at `a` of a context, for `x`; 0 names none. False where the object cannot be reached or is
poisoned, none while the arrival waits for the object's page (R68, R72, R76, R330, R331). (DEDUCED; log 44) -/
def State.cpArrive (s : State) (fn pasid : Nat) (x : CpWhat) (a : BitVec 64) (failed : Bool) : State × Option Bool :=
  if a = 0 then (s, some true)
  else
    let g := cpAgent s fn pasid
    if a.toNat % 32 != 0 then (s, some false)
    else match resolve s g { noStk := true, noDsc := true } { r := true, w := true, a := true } 32 [(0, a)] 4900 with
    | (s, .error e) =>
      if e.served && !(s.fn fn).prStop then (s.cpPark fn pasid x { e with lanes := 0, hint := 15 }, none) else (s, some false)
    | (s, .ok []) => (s, some false)
    | (s, .ok (l :: _)) =>
      match s.updObj g l (·.lower 0xFFFF 0 true (if failed then eLaunch else 0)) with
      | none => (s, some false)
      | some s => (s.rereadAll, some true)

/-! ## Registered routes (R73, R74) -/

def State.route (s : State) (fn num : Nat) : Option Route := s.routes.find? fun r => r.fn == fn && r.num == num

def State.putRoute (s : State) (r : Route) : State :=
  { s with routes := lmod s.routes (fun x => x.fn == r.fn && x.num == r.num) fun _ => r }

def State.dropRoute (s : State) (fn num : Nat) : State :=
  { s with routes := s.routes.filter fun x => !(x.fn == fn && x.num == num) }

/-- `n` words as one number, the first lowest. -/
def natOf (ws : List (RWord 32)) : Nat := ws.foldr (fun w a => w.v.toNat + 2 ^ 32 * a) 0

def Node.kind (n : Node) : Nat := fld n.ctl 7 0
def Node.npred (n : Node) : Nat := fld n.ctl 15 8
def Node.succs (n : Node) : List Nat := [fld n.ctl 31 16, fld n.ctl 47 32]
def Node.caddr (n : Node) : BitVec 64 := n.ctl.extractLsb' 64 64
def Node.cval (n : Node) : BitVec 64 := n.ctl.extractLsb' 128 64
def Node.cop (n : Node) : Nat := fld n.ctl 194 192

/-- Is a node legal in a route of `nn` nodes (R74)? -/
def Node.ok (n : Node) (i nn : Nat) : Bool :=
  n.kind ≤ 2 && (i == 0 || n.npred != 0) && fld n.ctl 63 48 == 0 && fld n.ctl 511 195 == 0 && n.cop ≤ 5 &&
    (n.succs.all fun x => x == 0xFFFF || x < nn) &&
    (if n.kind = 0 then fld n.packet 7 0 == 1 else n.packet == 0)

/-- The route that a table entry and an object's words describe, or none (R73, R74). -/
def routeOf (fn num : Nat) (entry hdr body : List (RWord 32)) : Option Route :=
  let nn := fld (word64 hdr 0) 15 0
  let np := fld (word64 hdr 0) 31 16
  let nodes := (List.range nn).map fun i =>
    ({ packet := BitVec.ofNat 512 (natOf ((body.drop (32 * i)).take 16)),
       ctl := BitVec.ofNat 512 (natOf ((body.drop (32 * i + 16)).take 16)) } : Node)
  let r : Route :=
    { fn := fn, num := num, pasid := fld (word64 entry 3) 19 0, rcompl := word64 entry 2, patch := word64 entry 1,
      maxBegin := (word64 hdr 0).extractLsb' 32 32, nodes := nodes,
      params := (List.range np).map fun j => word64 (body.drop (32 * nn)) j, retiring := false, queue := [], cur := none }
  if (List.range nn).all fun i => match nodes[i]? with | some n => n.ok i nn | none => false then some r else none

/-- Is the header of a route object legal: its counts in range and the rest zero (R74)? -/
def headerOk (hdr : List (RWord 32)) : Bool :=
  let nn := fld (word64 hdr 0) 15 0
  1 ≤ nn && nn ≤ 4096 && fld (word64 hdr 0) 31 16 ≤ 256 && fld (word64 hdr 0) 63 32 != 0 &&
    (hdr.drop 2).all fun w => w.v == 0

/-- The registration fails: the slot is empty, and kicks that wait for the route's replay go with it without a record of
their own, of which the spec says nothing. (DESIGN CHOICE; log 63) -/
def regFail (s : State) (fn num : Nat) : State :=
  ({ s.dropRoute fn num with regPend := s.regPend.filter fun x => x != (fn, num) }).launchError fn lRouteBad num 0 0xFFFF

/-- Read the entry and the object and register the route, or wait for a page (R73). The entry itself is read at its physical
address, for the PASID that would translate it stands in it (DEDUCED; log 44). An entry that is empty (ROBJ 0) empties the
slot without a record: the spec names none (DESIGN CHOICE; log 63). -/
def register (s : State) (fn num : Nat) : State :=
  let base := (s.fnReg fn 0x10).toNat / 64 * 64
  match s.physRead (base + 32 * num) 8 with
  | none => regFail s fn num
  | some entry =>
    let pasid := fld (word64 entry 3) 19 0
    let robj := word64 entry 0
    let wait (s : State) (e : MErr) : State :=
      ({ s with regPend := if s.regPend.contains (fn, num) then s.regPend else s.regPend ++ [(fn, num)] }).cpPark fn pasid
        (.reg num) e
    let done (s : State) : State := { s with regPend := s.regPend.filter fun x => x != (fn, num) }
    if robj = 0 then done (s.dropRoute fn num)
    else if fld (word64 entry 3) 63 20 != 0 then regFail s fn num
    else match s.cpRead fn pasid robj 64 with
    | (s, .error (.page e)) => wait s e
    | (s, .error .bad) => regFail s fn num
    | (s, .ok hdr) =>
      if !headerOk hdr then regFail s fn num
      else
        let nn := fld (word64 hdr 0) 15 0
        let np := fld (word64 hdr 0) 31 16
        match s.cpRead fn pasid (robj + 64) (128 * nn + 8 * np) with
        | (s, .error (.page e)) => wait s e
        | (s, .error .bad) => regFail s fn num
        | (s, .ok body) =>
          match routeOf fn num entry hdr body with
          | none => regFail s fn num
          | some r =>
            let old := s.route fn num
            let r := { r with queue := (old.map (·.queue)).getD [], retiring := (old.map (·.retiring)).getD false }
            let s := s.dropRoute fn num
            done { s with routes := s.routes ++ [r] }

/-- RCMD_REGISTER (R73): it waits while replays of the route run, and for its page. (DEDUCED; log 44) -/
def registerRoute (s : State) (fn num : Nat) : State :=
  if ((s.route fn num).bind (·.cur)).isSome then
    { s with regPend := if s.regPend.contains (fn, num) then s.regPend else s.regPend ++ [(fn, num)] }
  else if s.cpWaits fn (.reg num) then s
  else register s fn num

/-- RCMD_REGISTER (R73). -/
def execRcmdRegister (fn route : Nat) (s : State) : Host.Outcome State Fault Refusal :=
  answer (registerRoute s fn (route % 1024))

/-- A retiring route goes once no replay runs or waits (R73). -/
def State.tidyRoute (s : State) (fn num : Nat) : State :=
  match s.route fn num with
  | some r => if r.retiring && r.cur.isNone && r.queue.isEmpty then s.dropRoute fn num else s
  | none => s

/-- RCMD_RETIRE (R73). -/
def execRcmdRetire (fn route : Nat) (s : State) : Host.Outcome State Fault Refusal :=
  let num := route % 1024
  answer (match s.route fn num with
    | none => s
    | some r => (s.putRoute { r with retiring := true }).tidyRoute fn num)

/-- RCMD_INVALID (R73): OP 0 and 3 are logged. -/
def execRcmdInvalid (fn : Nat) (value : BitVec 64) (s : State) : Host.Outcome State Fault Refusal :=
  answer (s.launchError fn lRouteBad (fld value 9 0) 0 0xFFFF)

/-! ## Kicks (R77 to R80) -/

/-- The checksum of a patch table's words (R78). -/
def patchSum (ws : List (RWord 32)) : BitVec 32 := ws.foldl (fun c w => ((c <<< 1) ||| (c >>> 31)) + w.v) 0

/-- Read the patch table that a kick names, in the route's PASID: its entries where it matches, none where it does not, or the
page that the read meets (R73, R78, R79). -/
def patchTable (s : State) (r : Route) (value : BitVec 64) : State × Except MErr (Option (List (BitVec 64 × BitVec 64))) :=
  let base := r.patch + BitVec.ofNat 64 (4096 * fld value 15 10)
  match s.cpRead r.fn r.pasid base 16 with
  | (s, .error (.page e)) => (s, .error e)
  | (s, .error .bad) => (s, .ok none)
  | (s, .ok h) =>
    let n := fld (word64 h 0) 31 16
    if 255 < n || fld (word64 h 0) 63 32 != 0 || word64 h 1 != 0 || fld (word64 h 0) 15 0 != fld value 31 16 then (s, .ok none)
    else match s.cpRead r.fn r.pasid (base + 16) (16 * n) with
      | (s, .error (.page e)) => (s, .error e)
      | (s, .error .bad) => (s, .ok none)
      | (s, .ok body) =>
        if patchSum (h ++ body) != value.extractLsb' 32 32 then (s, .ok none)
        else (s, .ok (some ((List.range n).map fun j => (word64 body (2 * j), word64 body (2 * j + 1)))))

/-- A kick whose table matches is accepted, or fails with PARAM or KICK_BUSY (R79, R80). (DEDUCED; log 44) A route that is
retiring accepts kicks still, and goes after their replays: the spec does not say which kicks its retirement waits for.
(DESIGN CHOICE; log 63) -/
def acceptKick (s : State) (r : Route) (value : BitVec 64) (tbl : List (BitVec 64 × BitVec 64)) : State :=
  let seq := value.extractLsb' 16 16
  if tbl.any fun e => r.params.length ≤ e.1.toNat then s.launchError r.fn lParam r.num seq 0xFFFF
  else if (if r.cur.isSome then 8 else 9) ≤ r.queue.length then s.launchError r.fn lKickBusy r.num seq 0xFFFF
  else
    let k : Kick := { seq := seq, slot := fld value 15 10, patches := tbl.map fun e => (e.1.toNat, e.2) }
    s.putRoute { r with queue := r.queue ++ [k] }

/-- KICK (R77, R79): a kick register write. -/
def execKick (fn width : Nat) (value : BitVec 64) (s : State) : Host.Outcome State Fault Refusal :=
  let num := fld value 9 0
  answer (
    if width != 64 then s.launchError fn lKickCheck 0 0 0xFFFF
    else match s.route fn num with
    | none => s.launchError fn lKickRoute num (value.extractLsb' 16 16) 0xFFFF
    | some r => match patchTable s r value with
      | (s, .ok (some tbl)) => acceptKick s r value tbl
      | (s, .ok none) =>
        { s with tries := s.tries ++ [{ h := s.nextH, fn := fn, value := value, tries := 0, next := s.ptime + 250 }], nextH := s.nextH + 1 }
      | (s, .error e) =>
        -- the read waits for its page, and is then made again
        let k : KickTry := { h := s.nextH, fn := fn, value := value, tries := 0, next := s.ptime }
        ({ s with tries := s.tries ++ [k], nextH := s.nextH + 1 } : State).cpPark fn r.pasid (.kick k.h) e)

def State.dropTry (s : State) (k : KickTry) : State := { s with tries := s.tries.filter fun x => x.h != k.h }

/-- A re-read of a kick's table mismatches: the eighth ends the kick (R79). -/
def State.kickMiss (s : State) (k : KickTry) : State :=
  if 7 ≤ k.tries then (s.dropTry k).launchError k.fn lKickCheck (fld k.value 9 0) (k.value.extractLsb' 16 16) 0xFFFF
  else { s with tries := lmod s.tries (fun x => x.h == k.h) fun x => { x with tries := k.tries + 1, next := k.next + 250 } }

/-- KICK_REREAD (R79): every 250 ns a mismatching table is read again; the eighth re-read ends the kick. A kick whose route's
slot has become empty ends as a kick on an empty entry does. (DESIGN CHOICE; log 63) -/
def execKickReread (fn i : Nat) (s : State) : Host.Outcome State Fault Refusal :=
  answer (match s.tries[i]? with
    | none => s
    | some k =>
      let num := fld k.value 9 0
      if k.fn != fn || s.ptime.toNat < k.next.toNat || s.cpWaits fn (.kick k.h) then s
      else match s.route fn num with
        | none => (s.dropTry k).launchError fn lKickRoute num (k.value.extractLsb' 16 16) 0xFFFF
        | some r => match patchTable s r k.value with
          | (s, .ok (some tbl)) => acceptKick (s.dropTry k) r k.value tbl
          | (s, .ok none) => s.kickMiss k
          | (s, .error e) => s.cpPark fn r.pasid (.kick k.h) e)

/-! ## Replays (R75, R76, R80) -/

/-- The defaults with a kick's patches applied, in order (R80). -/
def patched (defaults : List (BitVec 64)) (ps : List (Nat × BitVec 64)) : List (BitVec 64) :=
  ps.foldl (fun l p => l.set p.1 p.2) defaults

/-- Count one arrival at node `i` of a replay; at NPRED the node is to begin (R75). -/
def Replay.arrive (rp : Replay) (nodes : List Node) (i : Nat) : Replay :=
  match nodes[i]? with
  | none => rp
  | some n =>
    let c := sget 0 rp.counts i + 1
    if c < (if i = 0 then 1 else n.npred) then { rp with counts := sset 0 rp.counts i c }
    else { rp with counts := sset 0 rp.counts i 0, ready := rp.ready ++ [i] }

/-- The replay of a route has made its arrival, or lost it (R76). -/
def State.replayOver (s : State) (fn num : Nat) (ok : Bool) : State :=
  match s.route fn num with
  | none => s
  | some r => match r.cur with
    | none => s
    | some rp =>
      let s := s.putRoute { r with cur := none }
      (if ok then s else s.launchError fn lCodeFault num rp.seq 0xFFFF).tidyRoute fn num

/-- A replay ends when no node runs and none has reached its NPRED: one arrival on RCOMPL, which may wait for its page (R76). -/
def State.endReplay (s : State) (fn num : Nat) : State :=
  match s.route fn num with
  | none => s
  | some r => match r.cur with
    | none => s
    | some rp =>
      if !rp.ready.isEmpty || !rp.running.isEmpty || s.cpWaits fn (.rcompl num) then s
      else match s.cpArrive fn r.pasid (.rcompl num) r.rcompl rp.failed with
        | (s, none) => s
        | (s, some ok) => s.replayOver fn num ok

/-- REPLAY_START (R80): the replay of the oldest kick begins, with node 0. -/
def execReplayStart (fn route : Nat) (s : State) : Host.Outcome State Fault Refusal :=
  answer (match s.route fn route with
    | none => s
    | some r => match r.cur, r.queue with
      | none, k :: rest =>
        if s.regPend.contains (fn, route) then s
        else
          let rp : Replay :=
            { seq := k.seq, params := patched r.params k.patches, counts := [], ready := [0], running := [], begins := 0,
              failed := false }
          s.putRoute { r with queue := rest, cur := some rp }
      | _, _ => s)

/-- The parameter that an address field refers to, or the address itself; none for a bad index (R70). -/
def Replay.field (rp : Replay) (a : BitVec 64) : Option (BitVec 64) :=
  if fld a 63 60 = 0xF then rp.params[fld a 15 0]? else some a

/-- A packet with its address fields substituted; the fields before a bad index are, the rest are 0 (R70).
(DEDUCED; log 45) -/
def substitute (rp : Replay) (p : BitVec 512) : BitVec 512 × Bool :=
  -- COMPL first, then CODE, ARGS, DEP0, DEP1, CNTADDR
  [4, 2, 3, 5, 6, 7].foldl (fun acc i =>
    match (if acc.2 then rp.field (p.extractLsb' (64 * i) 64) else none) with
    | some x => (setFld acc.1 (64 * i + 63) (64 * i) x.toNat, acc.2)
    | none => (setFld acc.1 (64 * i + 63) (64 * i) 0, false)) (p, true)

/-- The test of a TEST node (R75). -/
def Node.test (n : Node) (x : BitVec 64) : Bool :=
  match n.cop with
  | 0 => x == n.cval
  | 1 => x != n.cval
  | 2 => x.toNat < n.cval.toNat
  | 3 => n.cval.toNat ≤ x.toNat
  | 4 => x.toInt < n.cval.toInt
  | _ => n.cval.toInt ≤ x.toInt

/-- Begin node `i` of the running replay `rp` of route `r`, which it has left the ready list of. -/
def beginNode (s : State) (r : Route) (rp : Replay) (i : Nat) (n : Node) : State :=
  let put (s : State) (rp : Replay) : State := (s.putRoute { r with cur := some rp }).endReplay r.fn r.num
  let fail (s : State) (code : Nat) : State :=
    put (s.launchError r.fn code r.num rp.seq i) { rp with failed := true }
  if r.maxBegin.toNat < rp.begins then fail s lRouteLimit
  else if n.kind = 2 then put s (n.succs.foldl (·.arrive r.nodes ·) rp)
  else if n.kind = 1 then
    match rp.field n.caddr with
    | none => fail s lParam
    | some a => match s.cpRead r.fn r.pasid a 8 with
      | (s, .error (.page e)) =>
        -- the read waits; the node begins when its page has come
        (s.putRoute r).cpPark r.fn r.pasid (.node r.num i) e
      | (s, .error .bad) => fail s lCodeFault
      | (s, .ok ws) => put s (rp.arrive r.nodes (n.succs.getD (if n.test (word64 ws 0) then 0 else 1) 0xFFFF))
  else
    let (pk, ok) := substitute rp n.packet
    let h := s.nextH
    let k : Cons :=
      { h := h, fn := r.fn, route := r.num, node := i, seq := rp.seq, pasid := r.pasid, packet := pk,
        st := if ok then .waiting else .failed, order := h, hdr := 0, obs := [], total := 0, ended := 0, failed := !ok, unmet := [5, 6], reread := none }
    let s := if ok then s else s.launchError r.fn lParam r.num rp.seq i
    let s := put s { rp with running := rp.running ++ [i] }
    { s with cons := s.cons ++ [k], nextH := h + 1, agenda := s.agenda ++ (if ok then [.dependenceReread h] else []) }

/-- NODE_BEGIN (R75): a node that has reached its NPRED begins. -/
def execNodeBegin (fn route node : Nat) (s : State) : Host.Outcome State Fault Refusal :=
  answer (match s.route fn route with
    | none => s
    | some r => match r.cur, r.nodes[node]? with
      | some rp, some n =>
        if !rp.ready.contains node || s.cpWaits fn (.node route node) then s
        else beginNode s r { rp with ready := rp.ready.erase node, begins := rp.begins + 1 } node n
      | _, _ => s)

end Sys2Proof.Machine
end

