-- ==== Sys2Proof/Machine/Launch.lean ====
section
/-!
DEFINITION. Consignments and caravans: dependences, checks at the begin, placement on dies, cores and quads, start,
hold and completion (R61 to R72, R81 to R88, R223).
-/
namespace Sys2Proof.Machine

/-! ## Code objects (R62 to R66) -/

/-- A role of a code object. -/
structure Role where
  entry : Nat
  vregs : Nat
  acc   : Nat
  waves : Nat
deriving DecidableEq, Repr

/-- What a header says of a crew. -/
structure Spec where
  cls   : Nat
  w32   : Bool
  scratch : Nat
  nbar  : Nat
  nchan : Nat
  roles : List Role
deriving DecidableEq, Repr

def roleOf (h : BitVec 1536) (j : Nat) : Role :=
  let b := 512 + 256 * j
  { entry := fld h (b + 63) b, vregs := fld h (b + 71) (b + 64), acc := fld h (b + 77) (b + 72), waves := fld h (b + 84) (b + 80) }

def nrole (h : BitVec 1536) : Nat := fld h 47 40

def launchSpec (h : BitVec 1536) : Spec :=
  { cls := fld h 35 32, w32 := h.getLsbD 36, scratch := fld h 95 64, nbar := fld h 101 96, nchan := fld h 107 102,
    roles := (List.range (min (nrole h) 4)).map (roleOf h) }

/-- Is an active role within its ranges (R63, R64)? -/
def Role.ok (r : Role) (codelen : Nat) : Bool :=
  1 ≤ r.waves && r.waves ≤ 16 && r.acc ≤ 32 && 1 ≤ r.vregs && r.vregs ≤ 32 && 192 ≤ r.entry && r.entry < 192 + codelen &&
    bitsOf r.entry 5 3 == 0 && r.entry % 8 ≤ 4

/-- Waves of a crew. -/
def Spec.nwaves (p : Spec) : Nat := (p.roles.map (·.waves)).sum

/-- The launch error of a header for crews of a caravan, or none (R64, R65). The ranges of the fields that describe no role
(NCHAN, NBAR, SCRATCH, CODELEN) and the records of roles from NROLE on, which R64 does not list, fail with HEADER too.
(DESIGN CHOICE; log 63) -/
def headerErr (h : BitVec 1536) (crews : Nat) : Option Nat :=
  let p := launchSpec h
  let n := nrole h
  let codelen := fld h 159 128
  let spare (j : Nat) : Bool := j < n || fld h (512 + 256 * j + 255) (512 + 256 * j) == 0
  let rsv (j : Nat) : Bool := n ≤ j || (fld h (512 + 256 * j + 255) (512 + 256 * j + 85) == 0 &&
    fld h (512 + 256 * j + 79) (512 + 256 * j + 78) == 0)
  if fld h 31 0 != 0x4B495301 || fld h 39 37 != 0 || fld h 63 48 != 0 || fld h 127 108 != 0 || fld h 511 160 != 0 || n = 0 ||
      4 < n || codelen % 64 != 0 || 32 < p.nchan || 16 < p.nbar || p.scratch % 256 != 0 || 524288 < p.scratch ||
      !((List.range 4).all fun j => spare j && rsv j) || !(p.roles.all (·.ok codelen)) || 16 < p.nwaves then some lHeader
  else if p.cls != 0 && p.cls != 9 then some lClass
  else if p.cls = 0 && (p.roles.any (fun r => 16 < r.vregs || 4 < r.acc) || 8 < p.nwaves || 262144 < p.scratch || 8 < p.nbar ||
      32 < crews) then some lFloor
  else none

/-- A wave slot to fill: its role with its number, the WID of its first wave, and whether two half-waves share it. -/
structure SlotUnit where
  role  : Role
  num   : Nat
  wid   : Nat
  two   : Bool

/-- The slots of a crew in WID order (R66). -/
def Spec.units (p : Spec) : List SlotUnit :=
  let one (j : Nat) (r : Role) (w0 : Nat) : List SlotUnit :=
    if p.w32 then (List.range ((r.waves + 1) / 2)).map fun i => { role := r, num := j, wid := w0 + 2 * i, two := 2 * i + 1 < r.waves }
    else (List.range r.waves).map fun i => { role := r, num := j, wid := w0 + i, two := false }
  (List.range p.roles.length).flatMap fun j =>
    match p.roles[j]? with
    | some r => one j r (((p.roles.take j).map (·.waves)).sum)
    | none => []

/-! ## Resources of cores (R84) -/

/-- What is in use of a quad: slots, units of V registers, tiles. -/
structure QuadUse where
  slots : List Nat
  vregs : Nat
  acc   : Nat
deriving DecidableEq, Repr

/-- What is in use of a core. -/
structure CoreUse where
  waves : Nat
  scr   : Nat
  bars  : Nat
  chans : Nat
  quads : List QuadUse
deriving DecidableEq, Repr

def freeCore : CoreUse := { waves := 0, scr := 0, bars := 0, chans := 0, quads := List.replicate 4 { slots := [], vregs := 0, acc := 0 } }

/-- Does a crew hold resources of its core (R358, R362)? -/
def Crew.holds (c : Crew) : Bool := c.st != .saved && c.st != .requeued

/-- What the resident waves of a quad use; two half-waves share their slot and its registers. -/
def quadUse (ws : List Wave) (q : Nat) : QuadUse :=
  let l := ws.filter fun w => w.slot / 16 == q
  let firsts := l.filter fun w => !w.half || !(l.any fun v => v.slot == w.slot && !v.half)
  { slots := firsts.map (·.slot % 16), vregs := (firsts.map (·.vregs)).sum, acc := (l.map (·.acc)).sum }

/-- What is in use of core `n`, numbered 48 × die + COREID. -/
def coreUse (s : State) (n : Nat) : CoreUse :=
  let ws := (s.waves.filter fun x => x.2.coreN == n).map (·.2)
  let cs := s.crews.filter fun c => 48 * c.die + c.core == n && c.holds
  { waves := ws.length, scr := (cs.map (·.scrSize)).sum, bars := (cs.map (·.nbar)).sum, chans := (cs.map (·.nchan)).sum,
    quads := (List.range 4).map (quadUse ws) }

/-- Can a quad hold a slot of a role? -/
def QuadUse.fits (q : QuadUse) (u : SlotUnit) : Bool :=
  q.slots.length < 16 && q.vregs + u.role.vregs ≤ 128 && q.acc + u.role.acc * (if u.two then 2 else 1) ≤ 32

/-- The quad with the most free slots among those that can hold the slot; ties to the lowest (R83). (DEDUCED; log 45) -/
def pickQuad (c : CoreUse) (u : SlotUnit) : Option Nat :=
  ((List.range 4).filter fun i => (c.quads.getD i { slots := [], vregs := 128, acc := 32 }).fits u).foldl (fun m i =>
    let used (j : Nat) : Nat := ((c.quads[j]?).map (·.slots.length)).getD 16
    match m with
    | none => some i
    | some j => if used i < used j then some i else some j) none

/-- Place the slots of a crew on a core, each in the lowest free slot of its quad: their places, or none (R83, R84). -/
def fitUnits : CoreUse → List SlotUnit → Option (List Nat × CoreUse)
  | c, [] => some ([], c)
  | c, u :: us =>
    match pickQuad c u with
    | none => none
    | some i =>
      let q := c.quads.getD i { slots := [], vregs := 0, acc := 0 }
      let j := ((List.range 16).find? fun j => !q.slots.contains j).getD 0
      let n := if u.two then 2 else 1
      let q' : QuadUse := { slots := j :: q.slots, vregs := q.vregs + u.role.vregs, acc := q.acc + u.role.acc * n }
      match fitUnits { c with quads := c.quads.set i q', waves := c.waves + n } us with
      | none => none
      | some (l, c) => some ((16 * i + j) :: l, c)

/-- Place a crew on a core. -/
def fitCrew (p : Spec) (c : CoreUse) : Option (List Nat × CoreUse) :=
  if 524288 < c.scr + p.scratch || 64 < c.bars + p.nbar || 128 < c.chans + p.nchan then none
  else fitUnits { c with scr := c.scr + p.scratch, bars := c.bars + p.nbar, chans := c.chans + p.nchan } p.units

/-- Where a crew is to stand: core number and the slots of its units. -/
structure Spot1 where
  core  : Nat
  slots : List Nat
deriving DecidableEq, Repr

/-- The cores of a die by resident waves, ties to the lowest COREID (R83): the first that can hold the crew. -/
def pickCore (p : Spec) (use : Nat → CoreUse) (die : Nat) : Option (Spot1 × CoreUse) :=
  ((List.range 48).map fun k => (48 * die + k, use (48 * die + k))).foldl (fun (m : Option (Spot1 × CoreUse × Nat)) x =>
    match (match m with | some (_, _, w) => if w ≤ x.2.waves then none else fitCrew p x.2 | none => fitCrew p x.2) with
    | some (l, c) => some ({ core := x.1, slots := l }, c, x.2.waves)
    | none => m) none |>.map fun y => (y.1, y.2.1)

/-- Place the crews `c`, `c + 1`, … of a caravan on its usable dies in order (R82, R83). -/
def placeCrews (p : Spec) (dies : List Nat) (base : Nat → CoreUse) : Nat → Nat → SMap CoreUse → Option (List Spot1)
  | 0, _, _ => some []
  | n + 1, c, m =>
    let die := dies.getD (c % dies.length) 0
    match pickCore p (fun k => (slook m k).getD (base k)) die with
    | none => none
    | some (x, u) => (placeCrews p dies base n (c + 1) (sput m x.core u)).map fun l => x :: l

/-- Dies that a consignment's caravans may use (R82). -/
def usable (s : State) (fn : Nat) (mask : BitVec 512) : List Nat :=
  (s.partDies fn).filter fun d => mask.getLsbD (16 + d) && s.online d

def Cons.crews (k : Cons) : Nat := fld k.packet 47 32
def Cons.pri (k : Cons) : Nat := fld k.packet 9 8
def Cons.idem (k : Cons) : Bool := k.packet.getLsbD 24
def Cons.word (k : Cons) (i : Nat) : BitVec 64 := k.packet.extractLsb' (64 * i) 64
def Cons.code (k : Cons) : BitVec 64 := k.word 2
def Cons.args (k : Cons) : BitVec 64 := k.word 3
def Cons.compl (k : Cons) : BitVec 64 := k.word 4

/-- Does the caravan fit on its usable dies when they are empty (R71)? -/
def fitsEmpty (s : State) (k : Cons) : Bool :=
  let dies := usable s k.fn k.packet
  !dies.isEmpty && (placeCrews (launchSpec k.hdr) dies (fun _ => freeCore) k.crews 0 []).isSome

/-! ## Consignments (R70 to R72) -/

def State.consOf (s : State) (h : Nat) : Option Cons := s.cons.find? fun k => k.h == h

def State.putCons (s : State) (k : Cons) : State := { s with cons := lmod s.cons (fun x => x.h == k.h) fun _ => k }

/-! ### Queues of caravans (R86, R87) -/

/-- Caravan `v` stands before `w` in the order of R86. -/
def cavBefore (s : State) (v w : Cav) : Bool :=
  match s.consOf v.cons, s.consOf w.cons with
  | some a, some b => b.pri < a.pri || (a.pri == b.pri && (a.order < b.order || (a.order == b.order && v.carav.toNat ≤ w.carav.toNat)))
  | _, _ => true

/-- Insertion into a list ordered by `le`. -/
def insertBy (le : α → α → Bool) (x : α) : List α → List α
  | [] => [x]
  | y :: l => if le x y then x :: y :: l else y :: insertBy le x l

def sortBy (le : α → α → Bool) (l : List α) : List α := l.foldr (insertBy le) []

/-- The queued caravans in the order in which they are offered. -/
def State.queue (s : State) : List Cav := sortBy (cavBefore s) (s.cavs.filter fun v => v.st == CavState.queued)

/-- The head of each priority's queue notes since when it is the head; the others are none (R87). -/
def State.reHead (s : State) : State :=
  let q := s.queue
  let pri (v : Cav) : Nat := ((s.consOf v.cons).map (·.pri)).getD 0
  let heads := (List.range 4).filterMap fun p => (q.find? fun v => pri v == p).map (·.h)
  { s with cavs := s.cavs.map fun v =>
      if v.st != CavState.queued then v
      else if heads.contains v.h then { v with head := some (v.head.getD s.ptime) }
      else { v with head := none } }

/-! ### Failure and dependences (R70 to R72) -/

/-- The consignment fails: what is not handed over never is (R71, R81, R88). -/
def failCons (s : State) (k : Cons) (code : Nat) : State :=
  let s := s.launchError k.fn code k.route k.seq k.node
  let open' := (s.cavs.filter fun v => v.cons == k.h && v.st != CavState.queued).length
  let s := { s with cavs := s.cavs.filter fun v => !(v.cons == k.h && v.st == CavState.queued) }
  (s.putCons { k with st := .failed, failed := true, total := k.ended + open' }).reHead

/-- Read the phase of a dependence; a zero one is met (R70). -/
def depMet (s : State) (k : Cons) (i : Nat) (want : Bool) : State × Except CpErr Bool :=
  let a := k.word i
  if a = 0 then (s, .ok true)
  else match s.cpRead k.fn k.pasid (a + 8) 8 with
    | (s, .error e) => (s, .error e)
    | (s, .ok ws) => (s, .ok ((word64 ws 0).getLsbD 16 == want))

/-- Read the dependences at the words of a list: those still unmet, and what stopped the reading (R70). -/
def depsRead (k : Cons) : State → List Nat → State × List Nat × Option CpErr
  | s, [] => (s, [], none)
  | s, i :: l =>
    match depMet s k i (k.packet.getLsbD (91 + i)) with
    | (s, .error e) => (s, i :: l, some e)
    | (s, .ok met) =>
      let (s, left, e) := depsRead k s l
      (s, if met then left else i :: left, e)

/-- DEPENDENCE_REREAD (R70): each unmet dependence is read; a consignment that has none is ready. While package time is stopped
nothing is read again. -/
def execDependenceReread (cons : Nat) (s : State) : Host.Outcome State Fault Refusal :=
  answer (match s.consOf cons with
    | none => s
    | some k =>
      if k.st != .waiting || s.cpWaits k.fn (.cons cons) || (s.stop && k.reread.isSome) then s
      else
        let (s, left, err) := depsRead k s k.unmet
        let k := { k with unmet := left, reread := some (s.ptime + 1000) }
        match err with
        | some (.page e) => (s.putCons k).cpPark k.fn k.pasid (.cons cons) e
        | some .bad => failCons s k lCodeFault
        | none =>
          if left.isEmpty then { s.putCons { k with st := .ready, order := s.nextH } with nextH := s.nextH + 1 }
          else s.putCons k)

/-- The reserved bits of a packet are 0 (R71). -/
def packetOk (p : BitVec 512) : Bool :=
  fld p 47 32 != 0 && fld p 127 98 == 0 && fld p 63 48 == 0 && fld p 31 27 == 0 && fld p 25 25 == 0 && fld p 15 10 == 0

/-- Is consignment `k` the one that the command processor begins next: the highest priority, then the oldest (R61)? -/
def beginsNext (s : State) (k : Cons) : Bool :=
  k.st == .ready && s.cons.all fun x => x.st != .ready || x.h == k.h || s.cpWaits x.fn (.cons x.h) || x.pri < k.pri ||
    (x.pri == k.pri && k.order ≤ x.order)

/-- Queue caravan `n` of a consignment. -/
def State.queueCav (s : State) (k : Cons) (n : Nat) : State :=
  let v : Cav := { h := s.nextH, cons := k.h, carav := BitVec.ofNat 32 n, st := .queued, head := none, held := none }
  ({ s with cavs := s.cavs ++ [v], nextH := s.nextH + 1 }).reHead

/-- CONSIGNMENT_BEGIN (R70, R71): checks, the count, and the first caravan queued. Where several checks fail the first of HEADER,
CLASS, FLOOR, PACKET, DIEMASK and RESOURCES is logged: the spec gives no order. (DESIGN CHOICE; log 63) -/
def beginCons (s : State) (k : Cons) : State :=
  match s.cpRead k.fn k.pasid k.code 192 with
  | (s, .error (.page e)) => s.cpPark k.fn k.pasid (.cons k.h) e
  | (s, .error .bad) => failCons s k lCodeFault
  | (s, .ok ws) =>
    let k := { k with hdr := BitVec.ofNat 1536 (natOf ws) }
    match headerErr k.hdr k.crews with
    | some e => failCons s k e
    | none =>
      if !packetOk k.packet then failCons s k lPacket
      else if (usable s k.fn k.packet).isEmpty then failCons s k lDiemask
      else if !fitsEmpty s k then failCons s k lResources
      else
        let start (s : State) (n : Nat) : State :=
          let s := { s.putCons { k with st := .begun, order := s.nextH, total := n } with nextH := s.nextH + 1 }
          if n = 0 then s else s.queueCav k 0
        if !k.packet.getLsbD 26 then start s (fld k.packet 95 64)
        else match s.cpRead k.fn k.pasid (k.word 7) 4 with
          | (s, .error (.page e)) => s.cpPark k.fn k.pasid (.cons k.h) e
          | (s, .error .bad) => failCons s k lCodeFault
          | (s, .ok c) => start s (natOf c)

/-- CONSIGNMENT_BEGIN (R71). -/
def execConsignmentBegin (cons : Nat) (s : State) : Host.Outcome State Fault Refusal :=
  answer (match s.consOf cons with
    | none => s
    | some k => if beginsNext s k && !s.cpWaits k.fn (.cons cons) then beginCons s k else s)

/-- Has the work of a consignment ended: its caravans, their engine operations, and every store of them, or that they have
observed, visible at system scope, as the release of the arrival at system scope needs (R72, R327)? -/
def consDone (s : State) (k : Cons) : Bool :=
  (k.st == .begun || k.st == .failed) && k.ended == k.total && !(s.cavs.any fun v => v.cons == k.h) &&
    (let mine (h : Nat) : Bool := s.crews.any fun c => c.h == h && c.cons == k.h
     !(s.ops.any fun o => mine o.crew)) &&
    s.ms.stores.all fun p => p.cons != k.h && !k.obs.contains p.sid || p.stage == .done

/-- A consignment has made its arrival, or lost it: the node's arrivals (R72, R75). -/
def consOver (s : State) (k : Cons) (ok : Bool) : State :=
  let s := if ok then s else s.launchError k.fn lCodeFault k.route k.seq k.node
  let failed := k.failed || !ok
  let s := { s with cons := s.cons.filter fun x => x.h != k.h }
  match s.route k.fn k.route with
  | none => s
  | some r => match r.cur, r.nodes[k.node]? with
    | some rp, some n =>
      let rp := { rp with running := rp.running.erase k.node, failed := rp.failed || failed }
      let rp := if failed then rp else n.succs.foldl (·.arrive r.nodes ·) rp
      (s.putRoute { r with cur := some rp }).endReplay k.fn k.route
    | _, _ => s

/-- CONSIGNMENT_COMPLETE (R72, R75): the arrival on COMPL, which may wait for its page, then the node's arrivals. -/
def completeCons (s : State) (k : Cons) : State :=
  match s.cpArrive k.fn k.pasid (.compl k.h) k.compl k.failed with
  | (s, none) => s
  | (s, some ok) => consOver s k ok

/-- CONSIGNMENT_COMPLETE (R72). -/
def execConsignmentComplete (cons : Nat) (s : State) : Host.Outcome State Fault Refusal :=
  answer (match s.consOf cons with
    | none => s
    | some k => if consDone s k && !s.cpWaits k.fn (.compl cons) then completeCons s k else s)

/-! ## Placement and start (R67, R82 to R87, R223) -/

/-- The first start tick at least 1,000 ns after now (R85). -/
def startTick (s : State) : BitVec 64 := BitVec.ofNat 64 ((s.ptime.toNat + 1999) / 1000 * 1000)

/-- Stack indices that waves of a context hold, resident or saved (R223). -/
def heldStk (s : State) (pasid : Nat) : List Nat :=
  (s.waves.filter fun x => x.2.pasid == pasid && !x.2.ended).map (·.2.stkidx.toNat) ++
    (s.crews.filter fun c => c.pasid == pasid).flatMap fun c => (c.saved.filter fun x => !x.2.ended).map (·.2.stkidx.toNat)

/-- The stack index that a new wave of a slot takes (R223). -/
def newStk (s : State) (pasid n : Nat) : Nat :=
  let held := heldStk s pasid
  if held.contains n then ((List.range (held.length + 1)).map (· + 24576)).find? (fun i => !held.contains i) |>.getD 24576 else n

/-- The wave of a unit at launch, in its half (R66, R67). -/
def launchWave (s : State) (c : Crew) (p : Spec) (u : SlotUnit) (slot : Nat) (upper : Bool) : Wave :=
  let die := c.die
  let mask : BitVec 64 := if p.w32 then (if upper then 0xFFFFFFFF00000000 else 0x00000000FFFFFFFF) else 0xFFFFFFFFFFFFFFFF
  let n := 3072 * die + 64 * c.core + slot
  let path := { pathAt (c.code + BitVec.ofNat 64 u.role.entry) mask with
                  half := upper, idx := if upper then 4 else 0, xfer := some 0, s := sset (zw 64) [] 1 (mkW c.args) }
  { waveAt die c.core slot c.pasid c.h (u.wid + if upper then 1 else 0) u.num u.role.vregs u.role.acc
      (BitVec.ofNat 32 (newStk s c.pasid n)) (s.ctxReg c.pasid 0x150) path with w32 := p.w32 }

/-- Add the waves of a crew's unit in its slot. -/
def addUnit (c : Crew) (p : Spec) (s : State) (x : SlotUnit × Nat) : State :=
  let key := 2 * (3072 * c.die + 64 * c.core + x.2)
  let s := s.putWave key (launchWave s c p x.1 x.2 false)
  if x.1.two then s.putWave (key + 1) (launchWave s c p x.1 x.2 true) else s

/-- Reserve a crew's place: its waves stand in their slots in the state of R67, and it is to start at its tick. -/
def State.placeAt (s : State) (c : Crew) (p : Spec) (x : Spot1) (t : BitVec 64) : State :=
  let c := { c with die := x.core / 48, core := x.core % 48, st := .placed, start := t, scr := Mem.empty, bars := [],
                    chans := [], engErr := 0, region := none, logged := [], cwdog := 0, abort := none }
  let s := if s.crews.any fun y => y.h == c.h then s.putCrew c else { s with crews := s.crews ++ [c] }
  (p.units.zip x.slots).foldl (addUnit c p) s

/-- A new crew of a caravan. -/
def newCrew (h : Nat) (k : Cons) (v : Cav) (i : Nat) : Crew :=
  let p := launchSpec k.hdr
  { crewAt h k.fn k.pasid k.h v.h v.carav (BitVec.ofNat 16 i) 0 0 p.nwaves with
      code := k.code, args := k.args, nbar := p.nbar, nchan := p.nchan, scrSize := p.scratch, idem := k.idem }

/-- The caravan that is held in a partition (R87). (DEDUCED; log 45) -/
def heldCav (s : State) (fn : Nat) : Option (Cav × Cons) :=
  (s.cavs.filterMap fun v => match v.held, s.consOf v.cons with
    | some _, some k => if k.fn == fn && v.st == CavState.queued then some (v, k) else none
    | _, _ => none).head?

/-- The dies that the crews of a caravan take. -/
def takenDies (s : State) (k : Cons) : List Nat := (usable s k.fn k.packet).take k.crews

/-- Does a held caravan keep another off its dies (R87)? (DEDUCED; log 45) -/
def blockedByHold (s : State) (v : Cav) (k : Cons) : Bool :=
  match heldCav s k.fn with
  | none => false
  | some (w, kw) => w.h != v.h && (takenDies s k).any fun d => (usable s kw.fn kw.packet).contains d

/-- May a requeued crew be placed: every group of its parks has been answered (R355)? -/
def Crew.eligible (s : State) (c : Crew) : Bool :=
  c.st == .requeued && !(s.parks.any fun k => k.crew == c.h)

/-- The place that a crew takes on its die now (R83). -/
def crewSpot (s : State) (c : Crew) : Option (Spec × Spot1) :=
  match s.consOf c.cons with
  | none => none
  | some k => (pickCore (launchSpec k.hdr) (coreUse s) c.die).map fun x => (launchSpec k.hdr, x.1)

/-- May a crew return to its die while a caravan is held: not one of lower priority than the held caravan, for which its usable
dies keep what is freed (R87, R355, R361). (DEDUCED; log 45) -/
def Crew.mayReturn (s : State) (c : Crew) : Bool :=
  match heldCav s c.fn with
  | none => true
  | some (_, kw) => !(usable s kw.fn kw.packet).contains c.die || kw.pri ≤ ((s.consOf c.cons).map (·.pri)).getD 0

/-- Does a crew that waits to return to one of the dies go before a caravan of priority `pri` (R355, R361)? -/
def crewsFirst (s : State) (dies : List Nat) (pri : Nat) : Bool :=
  s.crews.any fun c => dies.contains c.die && (c.eligible s || (c.st == .saved && pri ≤ ((s.consOf c.cons).map (·.pri)).getD 0)) &&
    c.mayReturn s && (crewSpot s c).isSome

/-- The places of a queued caravan's crews, if it can be placed now. -/
def cavSpots (s : State) (v : Cav) (k : Cons) : Option (List Spot1) :=
  let dies := usable s k.fn k.packet
  if dies.isEmpty || blockedByHold s v k || crewsFirst s (takenDies s k) k.pri then none
  else placeCrews (launchSpec k.hdr) dies (coreUse s) k.crews 0 []

/-- The caravan to hand over: the first in order that can be placed (R86). -/
def nextCav (s : State) : Option (Cav × Cons × List Spot1) :=
  s.queue.findSome? fun v => match s.consOf v.cons with
    | some k => (cavSpots s v k).map fun l => (v, k, l)
    | none => none

/-- Reserve the crews of a caravan, from number `i` on. -/
def placeAll1 (k : Cons) (v : Cav) (t : BitVec 64) : State → Nat → List Spot1 → State
  | s, _, [] => s
  | s, i, x :: l =>
    let c := newCrew s.nextH k v i
    placeAll1 k v t (({ s with nextH := s.nextH + 1 }).placeAt c (launchSpec k.hdr) x t) (i + 1) l

/-- CARAVAN_HANDOVER (R85, R86): its crews are reserved, and its consignment's next caravan is queued. -/
def handOver (s : State) (v : Cav) (k : Cons) (l : List Spot1) : State :=
  let t := startTick s
  let s := placeAll1 k v t s 0 l
  let s := { s with cavs := lmod s.cavs (fun x => x.h == v.h) fun x => { x with st := .starting t, head := none, held := none } }
  if v.carav.toNat + 1 < k.total then s.queueCav k (v.carav.toNat + 1) else s.reHead

/-- CARAVAN_HANDOVER (R85). -/
def execCaravanHandover (cav : Nat) (s : State) : Host.Outcome State Fault Refusal :=
  answer (match nextCav s with
    | some (v, k, l) => if v.h == cav then handOver s v k l else s
    | none => s)

/-- Does the crew wait for its start tick? -/
def Crew.starts (c : Crew) : Bool := c.st == .placed || c.st == .restoring

/-- Crews become resident and their watchdogs go on from what they had measured; an abort that waited for the end of a restore
takes effect (R85, R356, R361, R362). -/
def State.startCrews (s : State) (q : Crew → Bool) : State :=
  let cs := s.crews.filter q
  let go (w : Wave) : Wave := match cs.find? fun c => c.h == w.crew with
    | some c => { w with wdog := c.start - w.wdog }
    | none => w
  let s := { s with
    crews := lmod s.crews q fun c => { c with st := .resident, cwdog := c.start - c.cwdog }, waves := s.waves.map fun x => (x.1, go x.2) }
  (cs.filter fun c => c.abort.isSome).foldl (fun s c => s.dueAbort c.h) s

/-- CARAVAN_START (R85, R355, R361): at the start tick every wave becomes ready; so does every wave of a crew of a running
caravan that was placed again, at that crew's tick. -/
def execCaravanStart (cav : Nat) (s : State) : Host.Outcome State Fault Refusal :=
  answer (match s.cavs.find? fun v => v.h == cav with
    | none => s
    | some v => match v.st with
      | .starting t =>
        if s.ptime.toNat < t.toNat then s
        else
          let s := s.startCrews (fun c => c.cav == cav && c.starts && c.start == t)
          { s with cavs := lmod s.cavs (fun x => x.h == cav) fun x => { x with st := .running } }
      | .running => s.startCrews (fun c => c.cav == cav && c.starts && c.start.toNat ≤ s.ptime.toNat)
      | .queued => s)

/-- CARAVAN_HOLD (R87): a caravan that has headed its queue for 50,000 ns becomes held, unless one of its partition of
at least its priority is. -/
def execCaravanHold (cav : Nat) (s : State) : Host.Outcome State Fault Refusal :=
  answer (match s.cavs.find? fun v => v.h == cav with
    | none => s
    | some v => match v.head, s.consOf v.cons with
      | some t, some k =>
        let late := v.st == CavState.queued && 50000 ≤ s.ptime.toNat - t.toNat && v.held.isNone
        let other := heldCav s k.fn
        let yields := match other with | none => true | some (_, kw) => kw.pri < k.pri
        if late && yields then
          let drop (x : Cav) : Cav := if (other.map fun y => y.1.h) == some x.h then { x with held := none } else x
          { s with cavs := lmod (s.cavs.map drop) (fun x => x.h == cav) fun x => { x with held := some s.ptime } }
        else s
      | _, _ => s)

/-- Waiting caravans after dies went: one that no longer fits on empty usable dies fails its consignment (R88). -/
def State.recheckCavs (s : State) : State :=
  (s.cavs.filter fun v => v.st == CavState.queued).foldl (fun s v => match s.consOf v.cons with
    | some k => if k.st == .begun && !fitsEmpty s k then (failCons s k lResources).reHead else s
    | none => s) s

end Sys2Proof.Machine
end

