-- ==== Sys2Proof/Machine/Sync.lean ====
section
/-!
DEFINITION. Completion-object instructions, crew barriers and the bazaar plane: opcodes 0xE0 to 0xE7 (R330 to R335, R338
to R344).
-/
namespace Sys2Proof.Machine

/-- A synchronising operation of class C (R337). -/
def kSync : Kind := { cls := .c, sync := true }

/-! ## Completion objects (R330 to R333) -/

/-- ENGINE_ERROR with a subcode about the object at `a`. -/
def engineError (sub : Nat) (a : BitVec 64) : Trap := { cause := cEngineError, sub := sub, addr := a }

/-- What an instruction that updates an object asks of its page: the object is checked as an atomic (R330). -/
def objUpd (op : Nat) : Acc := objAcc op { r := true, w := true, a := true }

/-- The checks of R330, then the place of the object. -/
def onObject (t : Th) (f : Fields) (a : Acc) (ex : BitVec 64) (k : Th → Placed → Res) : Res :=
  let c := f.sc.toNat
  if !bad (t.sreg f.sa.toNat) && bad (t.sreg c) then .trap t (poisonUse 5 c)
  else access t f a false ex noData fun t ps => match ps with
    | [] => .done t
    | x :: _ => k t x

/-- Must an update of the object wait: for its release, or for its core's stores to the object (R315, R318)? -/
def objWaits (t : Th) (f : Fields) (l : Loc) : Bool := atomWaits t f [l]

/-- BINIT's update: every word anew, PHASE kept. -/
def binitObj (s : State) (g : Agent) (l : Loc) (n : Nat) : State :=
  let o := objAt s g l
  let ws := two (BitVec.ofNat 64 (n * 2 ^ 48)) ++ two (BitVec.ofNat 64 (n + (if o.phase then 2 ^ 16 else 0))) ++ two 0 ++ two 0
  ((List.range 8).foldl (fun s i => putHomeWord s g (ws.getD i (zw 32)) (shiftLoc s g 0 l (4 * i))) s).announced g [l]

/-- The path has updated an object: the state is `s` now. -/
def Th.updated (t : Th) (s : State) : Th := ({ t with s := s } : Th).made t.s.ms.nextSid

/-- BINIT (R331). -/
def execBinit (f : Fields) : State → Host.Outcome State Fault Refusal :=
  issue (.binit f) f kC fun t ex =>
    let a := objUpd 0xE0
    let n := f.sc.toNat
    onObject t f a ex fun t x => checkPlaced t a [x] (fun _ => [t.srcS 64 n 3]) fun t =>
      let o := objAt t.s t.agent x.loc
      if objWaits t f x.loc then .hold t
      else if o.pbytes != 0 then .trap t (engineError eCount (laneAddr t f false 0))
      else captured t [x.loc] fun t =>
        .done (t.updated (binitObj t.s t.agent x.loc (fld (t.sreg n).v 15 0)))

/-- BARRIVE (R331): one arrival, with release. -/
def execBarrive (f : Fields) : State → Host.Outcome State Fault Refusal :=
  issue (.barrive f) f kSync fun t ex =>
    let a := objUpd 0xE1
    onObject t f a ex fun t x => checkPlaced t a [x] noData fun t =>
      let o := objAt t.s t.agent x.loc
      if objWaits t f x.loc then .hold t
      else if o.psn then .trap t (engineError ePoison (laneAddr t f false 0))
      else captured t [x.loc] fun t =>
        .done (t.updated (t.s.putObj t.agent x.loc o (o.lower (identOf t.w) 0 true 0)))

/-- A word of an object as a load of `g` reads it: past the L1D, under the stores that are visible to the core, and from the
reader's own copy of a replicated page, or past a locked one from home (R249, R312, R322). (DEDUCED; log 48) -/
def loadWord (s : State) (g : Agent) (l : Loc) : RWord 32 :=
  match l with
  | .mem _ pa m => (if anyLocked s g [l] then s.homeBlk g.core m else s.localBlk g.core m).word (pa % 64 / 4)
  | _ => homeWord s g l

/-- The object at a place, as BWAIT and BTEST read it. -/
def objSeen (s : State) (g : Agent) (l : Loc) : Obj := objOf fun i => loadWord s g (shiftLoc s g 0 l (4 * i))

/-- The source word that stands for word 1 of an object, which BWAIT and BTEST read as a load (R234, R331). -/
def word1Src (s : State) (g : Agent) (l : Loc) : Src :=
  let lo := loadWord s g (shiftLoc s g 0 l 8)
  let hi := loadWord s g (shiftLoc s g 0 l 12)
  { v := 0, bad := bad lo || bad hi, ok := sound lo && sound hi, wher := 0, reg := 0 }

/-- Read word 1 of the object of an instruction with address register `sa` and further sources, then continue. -/
def onWord1 (t : Th) (op sa : Nat) (a : BitVec 64) (l : Loc) (srcs : List Src) (k : Th → Obj → Res) : Res :=
  let w := word1Src t.s t.agent l
  let o := objSeen t.s t.agent l
  if w.bad then .trap t (poisonUse 5 sa 0 a)
  else checked t op (w :: srcs) fun t =>
    k ((if anyLocked t.s t.agent [l] then { t with s := t.s.crewEvent t.w.crew 2 0x08 } else t).observe [l]) o

/-- As `onWord1` for an instruction that issues: the read waits as a load does, and acquires as its ORD says (R322, R331). -/
def readWord1 (t : Th) (f : Fields) (op : Nat) (a : BitVec 64) (l : Loc) (srcs : List Src) (k : Th → Obj → Res) : Res :=
  loadWaits t f [l] fun t => onWord1 t op f.sa.toNat a l srcs fun t o => k (t.acquires f) o

/-- Must the update of an object wait: for its core's stores to the object, or for a commit (R318, R321)? -/
def updWaits (t : Th) (l : Loc) : Bool :=
  anyPending t.s t.agent [l] || match l with | .mem _ _ m => t.s.committing m.home | _ => false

/-- BWAIT leaves its loop, having read `o`: the wait is recorded if it is the longest, and an error is raised after the read
(R332). It stays, as `again` says, while the record must wait. -/
def bwaitLeave (t : Th) (a : BitVec 64) (l : Loc) (o : Obj) (t0 : BitVec 64) (again : Wait) : Res :=
  let w := (t.s.ptime - t0).toNat % 2 ^ 48
  let fin (t : Th) : Res := if o.isErr then .trap t (engineError o.esub a) else .done t
  let h := objAt t.s t.agent l
  if w ≤ fld h.w3 47 0 then fin t
  else if updWaits t l then .hold { t with p := { t.p with wait := again } }
  else if h.psn then .trap t (engineError ePoison a)
  else captured t [l] fun t =>
    fin (t.updated (t.s.putObj t.agent l h { h with w3 := BitVec.ofNat 64 ((identOf t.w).toNat * 2 ^ 48 + w) }))

/-- BWAIT (R332): it retires if the object is in the awaited phase, and waits otherwise. -/
def execBwait (f : Fields) : State → Host.Outcome State Fault Refusal :=
  issue (.bwait f) f kSync fun t ex =>
    let n := f.sa.toNat
    let a := laneAddr t f false 0
    onObject t f (objAcc 0xE2 { r := true }) ex fun t x => readWord1 t f 0xE2 a x.loc (t.srcS 64 f.sc.toNat 3 :: x.srcs) fun t o =>
      let b := (t.sreg f.sc.toNat).v.getLsbD 0
      let now := t.s.ptime
      let wait := Wait.bwait n a b now (f.sub == 1 && now.toNat < o.w2.toNat)
      if o.phase == b then bwaitLeave t a x.loc o now wait else .hold { t with p := { t.p with wait := wait } }

/-- BTEST (R331, R332). -/
def execBtest (f : Fields) : State → Host.Outcome State Fault Refusal :=
  issue (.btest f) f kC fun t ex =>
    let a := laneAddr t f false 0
    onObject t f (objAcc 0xE3 { r := true }) ex fun t x =>
      readWord1 t f 0xE3 a x.loc (t.srcS 64 f.sc.toNat 3 :: x.srcs) fun t o =>
        let hit := o.phase == (t.sreg f.sc.toNat).v.getLsbD 0
        if hit && o.isErr then .trap t (engineError o.esub a) else .done (t.setB f.dst.toNat (mkW (if hit then 1 else 0)))

/-- A waiting BWAIT reads its object again: the outcome, from the object and where it lies. (DEDUCED; log 48) -/
def bwaitAgain (s : State) (wk eid : Nat) (k : Th → BitVec 64 → Bool → BitVec 64 → Bool → Loc → Obj → Option Res) : State :=
  match s.view wk eid with
  | none => s
  | some t => match t.p.wait with
    | .bwait sa a b t0 armed =>
      if t.p.st != .running then s
      else match resolve s t.agent { noStk := true, noDsc := true } { r := true } 32 [(0, a)] with
      | (s', .error e) => parkPath { t with s := s' } 15 { e with lanes := 0 }
      | (_, .ok []) => s
      | (s', .ok (l :: _)) =>
        let t' : Th := { t with s := s' }
        if anyLocked s' t.agent [l] then s
        else match k (t'.observe [l]).acquire a b t0 armed l (objSeen s' t.agent l) with
        | none => s
        | some r => finish t { sync := true } (onWord1 t' 0xE2 sa a l [] fun _ _ => r)
    | _ => s

/-- BWAIT_WAKE (R332): the object has the awaited phase. (DEDUCED; log 48) -/
def execBwaitWake (wk eid : Nat) (s : State) : Host.Outcome State Fault Refusal :=
  answer (bwaitAgain s wk eid fun t a b t0 _ l o =>
    if o.phase == b && !updWaits t l then some (bwaitLeave t a l o t0 t.p.wait) else none)

/-- PROMISE_MISS (R332): an armed BWAIT has passed the promise; it raises where CHKCTL.PROMISETRAP is set, and waits on
unarmed otherwise. -/
def execPromiseMiss (wk eid : Nat) (s : State) : Host.Outcome State Fault Refusal :=
  answer (bwaitAgain s wk eid fun t a b t0 armed _ o =>
    if !armed || o.phase == b || t.s.ptime.toNat < o.w2.toNat then none
    else if t.w.chkctl.getLsbD 1 then some (.trap t { cause := cPromiseMiss, addr := a, info := o.w2.toNat })
    else match t.p.wait with
      | .bwait sa .. => some (.hold { t with p := { t.p with wait := .bwait sa a b t0 false } })
      | _ => none)

/-! ## Crew barriers (R335) -/

def cbarN (f : Fields) : Nat := fld (yNum f) 3 0
def cbarCount (f : Fields) : Nat := fld (yNum f) 8 4

/-- Arrive, unless the path table holds more than one entry; what follows is told whether this arrival completed the
phase. -/
def cbarArrival (t : Th) (f : Fields) (k : Th → Bool → Barrier → Res) : Res :=
  let n := cbarN f
  let h := t.w.crew
  if 1 < t.w.paths.length then .trap t { cause := cLoopNest }
  else match t.crew with
    | none => .done t
    | some c =>
      let b := (c.bar n).arrive t.w.wid (cbarCount f)
      let s := t.s.setBar h n b
      k { t with s := s.barSettle h n (identOf t.w) } (barDone s h b) b

/-- CBAR.sync (R335): one whose phase completed while a debugger held its path retires when it is released (R366). -/
def execCbarSync (f : Fields) : State → Host.Outcome State Fault Refusal :=
  issue (.cbarSync f) f kSync fun t _ => if t.p.wait == .brkpt then .done t.acquire else cbarArrival t f fun t flips b =>
    if flips then .done t.acquire
    else .hold { t with p := { t.p with wait := .cbar (cbarN f) b.phase t.s.ptime } }

/-- CBAR.arrive (R335). -/
def execCbarArrive (f : Fields) : State → Host.Outcome State Fault Refusal :=
  issue (.cbarArrive f) f kSync fun t _ => cbarArrival t f fun t _ _ => .done t

/-- CBAR.rec (R335). -/
def execCbarRec (f : Fields) : State → Host.Outcome State Fault Refusal :=
  issue (.cbarRec f) f kSync fun t _ =>
    let n := f.dst.toNat
    let b := (t.crew.map (·.bar (cbarN f))).getD barZero
    splitCheck t n (.done (t.setS n (mkW (BitVec.ofNat 64 (b.last.toNat * 2 ^ 48 + b.lwid.toNat * 2 ^ 32 +
      min b.lwait.toNat (2 ^ 31 - 1) * 2 + (if b.phase then 1 else 0))))))

/-- CBAR_WAKE (R335): the phase has completed; the wait is recorded if it is the longest, and the path goes on, one that is held
once it is released (R366). (DEDUCED; log 46) -/
def execCbarWake (wk eid : Nat) (s : State) : Host.Outcome State Fault Refusal :=
  answer (match s.view wk eid with
    | none => s
    | some t => match t.p.wait, t.crew with
      | .cbar n phase t0, some c =>
        let b := c.bar n
        let w := (s.ptime - t0).toNat % 2 ^ 48
        if b.phase == phase then s
        else
          let b := if b.lwait.toNat < w then { b with lwait := BitVec.ofNat 48 w, lwid := identOf t.w } else b
          let t' : Th := { t with s := s.setBar c.h n b }
          if t.p.held.isSome then ({ t' with p := { t.p with wait := .brkpt } } : Th).commit
          else finish t { sync := true } (.done t'.acquire)
      | _, _ => s)

/-! ## The bazaar plane (R338 to R344) -/

/-- The number of a wave's slot in the package. -/
def Wave.pslot (w : Wave) : Nat := 3072 * w.die + 64 * w.core + w.slot

/-- The entry that a slot holds. -/
def State.entry (s : State) (slot : Nat) : Option Contest := s.contests.find? fun c => c.slot == slot

/-- The compound key (R339). -/
def compound (key : Nat) (w : Wave) : BitVec 48 := BitVec.ofNat 48 (key % 2 ^ 32 * 2 ^ 16 + (identOf w).toNat + 1)

/-- CONTEST_ERROR with its reason (R341). -/
def contestError (reason : Nat) : Trap := { cause := cContestError, info := reason }

/-- CONTEND (R341): registers an entry. (DEDUCED; log 32) -/
def execContend (f : Fields) : State → Host.Outcome State Fault Refusal :=
  issue (.contend f) f kSync fun t _ =>
    let regs := [(f.sa.toNat, 1)] ++ (if f.immf then [] else [(f.sb.toNat, 2)]) ++ [(f.sc.toNat, 3)]
    match regs.find? fun r => bad (t.sreg r.1) with
    | some r => .trap t (poisonUse 5 r.1)
    | none => checked t 0xE5 (regs.map fun r => t.srcS 64 r.1 r.2) fun t =>
      if (t.s.entry t.w.pslot).isSome then .trap t (contestError 2)
      else
        let id : BitVec 8 := if f.immf then f.hi.extractLsb' 0 8 else (t.sreg f.sb.toNat).v.extractLsb' 0 8
        let c : Contest :=
          { slot := t.w.pslot, wk := t.wk, cid := id, comp := compound (t.sreg f.sa.toNat).v.toNat t.w,
            nb := (t.sreg f.sc.toNat).v, ret := t.s.ptime, orphan := false, st := .pending }
        .done { t with s := { t.s with contests := t.s.contests ++ [c] } }

/-- The view without the entry of the wave's slot. -/
def Th.consume (t : Th) : Th := { t with s := { t.s with contests := t.s.contests.filter fun c => c.slot != t.w.pslot } }

/-- What CRESULT finds: nothing while the round has not closed. -/
def cresult (t : Th) (n : Nat) : Option Res :=
  match t.s.entry t.w.pslot with
  | none => some (.trap t (contestError 3))
  | some c => if c.orphan then some (.trap t (contestError 3)) else match c.st with
    | .closed w => some (.done (t.consume.setS n (mkW w)))
    | .voided => some (.trap t.consume (contestError 1))
    | _ => none

/-- CRESULT.wait (R341). -/
def execCresultWait (f : Fields) : State → Host.Outcome State Fault Refusal :=
  issue (.cresultWait f) f kC fun t _ =>
    let n := f.dst.toNat
    splitCheck t n ((cresult t n).getD (.hold { t with p := { t.p with wait := .cresult n } }))

/-- CRESULT.test (R341). -/
def execCresultTest (f : Fields) : State → Host.Outcome State Fault Refusal :=
  issue (.cresultTest f) f kC fun t _ =>
    let n := f.dst.toNat
    splitCheck t n ((cresult t n).getD (.done (t.setS n (zw 64))))

/-- CRESULT_WAKE (R341): the round of a waiting CRESULT has closed, or was voided. -/
def execCresultWake (wk eid : Nat) (s : State) : Host.Outcome State Fault Refusal :=
  answer (match s.view wk eid with
    | none => s
    | some t => match t.p.wait with
      | .cresult n => match cresult t n with
        | some r => finish t {} r
        | none => s
      | _ => s)

/-- CWITHDRAW (R341). -/
def execCwithdraw (f : Fields) : State → Host.Outcome State Fault Refusal :=
  issue (.cwithdraw f) f kC fun t _ =>
    let n := f.dst.toNat
    splitCheck t n (match t.s.entry t.w.pslot with
      | none => .trap t (contestError 3)
      | some c =>
        if c.orphan then .trap t (contestError 3)
        else if c.st == .pending then .done (t.consume.setS n (mkW 1))
        else .done (t.setS n (zw 64)))

/-- The first boundary at or after package time `x` (R338). -/
def boundary (x : Nat) : Nat := (x + 103) / 104 * 104

/-- The time from which an entry is eligible (R340). -/
def Contest.from (c : Contest) : Nat := max (c.ret.toNat + 24) c.nb.toNat

def Contest.line (c : Contest) : Nat := c.cid.toNat % 16

/-- Does the entry stand in a wave slot: its wave is not saved (R343)? -/
def Contest.here (c : Contest) : Bool := c.slot < 24576

def State.pendingOn (s : State) (line : Nat) : List Contest :=
  s.contests.filter fun c => c.here && c.st == .pending && c.line == line

/-- The earliest boundary at which the line can open a new round: after those that still run. -/
def State.lineFree (s : State) (line : Nat) : Nat :=
  (s.rounds.filter fun r => r.line == line && r.run).foldl (fun m r => max m (r.bnd.toNat + 104)) 0

/-- The next round of a line: a voided one to repeat, else that of the oldest eligible entry, with its boundary (R340,
R344). -/
def State.nextRound (s : State) (line : Nat) : Option Round :=
  match s.rounds.find? fun r => r.line == line && !r.run with
  | some r => some { r with run := true }
  | none =>
    let l := s.pendingOn line
    match l with
    | [] => none
    | e0 :: _ =>
      let b := max (l.foldl (fun m e => min m (boundary e.from)) (boundary e0.from)) (s.lineFree line)
      let ok := l.filter fun e => e.from ≤ b
      let first := ok.foldl (fun m e => if e.ret.toNat < m.ret.toNat || (e.ret == m.ret && e.cid.toNat < m.cid.toNat) then e else m)
        (ok.headD e0)
      -- a boundary that package time cannot reach never comes
      if 2 ^ 64 ≤ b then none else some { line := line, cid := first.cid, bnd := BitVec.ofNat 64 b, again := none, run := true }

/-- Does an entry join a round (R340, R344)? -/
def Contest.joins (c : Contest) (r : Round) : Bool :=
  c.here && c.st == .pending && c.cid == r.cid && c.from ≤ r.bnd.toNat &&
    (match r.again with | some t => t.toNat < c.from | none => true)

/-- ROUND_OPEN (R340): the line opens its next round, if its boundary has come. (DEDUCED; log 32) -/
def execRoundOpen (line : Nat) (s : State) : Host.Outcome State Fault Refusal :=
  answer (match s.nextRound line with
    | none => s
    | some r =>
      if s.ptime.toNat < r.bnd.toNat then s
      else { s with
        rounds := s.rounds.filter (fun x => x.run || x.line != line) ++ [r],
        contests := lmod s.contests (fun c => c.joins r) fun c => { c with st := .inRound r.bnd } })

/-- The round of a line that has come to its close. -/
def State.closing (s : State) (line : Nat) : Option Round :=
  s.rounds.find? fun r => r.line == line && r.run && r.bnd.toNat + 104 ≤ s.ptime.toNat

/-- Is an entry in the round? -/
def Contest.inRnd (c : Contest) (r : Round) : Bool := c.cid == r.cid && c.st == .inRound r.bnd

/-- The result word of an entry when `win` is the greatest compound key (R341). -/
def resultWord (win own : BitVec 48) : BitVec 64 :=
  BitVec.ofNat 64 (win.toNat / 2 ^ 16 * 2 ^ 32 + win.toNat % 2 ^ 16 / 2 * 2 * 2 ^ 16 + (if win == own then 2 else 0) + 1)

/-- ROUND_CLOSE (R338, R340): every participant receives the result; a result nobody awaits is discarded (R343).
(DEDUCED; log 32) -/
def execRoundClose (line : Nat) (s : State) : Host.Outcome State Fault Refusal :=
  answer (match s.closing line with
    | none => s
    | some r =>
      let win := (s.contests.filter fun c => c.inRnd r).foldl (fun (m : BitVec 48) c => if m.toNat < c.comp.toNat then c.comp else m) 0
      { s with
        rounds := s.rounds.filter fun x => !(x.line == line && x.run && x.bnd == r.bnd),
        contests := (s.contests.filter fun c => !(c.inRnd r && c.orphan)).map fun c =>
          if c.inRnd r then { c with st := .closed (resultWord win c.comp) } else c })

/-- The round events that package time has brought: openings before closes. -/
def State.roundsDue (s : State) : List Instr :=
  match (List.range 16).find? fun l => match s.nextRound l with | some r => r.bnd.toNat ≤ s.ptime.toNat | none => false with
  | some l => [.roundOpen l]
  | none => match (List.range 16).find? fun l => (s.closing l).isSome with
    | some l => [.roundClose l]
    | none => []

end Sys2Proof.Machine
end

