-- ==== Sys2Proof/Machine/SaveRec.lean ====
section
/-!
DEFINITION. The save record of a crew: what the hart writes into it, and what a restore reads back (R286, R343, R358 to R361).
-/
namespace Sys2Proof.Machine

/-! ## Words -/

/-- A 64-bit register as two words that keep its residue: a mismatch shows on the high word. -/
def pairW (x : RWord 64) : List (RWord 32) :=
  let lo : BitVec 32 := x.v.extractLsb' 0 32
  let hi : BitVec 32 := x.v.extractLsb' 32 32
  if bad x then [{ v := lo, r := 15 }, { v := hi, r := 15 }]
  else [mkW lo, { v := hi, r := res (x.r.toNat + 15 - lo.toNat % 15) }]

/-- A word reloaded: one whose residue mismatches becomes residue 15 (R361). -/
def reload (x : RWord 32) : RWord 32 := if sound x then x else { x with r := 15 }

/-- A 64-bit register reloaded. -/
def pairR (lo hi : RWord 32) : RWord 64 := mkP (bad (reload lo) || bad (reload hi)) (hi.v ++ lo.v)

/-- The words of a list of bytes. -/
def bytesW (l : List (BitVec 8)) : List (RWord 32) :=
  (List.range ((l.length + 3) / 4)).map fun i => mkW (BitVec.ofNat 32 (leNat ((l.drop (4 * i)).take 4)))

/-- Byte `i` of a list of words. -/
def byteOf (ws : List (RWord 32)) (i : Nat) : BitVec 8 := (ws.getD (i / 4) (zw 32)).v.extractLsb' (8 * (i % 4)) 8

/-- `n` words of a number, lowest first. -/
def numW (x n : Nat) : List (RWord 32) := (List.range n).map fun i => mkW (BitVec.ofNat 32 (x / 2 ^ (32 * i)))

def wordsMap (d : Nat → RWord 32) (lo : Nat) (l : List (RWord 32)) : SMap (RWord 32) :=
  (List.range l.length).foldl (fun m i => sset (d (lo + i)) m (lo + i) (reload (l.getD i (zw 32)))) []

def regsMap (lo : Nat) (l : List (RWord 32)) : SMap (RWord 64) :=
  (List.range (l.length / 2)).foldl (fun m i => sset (zw 64) m (lo + i) (pairR (l.getD (2 * i) (zw 32)) (l.getD (2 * i + 1) (zw 32)))) []

/-! ## Barriers and channels (R359) (DESIGN CHOICE; log 10) -/

/-- A barrier's 32 bytes. -/
def barWords (b : Barrier) : List (RWord 32) :=
  two (BitVec.ofNat 64 ((if b.phase then 1 else 0) + b.arr.toNat * 2 + b.cnt.toNat * 64 + b.mask.toNat * 2 ^ 16)) ++
    two (BitVec.ofNat 64 (b.last.toNat * 2 ^ 48 + b.lwid.toNat * 2 ^ 32)) ++ two (b.lwait.zeroExtend 64) ++ two 0

def barOf (ws : List (RWord 32)) : Barrier :=
  let x := word64 ws 0
  let y := word64 ws 1
  { phase := x.getLsbD 0, arr := x.extractLsb' 1 5, cnt := x.extractLsb' 6 5, mask := x.extractLsb' 16 16,
    last := y.extractLsb' 48 16, lwid := y.extractLsb' 32 16, lwait := (word64 ws 2).extractLsb' 0 48 }

/-- A channel's 8 bytes: record offset and bound. -/
def chanWord (c : Option Chan) : BitVec 64 := match c with
  | some x => BitVec.ofNat 64 (x.off % 2 ^ 32 + 2 ^ 32)
  | none => 0

/-- A channel restored: what was read at CHBIND and its pointers come from the save. -/
def chanBack (x : BitVec 64) (c : Option Chan) : Option Chan :=
  if x.getLsbD 32 then c.map fun c => { c with off := fld x 31 0 } else none

/-! ## Cancelled engine operations (R286) (DESIGN CHOICE; log 10) -/

/-- The 256 bytes of a cancelled operation: its records, its index record, the operand, and its numbers and flags. -/
def opWords (o : EngOp) : List (RWord 32) :=
  let w (i : Nat) (l : List (RWord 32)) : List (RWord 32) := (List.range i).map fun j => l.getD j (zw 32)
  let bit (b : Bool) (i : Nat) : Nat := if b then 2 ^ i else 0
  let num (x : Option Nat) (i : Nat) : Nat := match x with | some k => (k % 128 + 128) * 2 ^ i | none => 0
  w 16 o.src ++ w 16 o.dst ++ w 16 (if o.kind == 0xC2 then o.dstIx else o.srcIx) ++ two o.opnd ++ two o.ia ++
    two (BitVec.ofNat 64 (o.kind.toNat + o.coll.toNat * 2 ^ 8 + o.wk % 16 * 2 ^ 12 + o.srcQ % 16 * 2 ^ 16 + o.dstQ % 16 * 2 ^ 20 +
      o.rm.toNat * 2 ^ 24 + bit o.sat 27 + bit o.arr 28 + bit o.ascl 29 + bit o.hm 30 + bit o.obj.isSome 31 + num o.ki 32 +
      num o.ko 40 + o.ident.toNat * 2 ^ 48)) ++
    two (BitVec.ofNat 64 (o.nf % 2 ^ 16 + o.firing * 2 ^ 16)) ++ two (BitVec.ofNat 64 (o.obj.getD 0)) ++
    two (BitVec.ofNat 64 o.left) ++ two 0 ++ two 0

/-- The operation restored; what the record has no place for comes from the save. -/
def opBack (ws : List (RWord 32)) (o : EngOp) : EngOp :=
  let ws := ws.map reload
  let part (i : Nat) : List (RWord 32) := (ws.drop (16 * i)).take 16
  let x := word64 ws 26
  let y := word64 ws 27
  let num (i : Nat) : Option Nat := if x.getLsbD (i + 7) then some (fld x (i + 6) i) else none
  let scat := x.extractLsb' 0 8 == 0xC2
  { o with
    src := part 0, dst := part 1, srcIx := if scat then o.srcIx else part 2, dstIx := if scat then part 2 else o.dstIx,
    opnd := word64 ws 24, ia := word64 ws 25, kind := x.extractLsb' 0 8, coll := x.extractLsb' 8 4, wk := fld x 15 12,
    srcQ := fld x 19 16, dstQ := fld x 23 20, rm := x.extractLsb' 24 3, sat := x.getLsbD 27, arr := x.getLsbD 28,
    ascl := x.getLsbD 29, hm := x.getLsbD 30, ki := num 32, ko := num 40, ident := x.extractLsb' 48 16, nf := fld y 15 0,
    firing := fld y 63 16, obj := if x.getLsbD 31 then some (word64 ws 28).toNat else none, left := (word64 ws 29).toNat }

/-! ## Waits, contest entries, matrix checks (R343, R360) (DESIGN CHOICE; log 10) -/

/-- The 16 bytes of the wait of a live path: a kind, the table index, and what it waits for. -/
def waitWords (p : Path) : List (RWord 32) :=
  let head (k x : Nat) : BitVec 64 := BitVec.ofNat 64 (k + p.idx % 8 * 16 + x * 128)
  let bit (b : Bool) (i : Nat) : Nat := if b then 2 ^ i else 0
  let (a, b) : BitVec 64 × BitVec 64 := match p.wait with
    | .sleep d => (head 1 0, d)
    | .bwait sa obj b t0 armed =>
      (head 2 obj.toNat, BitVec.ofNat 64 (t0.toNat % 2 ^ 56 + sa % 64 * 2 ^ 56 + bit b 62 + bit armed 63))
    | .chwait k n room => (head 3 (k % 32 + n % 2 ^ 16 * 32 + bit room 21), 0)
    | .cbar n phase t0 => (head 4 (n % 16 + bit phase 4), t0)
    | .cresult d => (head 5 d, 0)
    | .regroup num wm sa cnt ex => (head 6 (num.toNat + wm.toNat * 2 ^ 8 + sa % 256 * 2 ^ 24 + cnt % 2 ^ 16 * 2 ^ 32), ex)
    | .rplbegin rcb cmp => (head 7 (bit cmp 0), rcb)
    | .rplend => (head 8 0, 0)
    | .brkpt => (head 9 0, 0)
    | .none | .mtoken _ | .fence .. | .replica _ => (0, 0)
  two a ++ two b

/-- The wait that 16 bytes give back, none where they hold none; a BWAIT's t0 is the latest time before `now` that fits. -/
def waitBack (now a b : BitVec 64) : Option Wait :=
  match fld a 3 0 with
  | 1 => some (.sleep b)
  | 2 => some (.bwait (fld b 61 56) (BitVec.ofNat 64 (fld a 63 7)) (b.getLsbD 62)
      (now - BitVec.ofNat 64 ((now.toNat + 2 ^ 56 - fld b 55 0) % 2 ^ 56)) (b.getLsbD 63))
  | 3 => some (.chwait (fld a 11 7) (fld a 27 12) (a.getLsbD 28))
  | 4 => some (.cbar (fld a 10 7) (a.getLsbD 11) b)
  | 5 => some (.cresult (fld a 63 7))
  | 6 => some (.regroup (a.extractLsb' 7 8) (a.extractLsb' 15 16) (fld a 38 31) (fld a 54 39) b)
  | 7 => some (.rplbegin b (a.getLsbD 7))
  | 8 => some .rplend
  | 9 => some .brkpt
  | _ => none

/-- The wait state of a wave: its live paths that wait, at most four. -/
def waitState (w : Wave) : List (RWord 32) := ((w.paths.filter fun p => p.wait != .none).take 4).flatMap waitWords

/-- A live path with the wait that the wait state holds for it. -/
def withWait (now : BitVec 64) (ws : List (RWord 32)) (p : Path) : Path :=
  match (List.range 4).find? fun i => fld (word64 ws (2 * i)) 3 0 != 0 && fld (word64 ws (2 * i)) 6 4 == p.idx % 8 with
  | some i => { p with wait := (waitBack now (word64 ws (2 * i)) (word64 ws (2 * i + 1))).getD p.wait }
  | none => p

/-- The 32 bytes of a contest entry: identifier, state and key, not-before time, result. -/
def entryWords (k : Contest) : List (RWord 32) :=
  let st : Nat × BitVec 64 := match k.st with
    | .pending => (1, 0)
    | .inRound _ => (1, 0)
    | .closed w => (2, w)
    | .voided => (3, 0)
  two (BitVec.ofNat 64 (k.cid.toNat + st.1 * 2 ^ 8 + k.comp.toNat / 2 ^ 16 * 2 ^ 32)) ++ two k.nb ++ two st.2 ++ two 0

/-- The entry restored for wave `w` in slot `slot` under the wave's number `wk`: one whose round has not opened counts from now
(R343). -/
def entryBack (now : BitVec 64) (ws : List (RWord 32)) (w : Wave) (slot wk : Nat) (k : Contest) : Contest :=
  let a := word64 ws 0
  { k with
    slot := slot, wk := wk, cid := a.extractLsb' 0 8, comp := compound (fld a 63 32) w, nb := word64 ws 1, ret := now,
    st := match fld a 11 8 with
      | 2 => .closed (word64 ws 2)
      | 3 => .voided
      | _ => .pending }

/-- The 32 bytes of a wave's oldest pending MATRIX_CHECK. -/
def mcheckWords (l : List MCheck) : List (RWord 32) := match l with
  | [] => two 0 ++ two 0 ++ two 0 ++ two 0
  | m :: _ => two (m.tiles.zeroExtend 64) ++ two m.addr ++ two m.info ++ two (BitVec.ofNat 64 m.eid)

def mcheckBack (ws : List (RWord 32)) (l : List MCheck) : List MCheck := match l with
  | [] => []
  | _ :: l => { tiles := (word64 ws 0).extractLsb' 0 32, addr := word64 ws 1, info := word64 ws 2, eid := (word64 ws 3).toNat } :: l

/-! ## Tiles (R289, R359) -/

/-- The side byte of an element (R289). -/
def Elem.side (e : Elem) : BitVec 8 :=
  BitVec.ofNat 8 (e.res.toNat * 16 + e.spec.toNat * 4 + (if e.ovf then 2 else 0) + if e.stk then 1 else 0)

/-- The words of a tile: elements, side bytes, checksum cells, anchor. (DESIGN CHOICE; log 10) -/
def tileWords (t : Tile) : List (RWord 32) :=
  let el (k : Nat) : Elem := sget { e := 0, res := 0, spec := 0, ovf := false, stk := false } t.elems k
  let cell (c : CkCell) : List (RWord 32) := numW (c.v.toNat + c.r.toNat * 2 ^ 136 + if c.ovf then 2 ^ 140 else 0) 6
  let z : CkCell := { v := 0, r := 0, ovf := false }
  ((List.range 512).flatMap fun k => numW (el k).e.toNat 4) ++ bytesW ((List.range 512).map fun k => (el k).side) ++
    ((List.range 64).flatMap fun k => cell (sget z t.cr k)) ++ ((List.range 8).flatMap fun k => cell (sget z t.cc k)) ++
    [mkW (t.anchor.zeroExtend 32)]

/-- A tile reloaded: RES is formed anew and compared with the side byte; a cell with a word that mismatches is poison (R361). -/
def tileBack (l : List (RWord 32)) : Tile :=
  let clean (ws : List (RWord 32)) : Bool := ws.all fun w => sound w && !bad w
  let el (k : Nat) : Elem :=
    let ws := (l.drop (4 * k)).take 4
    let e := BitVec.ofNat 128 (natOf ws)
    let side := byteOf (l.drop 2048) k
    let ok := clean (l.getD (2048 + k / 4) (zw 32) :: ws) && res e.toNat == side.extractLsb' 4 4
    { e := e, res := if ok then side.extractLsb' 4 4 else 15, spec := side.extractLsb' 2 2, ovf := side.getLsbD 1, stk := side.getLsbD 0 }
  let cell (k : Nat) : CkCell :=
    let ws := (l.drop (2176 + 6 * k)).take 6
    let x := natOf ws
    { v := BitVec.ofNat 136 x, r := if clean ws then BitVec.ofNat 4 (x / 2 ^ 136) else 15, ovf := x / 2 ^ 140 % 2 == 1 }
  let z : CkCell := { v := 0, r := 0, ovf := false }
  let map {α : Type} [DecidableEq α] (d : α) (n : Nat) (f : Nat → α) : SMap α := (List.range n).foldl (fun m k => sset d m k (f k)) []
  { anchor := (l.getD 2608 (zw 32)).v.extractLsb' 0 8,
    elems := map { e := 0, res := 0, spec := 0, ovf := false, stk := false } 512 el,
    cr := map z 64 cell, cc := map z 8 fun k => cell (64 + k) }

/-! ## Wave blocks (R359) -/

/-- The other half-wave of a legacy slot (R66). -/
def mate (ws : SMap Wave) (w : Wave) : Option Wave :=
  if w.w32 then (ws.find? fun x => x.2.slot == w.slot && x.2.half != w.half).map (·.2) else none

/-- The waves whose V data and tiles stand in the block of wave `w`: those of a legacy slot stand in the block of its lower
WID. -/
def housed (ws : SMap Wave) (w : Wave) : List Wave := if w.w32 && w.half then [] else w :: (mate ws w).toList

/-- Bytes of a wave block: the slot's V allotment counts once, the tiles of both half-waves stand behind it.
(DESIGN CHOICE; log 10) -/
def blockSize (ws : SMap Wave) (w : Wave) : Nat :=
  16384 + (if (housed ws w).isEmpty then 0 else 2048 * w.vregs) + 12288 * ((housed ws w).map (·.acc)).sum

/-- The wave block of each wave of a crew, by WID. -/
def waveBlocks (c : Crew) (ws : SMap Wave) (base : Nat) : List (Nat × Nat) :=
  (ws.foldl (fun (acc : List (Nat × Nat) × Nat) x => ((x.1, acc.2) :: acc.1, acc.2 + blockSize ws x.2)) ([], base + 0x5000 + c.scrSize)).1

/-- The special registers of a wave block in their order. -/
def Wave.specials (w : Wave) : List (BitVec 64) :=
  [w.chkctl, w.inj, w.tcause, w.tia, w.tlanes, w.tpath, w.taddr, w.tinfo, w.tvec] ++ (List.range 4).map (sget 0 w.tscr) ++
    [w.tokwait.zeroExtend 64, w.rpl ++ w.corr, BitVec.ofNat 64 (w.prio.toNat * 2 + if w.hmode then 1 else 0)]

def Wave.withSpecials (w : Wave) (ws : List (RWord 32)) : Wave :=
  let x (i : Nat) : BitVec 64 := word64 ws i
  { w with
    chkctl := x 0, inj := x 1, tcause := x 2, tia := x 3, tlanes := x 4, tpath := x 5, taddr := x 6, tinfo := x 7, tvec := x 8,
    tscr := (List.range 4).foldl (fun m i => sset 0 m i (x (9 + i))) [], tokwait := (x 13).extractLsb' 0 32,
    corr := (x 14).extractLsb' 0 32, rpl := (x 14).extractLsb' 32 32, hmode := (x 15).getLsbD 0, prio := (x 15).extractLsb' 1 2 }

/-- The return records of a wave in its pool, as R137 lays out a slot. -/
def poolWords (w : Wave) : List (RWord 32) :=
  ((w.paths ++ w.spilled).flatMap fun p => p.recs.filter fun r => r.spill.isNone).flatMap fun r =>
    two r.addr ++ two (BitVec.ofNat 64 (r.ldep.toNat + 255 * 256))

/-- Return records restored from the pool's words, the first of them from slot `n` on. -/
def recsBack (ws : List (RWord 32)) : Nat → List RetRec → List RetRec
  | _, [] => []
  | n, r :: l =>
    if r.spill.isSome then r :: recsBack ws n l
    else { r with addr := word64 ws (2 * n), ldep := (word64 ws (2 * n + 1)).extractLsb' 0 3 } :: recsBack ws (n + 1) l

def poolBack (ws : List (RWord 32)) : Nat → List Path → List Path
  | _, [] => []
  | n, p :: l =>
    { p with recs := recsBack ws n p.recs } :: poolBack ws (n + (p.recs.filter fun r => r.spill.isNone).length) l

/-- V register `k / 64`, lane `k % 64`, of the slot of wave `w`. -/
def slotV (ws : SMap Wave) (w : Wave) (k : Nat) : RWord 32 :=
  if w.w32 && 32 ≤ k % 64 then ((mate ws w).map fun m => sget (zw 32) m.v k).getD (zw 32) else sget (zw 32) w.v k

/-- The parts of a wave block: offset and words (R359). (DESIGN CHOICE; log 10) -/
def waveParts (ws : SMap Wave) (w : Wave) (k : Option Contest) : List (Nat × List (RWord 32)) :=
  let gen (L : Nat) : RWord 32 := sget (mkW (BitVec.ofNat 32 (L + 1))) w.gen L
  let entry (i : Nat) : List (RWord 32) := match w.paths.find? fun p => p.idx % 8 == i with
    | some p => (spillWords p).flatMap two
    | none => numW 0 64
  let data (l : List Wave) : List (Nat × List (RWord 32)) := match l with
    | [] => []
    | _ => (0x4000, (List.range (512 * w.vregs)).map (slotV ws w)) ::
        ((l.flatMap fun x => (List.range x.acc).map x.tile).foldl (fun (acc : List (Nat × List (RWord 32))) t =>
          (0x4000 + 2048 * w.vregs + 12288 * acc.length, tileWords t) :: acc) []).reverse
  (List.range 8).map (fun i => (256 * i, entry i)) ++
  [(0x1800, (List.range 48).flatMap fun i => pairW (sget (zw 64) w.sreg (16 + i))),
   (0x1980, (List.range 15).flatMap fun i => pairW (sget (zw 64) w.p i)),
   (0x1A00, ((List.range 4).flatMap fun n => (List.range 8).map (w.level n).word) ++ two (BitVec.ofNat 64 w.d)),
   (0x1A88, poolWords w),
   (0x1C00, (List.range 256).map (sget (zw 32) w.q)),
   (0x2000, (List.range 64).map gen),
   (0x2100, w.specials.flatMap two),
   (0x2200, waitState w ++ numW 0 (16 - (waitState w).length)),
   (0x2240, match k with | some k => entryWords k | none => numW 0 8),
   (0x2260, mcheckWords w.mcheck),
   (0x2300, bytesW ((List.range 64).map fun L => BitVec.ofNat 8 (w.lidOf L))),
   (0x2340, two (w.stkidx.zeroExtend 64))] ++ data (housed ws w)

/-- The wave's path-spill page, where it is mapped: read or written as any access to it (R205, R248). -/
def spillPhys (s : State) (w : Wave) (nd : Need) : State × Option (Nat × MemAt) :=
  match translate s w.die w.pasid (BitVec.ofNat 64 (spillPage s w)) nd true 60000 with
  | (s, .ok x) => (s, some (x.pa, memAt w.die x.pa x.leaf))
  | (s, .error _) => (s, none)

/-- Write a wave block. (DESIGN CHOICE; log 10) -/
def saveWave (s : State) (core blk : Nat) (ws : SMap Wave) (w : Wave) (k : Option Contest) : State :=
  let s := match spillPhys s w { r := true } with
    | (s, some (pa, _)) => s.copyPage { agentOf s 0 w 0 with core := core } pa (blk + 0x800)
    | (s, none) => s
  (waveParts ws w k).foldl (fun s x => s.devWrite (blk + x.1) x.2) s

/-! ## The record (R359) -/

/-- Save record `n` of a context: 4 MiB each from PSAVE's BASE (R358). -/
def recBase (s : State) (pasid n : Nat) : Nat := fld (s.ctxReg pasid 0x151) 63 22 * 2 ^ 22 + 2 ^ 22 * n

/-- Write the save record of a crew whose waves are `ws` (R359). (DESIGN CHOICE; log 10) -/
def saveRecord (s : State) (c : Crew) (ws : SMap Wave) (n : Nat) : State :=
  let base := recBase s c.pasid n
  let core := 48 * c.die + c.core
  let w1 := BitVec.ofNat 64 (c.carav.toNat + c.idx.toNat * 2 ^ 32 + c.die * 2 ^ 48 + c.nwaves * 2 ^ 51 +
    c.savedOps.length * 2 ^ 56 + if c.idem then 2 ^ 63 else 0)
  let s := s.devWrite base (two c.code ++ two w1 ++ two c.cwdog)
  let s := s.devWrite (base + 0x100) ((List.range 16).flatMap fun n => barWords (c.bar n))
  let s := s.devWrite (base + 0x300) ((List.range 32).flatMap fun k => two (chanWord (slook c.chans k)))
  let s := s.devWrite (base + 0x400) (two (c.engErr.zeroExtend 64))
  let s := s.devWrite (base + 0x1000) (c.savedOps.flatMap opWords)
  let s := (List.range (c.scrSize / 64)).foldl (fun s i =>
    { s.touch (base + 0x5000 + 64 * i) with ms := { s.ms with phys := s.ms.phys.putBlk (base / 64 + 0x140 + i) (c.scr.blk i) } }) s
  (waveBlocks c ws base).foldl (fun s x => match slook ws x.1 with
    | some w => saveWave s core x.2 ws w (s.contests.find? fun k => k.wk == savedKey c.h x.1)
    | none => s) s

/-- The words of a part of a record. -/
def recWords (s : State) (pa n : Nat) : List (RWord 32) := s.ms.phys.words (pa / 4) n

/-- A wave reloaded from its block at `blk`, its V data and tiles from the block at `data`, behind `skip` tiles; what a block does
not hold comes from the save. (DESIGN CHOICE; log 10) -/
def waveBack (s : State) (blk data skip : Nat) (w : Wave) : Wave :=
  let r (o n : Nat) : List (RWord 32) := recWords s (blk + o) n
  let lv := r 0x1A00 32
  let level (n : Nat) : LoopLevel :=
    let ws := ((lv.drop (8 * n)).take 8).map reload
    { bits := BitVec.ofNat 256 (natOf ws), rs := (List.range 8).foldl (fun a j => setFld a (4 * j + 3) (4 * j) ((ws.getD j (zw 32)).r.toNat)) 0 }
  let path (p : Path) : Path := withWait s.ptime (r 0x2200 16) (unspillWords p (r (256 * (p.idx % 8)) 64))
  let all := poolBack (r 0x1A88 64) 0 (w.paths.map path ++ w.spilled)
  let mine (k : Nat) : Bool := !w.w32 || (32 ≤ k % 64) == w.half
  let lids := r 0x2300 16
  { w.withSpecials (r 0x2100 32) with
    latch := [], paths := all.take w.paths.length, spilled := all.drop w.paths.length,
    sreg := regsMap 16 (r 0x1800 96), p := regsMap 0 (r 0x1980 30),
    lc := (List.range 4).foldl (fun m n => sset levelZero m n (level n)) [], d := (word64 (r 0x1A80 2) 0).toNat,
    q := wordsMap (fun _ => zw 32) 0 (r 0x1C00 256), gen := wordsMap (fun L => mkW (BitVec.ofNat 32 (L + 1))) 0 (r 0x2000 64),
    mcheck := mcheckBack (r 0x2260 8) w.mcheck,
    lid := (List.range 64).foldl (fun m L => sset (BitVec.ofNat 6 (if w.w32 then L % 32 else L)) m L ((byteOf lids L).extractLsb' 0 6)) [],
    stkidx := (word64 (r 0x2340 2) 0).extractLsb' 0 32,
    v := (wordsMap (fun _ => zw 32) 0 (recWords s (data + 0x4000) (512 * w.vregs))).filter fun x => mine x.1,
    tiles := (List.range w.acc).foldl (fun m n =>
      sset tileZero m n (tileBack (recWords s (data + 0x4000 + 2048 * w.vregs + 12288 * (skip + n)) 2609))) [] }

/-- The crew reloaded but for its waves and operations. (DESIGN CHOICE; log 10) -/
def crewBack (s : State) (base : Nat) (c : Crew) : Crew :=
  let ks := recWords s (base + 0x300) 64
  { c with
    code := word64 (recWords s base 6) 0, idem := (word64 (recWords s base 6) 1).getLsbD 63, cwdog := word64 (recWords s base 6) 2,
    bars := (List.range 16).foldl (fun m n => sset barZero m n (barOf (recWords s (base + 0x100 + 32 * n) 8))) [],
    chans := c.chans.filterMap fun x => (chanBack (word64 ks x.1) (some x.2)).map fun y => (x.1, y),
    engErr := (word64 (recWords s (base + 0x400) 2) 0).extractLsb' 0 8,
    scr := (List.range (c.scrSize / 64)).foldl (fun m i =>
      let b := s.ms.phys.blk (base / 64 + 0x140 + i)
      m.putBlk i (blkOf ((List.range 16).map fun j => reload (b.word j)) b.pair)) Mem.empty }

/-- Its cancelled operations reloaded (R286). (DESIGN CHOICE; log 10) -/
def opsBack (s : State) (base : Nat) (l : List EngOp) : List EngOp :=
  ((List.range l.length).zip l).map fun x => opBack (recWords s (base + 0x1000 + 256 * x.1) 64) x.2

end Sys2Proof.Machine
end

