-- ==== Sys2Proof/Machine/Preempt.lean ====
section
/-!
DEFINITION. Page responses, park limits, watchdogs, and taking crews off their cores: requeue, save and restore (R255,
R256, R286, R308, R343, R353 to R362, R366, R393).
-/
namespace Sys2Proof.Machine

/-! ## Responses to page requests (R255, R256) -/

def State.parkAt (s : State) (fn idx : Nat) : Option Park := s.parks.find? fun k => k.fn == fn && k.idx == some idx

def State.dropPark (s : State) (h : Nat) : State := { s with parks := s.parks.filter fun k => k.h != h }

/-- A page of the command processor has come: what waited for it goes on, at once where no event makes the access again. -/
def cpServed (s : State) (fn : Nat) : CpWhat → State
  | .rcompl route => s.endReplay fn route
  | _ => s

/-- An access of the command processor is denied: what it was for fails (R68, R79). -/
def cpDeny (s : State) (fn : Nat) : CpWhat → State
  | .cons h => match s.consOf h with
    | some k => failCons s k lCodeFault
    | none => s
  | .node route node =>
    match s.route fn route with
    | none => s
    | some r => match r.cur with
      | none => s
      | some rp =>
        let s := s.launchError fn lCodeFault route rp.seq node
        (s.putRoute { r with cur := some { rp with ready := rp.ready.erase node, begins := rp.begins + 1, failed := true } }).endReplay
          fn route
  | .reg route => regFail s fn route
  | .compl h => match s.consOf h with
    | some k => consOver s k false
    | none => s
  | .rcompl route => s.replayOver fn route false
  | .kick h => match s.tries.find? fun k => k.h == h with
    | some k => s.kickMiss k
    | none => s

/-- A spilled path of a park goes on; it returns to the table at once where an entry is free (R205, R352). -/
def unparkSpilled (s : State) (k : Park) (wk : Nat) (w : Wave) (q : Path) : State :=
  let q' := { q with st := PState.running, park := none }
  let w := { w with spilled := lmod w.spilled (fun x => x.eid == q.eid) fun _ => q' }
  let s := ((s.dropPark k.h).trace w.pasid w.coreN (some (w, q')) 6 (k.idx.getD 0) q'.pia).putWave wk w
  match refill s wk w q.eid 8 with
  | (s, .ok w) => s.putWave wk w
  | (s, .error e) => s.owing wk e

/-- The path of a park goes on at its instruction, as `next` says where it stands in the table (R256). -/
def unpark (s : State) (k : Park) (wk eid : Nat) (next : Th → State) : State :=
  match s.view wk eid with
  | none => match s.wave wk with
    | none => s.dropPark k.h
    | some w => match w.spilled.find? fun q => q.eid == eid with
      | none => s.dropPark k.h
      | some q => unparkSpilled s k wk w q
  | some t =>
    let t : Th := { t with s := s.dropPark k.h, p := { t.p with st := .running, park := none } }
    next (t.trace 6 (k.idx.getD 0) t.p.pia)

/-- Is a response to the park consumed without effect: its path is gone, or its crew is being saved (R353, R358)? -/
def Park.void (s : State) (k : Park) : Bool := k.dead || ((s.crew k.crew).map (·.st == CrewState.saving)).getD false

/-- PRG_RESPONSE_SUCCESS (R256): the access is made again. -/
def execPrgResponseSuccess (fn idx : Nat) (s : State) : Host.Outcome State Fault Refusal :=
  answer (match s.parkAt fn idx with
    | none => s
    | some k =>
      if k.void s then s.dropPark k.h
      else if k.denied then s
      else match k.who with
        | .path wk eid => unpark s k wk eid Th.commit
        | .op h => { s.dropPark k.h with ops := lmod s.ops (fun o => o.h == h) fun o => { o with stall := none } }
        | .cp x => cpServed (s.dropPark k.h) k.fn x)

/-- Deliver a response that was no success (R256): a path enters the handler with its cause, unless it is spilled or another path
of its wave is in it; then it waits for its return to the table, or for that path's return. (DEDUCED; log 47) -/
def deny (s : State) (k : Park) : State :=
  let later : State := { s with parks := lmod s.parks (fun x => x.h == k.h) fun x => { x with denied := true } }
  if k.void s then s.dropPark k.h
  else match k.who with
    | .path wk eid =>
      match s.view wk eid with
      | none => if (s.wave wk).any fun w => w.spilled.any fun q => q.eid == eid then later else s.dropPark k.h
      | some t =>
        if t.w.hmode && t.w.hpath != eid then later
        else unpark s k wk eid fun t =>
          enterTrap t { cause := k.cause.toNat, lanes := k.lanes, addr := k.addr, info := k.cinfo.toNat }
    | .op h => match s.ops.find? fun o => o.h == h with
      | some o => (s.dropPark k.h).stopOp o eFault
      | none => s.dropPark k.h
    | .cp x => cpDeny (s.dropPark k.h) k.fn x

/-- PRG_RESPONSE_INVALID (R256). (DEDUCED; log 47) -/
def execPrgResponseInvalid (fn idx : Nat) (s : State) : Host.Outcome State Fault Refusal :=
  answer (match s.parkAt fn idx with
    | none => s
    | some k => deny s k)

/-- PRG_RESPONSE_FAILURE (R256): every park of the function is denied, and no request is sent any more. -/
def execPrgResponseFailure (fn idx : Nat) (s : State) : Host.Outcome State Fault Refusal :=
  answer (match s.parkAt fn idx with
    | none => s
    | some _ =>
      let s := s.putFn fn { s.fn fn with prStop := true }
      (s.parks.filter fun k => k.fn == fn).foldl deny s)

/-- PAGE_REQUEST_DEFERRED (R255): a park that found no free index sends its requests now. (DESIGN CHOICE; log 9) -/
def execPageRequestDeferred (fn : Nat) (s : State) : Host.Outcome State Fault Refusal :=
  answer (match s.parks.find? (fun k => k.fn == fn && k.idx.isNone && !k.dead && !k.denied), freePark s fn with
    | some k, some i =>
      let k := { k with idx := some i }
      ({ s with parks := lmod s.parks (fun x => x.h == k.h) fun _ => k }).sendPark k
    | _, _ => s)

/-! ## Idempotent abort and requeue (R353 to R355) -/

/-- A parked path of the crew, live or spilled, with its wave. -/
def parkedPath (s : State) (h : Nat) : Option (Wave × Park) :=
  (s.waves.filter fun x => x.2.crew == h).findSome? fun x =>
    (((x.2.paths ++ x.2.spilled).find? fun p => p.st == .parked).bind fun p => p.park).bind fun k =>
      (s.parks.find? fun y => y.h == k).map fun y => (x.2, y)

/-- The first wave of a crew, whose trap records stand for the crew's. (DEDUCED; log 46) -/
def leadWave (s : State) (h : Nat) : Option Wave := ((s.waves.filter fun x => x.2.crew == h).map (·.2)).head?

/-- The crew is aborted and requeued (R354, R355): its record names the cause of its park. (DEDUCED; log 46) -/
def requeue (s : State) (h : Nat) : State :=
  match s.crew h with
  | none => s
  | some c =>
    let x := parkedPath s h
    let w := (x.map (·.1)).orElse fun _ => leadWave s h
    let cause := (x.map (·.2.cause.toNat)).getD 0
    let s := s.cancelCrew c
    let s := s.logError c.fn (crewLog s c 1 cause ((w.map trapRecs).getD []) 0)
    (s.vacate h).putCrew { c with
      st := .requeued, requeues := c.requeues + 1, scr := Mem.empty, bars := [], chans := [], engErr := 0, region := none,
      logged := [], recNo := none }

/-- PARKLIM_EXPIRY (R354). -/
def execParklimExpiry (wk eid : Nat) (s : State) : Host.Outcome State Fault Refusal :=
  answer (match s.wave wk with
    | none => s
    | some w => match s.crew w.crew, (w.paths ++ w.spilled).find? fun p => p.eid == eid && p.st == .parked with
      | some c, some p => match p.park.bind fun h => s.parks.find? fun k => k.h == h with
        | some k =>
          let lim := fld (s.ctxReg w.pasid 0x132) 31 0 * 1000
          if c.idem && c.st == .resident && lim != 0 && c.requeues < 4 && lim ≤ (s.ptime - k.t0).toNat then requeue s c.h else s
        | none => s
      | _, _ => s)

/-- CREW_REQUEUE_PLACE (R355): an eligible crew is reserved on its die and starts anew. -/
def execCrewRequeuePlace (crew : Nat) (s : State) : Host.Outcome State Fault Refusal :=
  answer (match s.crew crew with
    | none => s
    | some c =>
      if !c.eligible s || !c.mayReturn s then s
      else match crewSpot s c with
        | some (p, x) => s.placeAt c p x (startTick s)
        | none => s)

/-! ## Watchdogs (R356) -/

/-- Has the wave's measure reached WLIM µs (R356)? -/
def waveLate (s : State) (w : Wave) : Bool :=
  let lim := fld (s.ctxReg w.pasid 0x152) 31 0 * 1000
  lim != 0 && !w.ended && ((s.crew w.crew).map (·.st == CrewState.resident)).getD false && w.wdog.toNat + lim ≤ s.ptime.toNat

/-- Is every unended path of the wave parked (R356)? -/
def Wave.idle (w : Wave) : Bool :=
  let l := (w.paths ++ w.spilled).filter fun p => p.st != .join
  !l.isEmpty && l.all fun p => p.st == .parked

/-- Is the wave held by a debugger: one of its paths is, and no path that is not waits for nothing but that (R366)?
(DEDUCED; log 46) -/
def Wave.held (w : Wave) : Bool :=
  let l := (w.paths ++ w.spilled).filter fun p => p.st != .join
  l.any (·.held.isSome) && l.all fun p => p.held.isSome || p.st != .running

/-- Time `dt` that does not count passes: the measure of a wave that is all parked or held stops, and so do the measures and the
park times of a crew that is being saved (R356, R358, R366). -/
def State.uncounted (s : State) (dt : BitVec 64) : State :=
  let saving (h : Nat) : Bool := ((s.crew h).map (·.st == CrewState.saving)).getD false
  let still (w : Wave) : Bool := w.idle || w.held || saving w.crew
  { s with
    waves := s.waves.map fun x => if still x.2 then (x.1, { x.2 with wdog := x.2.wdog + dt }) else x,
    crews := lmod s.crews (fun c => c.st == .saving) fun c => { c with cwdog := c.cwdog + dt },
    parks := lmod s.parks (fun k => saving k.crew) fun k => { k with t0 := k.t0 + dt } }

/-- WAVE_WATCHDOG_EXPIRY (R356). -/
def execWaveWatchdogExpiry (wk : Nat) (s : State) : Host.Outcome State Fault Refusal :=
  answer (match s.wave wk with
    | none => s
    | some w =>
      if waveLate s w then (s.freezeCtx w.pasid 3).abortCrew w.crew cWatchdog (trapRecs w) else s)

/-- CREW_WATCHDOG_EXPIRY (R356): with CARV every crew of the caravan is aborted. (DEDUCED; log 46) -/
def execCrewWatchdogExpiry (crew : Nat) (s : State) : Host.Outcome State Fault Refusal :=
  answer (match s.crew crew with
    | none => s
    | some c =>
      let r := s.ctxReg c.pasid 0x152
      let lim := fld r 62 32 * 1000
      if c.st != .resident || lim = 0 || s.ptime.toNat < c.cwdog.toNat + lim then s
      else
        let s := s.freezeCtx c.pasid 3
        let all := if r.getLsbD 63 then (s.crews.filter fun x => x.cav == c.cav && x.st != .ended).map (·.h) else [crew]
        all.foldl (fun s h => s.abortCrew h cWatchdog (((leadWave s h).map trapRecs).getD [])) s)

/-! ## Selection for pre-emption (R357) -/

/-- The first free save record of a context (R358). -/
def freeRecord (s : State) (pasid : Nat) : Option Nat :=
  (List.range (fld (s.ctxReg pasid 0x151) 11 0)).find? fun n => !(s.crews.any fun c => c.pasid == pasid && c.recNo == some n)

/-- Is a record free for a further crew of the context: more are free than its crews that are being saved will take (R357)? -/
def recordLeft (s : State) (pasid : Nat) : Bool :=
  let used := (s.crews.filter fun c => c.pasid == pasid && (c.recNo.isSome || c.st == .saving)).length
  (freeRecord s pasid).isSome && used < fld (s.ctxReg pasid 0x151) 11 0

/-- Treat a selected crew (R357): abort and requeue it, start its save, or leave it. -/
def selectCrew (s : State) (h : Nat) : State :=
  match s.crew h with
  | none => s
  | some c =>
    if c.st != .resident then s
    else if c.idem && ((parkedPath s h).isSome || !recordLeft s c.pasid) then requeue s h
    else if recordLeft s c.pasid then s.putCrew { c with st := .saving } else s

/-- What is in use of a core once the crews that are being saved have gone. -/
def useAfter (s : State) (n : Nat) : CoreUse :=
  let gone := (s.crews.filter fun c => c.st == .saving).map (·.h)
  coreUse { s with waves := s.waves.filter (fun x => !gone.contains x.2.crew), crews := s.crews.filter fun c => c.st != .saving } n

/-- The crew that a held caravan takes the place of next: the youngest of lower priority on its usable dies that can be
pre-empted (R357). (DEDUCED; log 45) -/
def victim (s : State) (k : Cons) : Option Nat :=
  let dies := usable s k.fn k.packet
  let low (c : Crew) : Bool := match s.consOf c.cons with | some x => x.pri < k.pri | none => false
  let can (c : Crew) : Bool := c.idem || recordLeft s c.pasid
  ((s.crews.filter fun c => c.st == .resident && dies.contains c.die && low c && can c).map (·.h)).foldl (fun (m : Option Nat) h =>
    match m with
    | none => some h
    | some x => some (max x h)) none

/-- HOLD_PREEMPT (R357): a caravan held for a further 50,000 ns takes one crew off, if it does not fit without. -/
def execHoldPreempt (cav : Nat) (s : State) : Host.Outcome State Fault Refusal :=
  answer (match s.cavs.find? fun v => v.h == cav with
    | none => s
    | some v => match v.held, s.consOf v.cons with
      | some t, some k =>
        let dies := usable s k.fn k.packet
        let fits := !dies.isEmpty && (placeCrews (launchSpec k.hdr) dies (useAfter s) k.crews 0 []).isSome
        if v.st == CavState.queued && 50000 ≤ (s.ptime - t).toNat && !fits then
          match victim s k with
          | some h => selectCrew s h
          | none => s
        else s
      | _, _ => s)

/-! ## Pre-emption commands and releases (R366, R393) -/

/-- Is a crew one that the pre-emption command of its function names? -/
def named (s : State) (c : Crew) : Bool :=
  let r := s.fnReg c.fn 0x40
  match fld r 63 62 with
  | 1 => c.pasid == fld r 19 0
  | 2 => match s.consOf c.cons with
    | some k => k.route == fld r 61 52 && k.node == fld r 51 40
    | none => false
  | _ => false

/-- BUSY falls once no named crew is being saved. (DEDUCED; log 56) -/
def State.settleCmd (s : State) (fn : Nat) : State :=
  let r := s.fnReg fn 0x40
  if r.getLsbD 20 && !(s.crews.any fun c => c.fn == fn && c.st == .saving && named s c) then s.setFnReg fn 0x40 (setBit r 20 false)
  else s

/-- PRECMD_CONTEXT (R393): every crew of the context is selected. -/
def execPrecmdContext (fn pasid : Nat) (s : State) : Host.Outcome State Fault Refusal :=
  answer (((s.crews.filter fun c => c.fn == fn && c.pasid == pasid).foldl (fun s c => selectCrew s c.h) s).settleCmd fn)

/-- PRECMD_CONSIGNMENT (R393): every crew of the node's consignments is selected. -/
def execPrecmdConsignment (fn route node : Nat) (s : State) : Host.Outcome State Fault Refusal :=
  let mine (c : Crew) : Bool := match s.consOf c.cons with
    | some k => k.fn == fn && k.route == route && k.node == node
    | none => false
  answer (((s.crews.filter mine).foldl (fun s c => selectCrew s c.h) s).settleCmd fn)

/-- Release the held paths of a wave that `q` names, live or spilled (R366). -/
def release (q : Path → Bool) (w : Wave) : Wave :=
  let free (l : List Path) : List Path := lmod l q fun p => { p with held := none }
  { w with paths := free w.paths, spilled := free w.spilled }

/-- BPREL (R366, R393): the host releases one held path, or every held path of the context. -/
def execBprel (fn : Nat) (value : BitVec 64) (s : State) : Host.Outcome State Fault Refusal :=
  let all := value.getLsbD 39
  let q (w : Wave) (p : Path) : Bool :=
    all || (identOf w == value.extractLsb' 20 16 && p.idx == fld value 38 36 && w.paths.any fun r => r.eid == p.eid)
  let mine (w : Wave) : Bool := w.pasid == fld value 19 0 && s.fnOfDie w.die == fn
  answer { s with waves := s.waves.map fun x => if mine x.2 then (x.1, release (q x.2) x.2) else x }

/-! ## Saving (R358) -/

/-- A path as it stands once the crew is saved (R358, R360): a parked one is unparked; what is not issued is issued again. -/
def savedPath (p : Path) : Path :=
  let wait := match p.wait with
    | .mtoken _ => Wait.none
    | .fence .. => .none
    | .replica _ => .none
    | w => w
  { p with
    st := if p.st == .parked then .running else p.st, park := none, wait := wait, line := none, tokWait := false, yielded := false }

/-- The wave as saved: the watchdog's measure in place of its time. -/
def savedWave (s : State) (w : Wave) : Wave :=
  { w with paths := w.paths.map savedPath, spilled := w.spilled.map savedPath, wdog := s.ptime - w.wdog }

/-- The stores that paths of the crew have observed. -/
def State.crewObs (s : State) (h : Nat) : List Nat :=
  (s.waves.filter fun x => x.2.crew == h).flatMap fun x => (x.2.paths ++ x.2.spilled).flatMap (·.obs)

/-- Has everything of the crew drained that is not cancelled (R286, R308, R343, R358)? -/
def drained (s : State) (c : Crew) : Bool :=
  let mine (wk : Nat) : Bool := match s.wave wk with | some w => w.crew == c.h | none => false
  let seen := s.crewObs c.h
  (s.ms.stores.all fun p => (p.crew != c.h && !seen.contains p.sid) || p.performedFor c.die) && !(s.passes.any fun p => mine p.wk) &&
    !(s.contests.any fun k => mine k.wk && k.open) &&
    s.ops.all fun o => o.crew != c.h || (!o.isColl && (o.bound || o.stall.isSome) && o.counts.isEmpty && !o.landed && o.stop.isNone)

/-- CREW_SAVE (R358): once it has drained, the crew's record is written and its resources are released; an abort that waited for
this takes effect (R362). -/
def saveCrew (s : State) (c : Crew) (n : Nat) : State :=
  let mine := s.waves.filter fun x => x.2.crew == c.h
  let ws := mine.foldl (fun m x => sput m x.2.wid (savedWave s x.2)) ([] : SMap Wave)
  let widOf (wk : Nat) : Nat := (((mine.find? fun x => x.1 == wk)).map (·.2.wid)).getD 0
  let isMine (wk : Nat) : Bool := mine.any fun x => x.1 == wk
  let ops := (s.ops.filter fun o => o.crew == c.h).map fun o => { o with wk := widOf o.wk, stall := none }
  let c := { c with st := .saved, saved := ws, savedOps := ops, cwdog := s.ptime - c.cwdog, recNo := some n }
  let s := { s with
    ops := s.ops.filter fun o => o.crew != c.h,
    contests := lmod s.contests (fun k => isMine k.wk) fun k =>
      { k with slot := savedKey c.h (widOf k.wk), wk := savedKey c.h (widOf k.wk) },
    parks := (s.parks.filter fun k => !(k.crew == c.h && k.idx.isNone)).map fun k =>
      if k.crew == c.h then { k with dead := true } else k }
  let s := saveRecord s c ws n
  (((s.vacate c.h).putCrew c).settleCmd c.fn).dueAbort c.h

/-- CREW_SAVE (R358): the record is the first that is free once the crew has drained. -/
def execCrewSave (crew : Nat) (s : State) : Host.Outcome State Fault Refusal :=
  answer (match s.crew crew with
    | none => s
    | some c => match freeRecord s c.pasid with
      | some n => if c.st == .saving && drained s c then saveCrew s c n else s
      | none => s)

/-! ## Restoring (R361) -/

/-- The slot that each WID of a crew takes: the units of the crew in their new slots. -/
def widSlots (p : Spec) (x : Spot1) : List (Nat × Nat × Bool) :=
  (p.units.zip x.slots).flatMap fun y =>
    (y.1.wid, y.2, false) :: if y.1.two then [(y.1.wid + 1, y.2, true)] else []

/-- Put one saved wave back at its new place, from its block and the one that holds its V data (R359, R361). -/
def restoreWave (s : State) (c : Crew) (blockOf : Nat → Nat) (y : Nat × Nat × Bool) : State :=
  match slook c.saved y.1 with
  | none => s
  | some w =>
    let key := 2 * (3072 * c.die + 64 * c.core + y.2.1) + (if y.2.2 then 1 else 0)
    let (data, skip) : Nat × Nat := match (if w.half then mate c.saved w else none) with
      | some m => (blockOf m.wid, m.acc)
      | none => (blockOf y.1, 0)
    let w := { waveBack s (blockOf y.1) data skip w with die := c.die, core := c.core, slot := y.2.1, half := y.2.2 }
    let s := match spillPhys s w { w := true } with
      | (s, some (pa, m)) => s.copyOver (agentOf s key w 0) (blockOf y.1 + 0x800) pa m
      | (s, none) => s
    let entry := recWords s (blockOf y.1 + 0x2240) 8
    { s.putWave key w with
      contests := lmod s.contests (fun k => k.wk == savedKey c.h y.1) (entryBack s.ptime entry w w.pslot key) }

/-- CREW_RESTORE (R361): the crew is placed on its die, its record is read back, its operations are accepted again, and
it starts at its tick. -/
def restoreCrew (s : State) (c : Crew) (n : Nat) (p : Spec) (x : Spot1) : State :=
  let base := recBase s c.pasid n
  let c := { crewBack s base c with die := x.core / 48, core := x.core % 48 }
  let blocks := waveBlocks c c.saved base
  let ws := widSlots p x
  let s := ws.foldl (restoreWave · c fun wid => ((blocks.find? fun b => b.1 == wid).map (·.2)).getD base) s
  let keyOf (wid : Nat) : Nat := match ws.find? fun y => y.1 == wid with
    | some y => 2 * (3072 * c.die + 64 * c.core + y.2.1) + (if y.2.2 then 1 else 0)
    | none => 0
  let again (o : EngOp) : EngOp :=
    { o with core := x.core, wk := keyOf o.wk, ident := match s.wave (keyOf o.wk) with | some w => identOf w ||| 1 | none => o.ident }
  let ops := (opsBack s base c.savedOps).map again
  let c := { c with saved := [], savedOps := [], st := .restoring, start := startTick s, recNo := none }
  { s.putCrew c with ops := s.ops ++ ops }

/-- CREW_RESTORE (R361). -/
def execCrewRestore (crew : Nat) (s : State) : Host.Outcome State Fault Refusal :=
  answer (match s.crew crew with
    | none => s
    | some c => match c.recNo with
      | some n =>
        if c.st != .saved || !c.mayReturn s || (s.crews.any fun x => x.die == c.die && x.eligible s && x.mayReturn s && (crewSpot s x).isSome) then s
        else match crewSpot s c with
          | some (p, x) => restoreCrew s c n p x
          | none => s
      | none => s)

end Sys2Proof.Machine
end

