-- ==== Sys2Proof/Machine/Reliab.lean ====
section
/-!
DEFINITION. Errors in memory, the lehr, lifetime histograms, links and their routes, and partial resets (R9, R11, R257,
R323, R324, R344, R362, R377 to R390).
-/
namespace Sys2Proof.Machine

/-! ## Sectors of HBM (R257, R377, R378) -/

/-- Is the block in device HBM? -/
def inHbm (blk : Nat) : Bool := physOk (64 * blk) && !isHost (64 * blk)

/-- Set the poison bit of a 4 KiB page (R257). -/
def State.poisonPage (s : State) (page : Nat) : State :=
  let set (t : Tlb) : Tlb :=
    let f := leafFrame t.leaf / 4096
    if f ≤ page && page < f + 2 ^ t.bits / 4096 then { t with pbits := ninsert t.pbits page } else t
  { s with ms := { s.ms with pbits := ninsert s.ms.pbits page, tlb := s.ms.tlb.map set } }

/-- The sector is written with its marker: every word of it is poison, and the page bit is set (R257). -/
def State.poisonSector (s : State) (blk : Nat) : State :=
  let s := s.poisonPage (blk / 64)
  let b := s.ms.phys.blk blk
  { s with ms := { s.ms with phys := (s.ms.phys.putBlk blk { b with rs := 0xFFFFFFFFFFFFFFFF }).mark blk true } }

/-- An uncorrectable reliability event of die `die` at address `a` (R377, R396). (DESIGN CHOICE; log 11) -/
def State.logUncorrectable (s : State) (die a : Nat) : State :=
  s.logError (s.fnOfDie die) { cls := 3, code := 1, die := die, w9 := BitVec.ofNat 64 a }

/-- Check and encode a block into HBM (R377): poison and a second mismatch write the marker, a clean block clears it. -/
def State.hbmWrite (s : State) (blk : Nat) : State :=
  let ws := (List.range 16).map (s.ms.phys.blk blk).word
  if ws.any bad then s.poisonSector blk
  else if !ws.all sound then
    let s := s.freezeDies [dieOf (64 * blk)] 1
    (s.poisonSector blk).logUncorrectable (dieOf (64 * blk)) (64 * blk)
  else { s with ms := { s.ms with phys := s.ms.phys.mark blk false } }

/-- HBM_WRITE (R377). -/
def execHbmWrite (blk : Nat) (s : State) : Host.Outcome State Fault Refusal :=
  answer (if inHbm blk then s.hbmWrite blk else s)

/-! ## On-chip SRAM, and the host's poison bitmap (R40, R257, R368, R378, R383) -/

def Blk.lose (b : Blk) : Blk := { b with rs := 0xFFFFFFFFFFFFFFFF }

/-- An SRAM array of a die corrects a word (`k` 2) or meets a line it cannot correct (`k` 3): it counts, and it freezes
recording (R368, R383). -/
def State.sramEvent (s : State) (die k : Nat) : State := (s.countHist (histArray die) k).freezeDies [die] 1

/-- A line of an SRAM array cannot be corrected: every word of it is poison from now on (R40, R378). -/
def Mem.loseBlk (m : Mem) (b : Nat) : Mem := m.putBlk b (m.blk b).lose

/-! ## Banks (R379, R381, R382) (DESIGN CHOICE; log 3) -/

def bankReset : Bank := { st := .normal, count := 0, since := 0, queued := false }
def State.bank (s : State) (b : Nat) : Bank := sget bankReset s.pkg.banks b
def State.putBank (s : State) (b : Nat) (x : Bank) : State := { s with pkg := { s.pkg with banks := sset bankReset s.pkg.banks b x } }

def Bank.busy (b : Bank) : Bool := match b.st with | .pending _ => true | .converting _ => true | _ => false

/-- The stack of a bank, and its die (R16, R379). -/
def bankStack (b : Nat) : Nat := b / 2048
def bankDie (b : Nat) : Nat := bankStack b / 2

/-- The bank, by identity, that holds a block: one of the stacks 2d and 2d + 1 of its home die d (R16, R379).
(DESIGN CHOICE; log 12) -/
def bankOfBlk (blk : Nat) : Nat := 4096 * dieOf (64 * blk) + Config.bankOf blk % 4096

/-- The frame of device memory, by number, at frame index `i` of a bank: one of the 96 GiB of the bank's die (R16, R379).
(DESIGN CHOICE; log 12) -/
def frameOf (b i : Nat) : Nat := 2 ^ 25 * bankDie b + Config.bankFrame b i % (96 * 2 ^ 18)

/-- The frames that a strong bank loses: those at frame index 7 mod 8 (R379). -/
def retired (b : Nat) : List Nat := (List.range 768).map fun i => frameOf b (8 * i + 7)

/-- The lowest free slot of a function's retire area. -/
def freeSlot (s : State) (fn : Nat) : Option Nat :=
  let r := s.fnReg fn 0x58
  (List.range (fld r 7 0)).find? fun k =>
    !(s.fn fn).slots.contains k && physOk (fld r 63 13 * 8192 + 8192 * k)

/-- A bank of the stack that has reached THRESH goes to PENDING, in identity order, where none of the stack is PENDING or
CONVERTING and a slot is free: its retired frames are written to the slot and a retire record is logged (R382).
(DESIGN CHOICE; log 11) -/
def State.lehrNext (s : State) (stack : Nat) : State :=
  let mine := s.pkg.banks.filter fun x => bankStack x.1 == stack
  let fn := s.fnOfDie (stack / 2)
  match mine.find? (fun x => x.2.queued && x.2.st == .normal), freeSlot s fn with
  | some (b, x), some k =>
    if mine.any fun y => y.2.busy then s
    else
      let s := s.devWrite (fld (s.fnReg fn 0x58) 63 13 * 8192 + 8192 * k) ((retired b).flatMap fun f => two (BitVec.ofNat 64 (4096 * f)))
      let s := s.putFn fn { s.fn fn with slots := ninsert (s.fn fn).slots k }
      let s := s.putBank b { x with st := .pending k, queued := false }
      s.logError fn { cls := 3, code := 2, die := bankDie b, w9 := BitVec.ofNat 64 (k * 2 ^ 16 + b) }
  | _, _ => s

/-- WINDOW in ns (R381). -/
def State.lehrWindow (s : State) : Nat := fld (s.pkgReg 0x108) 47 32 * 3600000000000

/-- A corrected event of the block's bank (R378, R382). (DESIGN CHOICE; log 12) -/
def State.countBank (s : State) (blk : Nat) : State :=
  let b := bankOfBlk blk
  let x := s.bank b
  let n := s.lehrWindow
  let old := (s.ptime - x.since).toNat
  let x := if n != 0 && n ≤ old then { x with count := 0, since := s.ptime - BitVec.ofNat 64 (old % n) } else x
  let x := { x with count := x.count + 1 }
  let ctl := s.pkgReg 0x108
  let x := if ctl.getLsbD 1 && fld ctl 63 48 ≤ x.count && x.st == .normal then { x with queued := true } else x
  (s.putBank b x).lehrNext (bankStack b)

/-- Outcome of decoding a codeword with `n` symbols in error (R378, R379). -/
inductive Decoded where
  | clean | corrected | uncorrectable | unstated

def lineDecode (strong : Bool) (n : Nat) : Decoded :=
  if n = 0 then .clean
  else if n ≤ (if strong then 2 else 1) then .corrected
  else if n ≤ (if strong then 3 else 2) then .uncorrectable
  else .unstated

/-- The number of symbols in error. (DEDUCED; log 55) -/
def symErrors (syms : List (Nat × BitVec 8)) : Nat := (uniq ((syms.filter fun x => x.2 != 0).map (·.1))).length

/-- What a read of a block with symbols in error leaves (R378): beyond what the code detects, the block read is a free
value. `keep`: a write entered coherence order meanwhile, so nothing is written back (R380). (DEDUCED; log 55) -/
def State.hbmDecode (s : State) (blk : Nat) (syms : List (Nat × BitVec 8)) (keep : Bool) : State :=
  let die := dieOf (64 * blk)
  match lineDecode ((s.bank (bankOfBlk blk)).st == .strong) (symErrors syms) with
  | .clean => s
  | .corrected => (s.countBank blk).freezeDies [die] 1
  | .uncorrectable => if keep then s else (s.poisonSector blk).freezeDies [die] 1
  | .unstated =>
    if keep then s
    else if Config.freeWord (s.ix 40000) == 0 then (s.poisonSector blk).freezeDies [die] 1
    else
      let w (i : Nat) : RWord 32 := mkW ((Config.freeWord (s.ix (40001 + i))).truncate 32)
      { s with ms := { s.ms with phys := s.ms.phys.putBlk blk (blkOf ((List.range 16).map w) (s.ms.phys.pair blk)) } }

/-- HBM_READ (R378). -/
def execHbmRead (blk : Nat) (syms : List (Nat × BitVec 8)) (s : State) : Host.Outcome State Fault Refusal :=
  answer (if inHbm blk then s.hbmDecode blk syms false else s)

/-- LEHR_SCRUB (R380): one conditional update at home, while scrubbing is enabled and package time runs. -/
def execLehrScrub (blk : Nat) (syms : List (Nat × BitVec 8)) (raced : Bool) (s : State) : Host.Outcome State Fault Refusal :=
  answer (if inHbm blk && (s.pkgReg 0x108).getLsbD 0 && !s.stopped then s.hbmDecode blk syms raced else s)

/-- LEHR_WINDOW (R381): the bank's window ends and its count begins again. (DEDUCED; log 55) -/
def execLehrWindow (bank : Nat) (s : State) : Host.Outcome State Fault Refusal :=
  answer (
    let x := s.bank bank
    let n := s.lehrWindow
    if n ≤ (s.ptime - x.since).toNat then s.putBank bank { x with count := 0, since := x.since + BitVec.ofNat 64 n } else s)

/-- LEHRACK (R382): a PENDING bank's retired frames are poisoned and its conversion starts. (DESIGN CHOICE; log 12)
(DEDUCED; log 55) -/
def execLehrack (fn bank : Nat) (s : State) : Host.Outcome State Fault Refusal :=
  let _ := fn
  answer (
    let x := s.bank bank
    match x.st with
    | .pending _ => ((retired bank).foldl State.poisonPage s).putBank bank { x with st := .converting 0 }
    | _ => s)

/-- LEHR_REENCODE_GROUP (R382): after the last of the bank's 768 groups it is strong, for the life of the part.
(DESIGN CHOICE; log 12) -/
def execLehrReencodeGroup (bank : Nat) (s : State) : Host.Outcome State Fault Refusal :=
  answer (
    let x := s.bank bank
    match x.st with
    | .converting g =>
      if g + 1 < 768 then s.putBank bank { x with st := .converting (g + 1) }
      else
        let s := s.putBank bank { x with st := .strong }
        ({ s with pkg := { s.pkg with strong := ninsert s.pkg.strong bank } }).lehrNext (bankStack bank)
    | _ => s)

/-! ## Lifetime histograms (R383) -/

/-- Two histograms added, count by count, saturating. -/
def histAdd (a b : BitVec 64) : BitVec 64 :=
  let f (k : Nat) : Nat := min (fld a (16 * k + 15) (16 * k) + fld b (16 * k + 15) (16 * k)) 65535
  BitVec.ofNat 64 (f 0 + 2 ^ 16 * f 1 + 2 ^ 32 * f 2 + 2 ^ 48 * f 3)

/-- HISTOGRAM_STORE (R383): at most once per 10 s. -/
def execHistogramStore (s : State) : Host.Outcome State Fault Refusal :=
  answer (
    if (s.ptime - s.pkg.stored).toNat < 10000000000 then s
    else
      let hist := s.pkg.gath.foldl (fun m x => sset 0 m x.1 (histAdd (sget 0 m x.1) x.2)) s.pkg.hist
      { s with pkg := { s.pkg with hist := hist, gath := [], stored := s.ptime } })

/-! ## Links and routes (R9, R11, R387) -/

/-- The dies that each link joins (R9). -/
def linkEnds : List (Nat × Nat) :=
  [(0, 1), (1, 2), (2, 3), (4, 5), (5, 6), (6, 7), (0, 4), (1, 5), (2, 6), (3, 7), (0, 5), (4, 1), (1, 6), (5, 2), (2, 7), (6, 3)]

/-- The link between two dies. -/
def dieLink (a b : Nat) : Option Nat := linkEnds.findIdx? fun e => e == (a, b) || e == (b, a)

def linkReset : Link := { up := true, retries := 0 }
def State.link (s : State) (n : Nat) : Link := sget linkReset s.pkg.links n
def State.putLink (s : State) (n : Nat) (x : Link) : State := { s with pkg := { s.pkg with links := sset linkReset s.pkg.links n x } }

/-- Are two dies joined by a working link? -/
def State.joined (s : State) (a b : Nat) : Bool := match dieLink a b with | some n => (s.link n).up | none => false

/-- The dies of the default route after `cur`, up to `h` (R11). -/
def defaultRoute : Nat → Nat → Nat → List Nat
  | 0, _, _ => []
  | n + 1, cur, h =>
    if cur = h then []
    else
      let col := cur % 4
      let col' := if h % 4 < col then col - 1 else if col < h % 4 then col + 1 else col
      let next := h / 4 * 4 + col'
      next :: defaultRoute n next h

/-- Replace each hop over a failed link by a detour over one die (R387): none where a hop has no detour. -/
def State.detour (s : State) (ok : Nat → Bool) : Nat → List Nat → Option (List Nat)
  | _, [] => some []
  | cur, d :: rest =>
    match s.detour ok d rest with
    | none => none
    | some r =>
      if s.joined cur d then some (d :: r)
      else ((List.range 8).find? fun m => ok m && s.joined cur m && s.joined m d).map fun m => m :: d :: r

/-- The shortest ways from `cur` to `h` over working links in at most `n` hops, lower dies first. -/
def State.ways (s : State) (ok : Nat → Bool) (h : Nat) : Nat → Nat → List (List Nat)
  | 0, _ => []
  | n + 1, cur =>
    (List.range 8).flatMap fun d =>
      if !s.joined cur d then []
      else if d = h then [[d]]
      else if ok d then (s.ways ok h n d).map (d :: ·) else []

/-- The shortest route over working links (R387). (DEDUCED; log 51) -/
def State.shortest (s : State) (ok : Nat → Bool) (a h : Nat) : Option (List Nat) :=
  (List.range 7).findSome? fun n => ((s.ways ok h (n + 1) a).filter fun w => w.length == n + 1).head?

/-- May a die carry others' traffic: it is not being reset, nor waiting for it (R388)? -/
def State.carries (s : State) (d : Nat) : Bool := s.dieSt d == .online

/-- The route of an ordered pair now: the dies after `a`, up to `h`. -/
def State.routeNow (s : State) (a h : Nat) : Option (List Nat) :=
  let base := defaultRoute 4 a h
  let through := base.dropLast.all s.carries
  match (if through then s.detour s.carries a base else none) with
  | some r => some r
  | none => s.shortest s.carries a h

/-- The pairs of different dies. -/
def diePairs : List (Nat × Nat) := (List.range 64).filterMap fun i => if i / 8 = i % 8 then none else some (i / 8, i % 8)

/-- The stores that die `a` has sent to home `h` and that are not performed (R324). -/
def State.onWay (s : State) (a h : Nat) : List Nat :=
  (s.ms.stores.filter fun p => p.core / 48 == a && p.home == h && (p.stage == .sent || p.stage == .locking)).map (·.sid)

/-- Recompute every route: pairs that change lose their DPORD bit; those back on their default route get it again, once every
store sent on the changed one has been performed (R324, R387). -/
def State.reroute (s : State) : State :=
  diePairs.foldl (fun s (a, h) =>
    let base := defaultRoute 4 a h
    let now := s.routeNow a h
    let key := 8 * a + h
    if now == some base then
      let new := if (slook s.pkg.routes key).isSome then (s.onWay a h).map fun n => (key, n) else []
      let strays := s.pkg.strays ++ new
      let s := { s with pkg := { s.pkg with routes := sdel s.pkg.routes key, strays := strays } }
      if strays.any fun x => x.1 == key then s else s.setOrd a h true
    else
      let s := { s with pkg := { s.pkg with
        routes := sput s.pkg.routes key ((now.getD []).dropLast), strays := s.pkg.strays.filter fun x => x.1 != key } }
      s.setOrd a h false) s

/-- Has some pair of the partition's dies no route at all (R387)? -/
def State.cut (s : State) (fn : Nat) : Bool :=
  diePairs.any fun (a, h) => s.fnOfDie a == fn && s.fnOfDie h == fn && s.online a && s.online h && s.routeNow a h == none

/-! ## Commands (R385) -/

/-- Set RSTSTAT. -/
def State.rstStat (s : State) (fn seq kind result : Nat) : State :=
  s.setFnReg fn 0x38 (BitVec.ofNat 64 (seq % 256 * 2 ^ 24 + kind % 16 * 2 ^ 16 + result))

/-- The outcome of a function's last command. -/
def State.rstResult (s : State) (fn : Nat) : Nat := fld (s.fnReg fn 0x38) 3 0

def State.setResult (s : State) (fn result : Nat) : State :=
  s.setFnReg fn 0x38 (setFld (s.fnReg fn 0x38) 3 0 result)

/-- Is a command of the function running? -/
def State.rstBusy (s : State) (fn : Nat) : Bool := s.rstResult fn == 1 || s.rstResult fn == 2

/-- The event of a command: its KIND, or a refusal where its target lies outside the partition. -/
def rstEvent (s : State) (fn : Nat) (value : BitVec 64) : Instr :=
  let seq := fld value 31 24
  let t := fld value 15 0
  let mine := fun d => s.fnOfDie d == fn
  match fld value 19 16 with
  | 1 => if fld value 15 9 = 0 && mine (fld value 8 6) && fld value 5 0 < 48 then .engineReset fn seq t else .rstcmdRefused fn value
  | 2 => match linkEnds[t]? with
    | some (a, b) => if mine a && mine b then .linkReset fn seq t else .rstcmdRefused fn value
    | none => .rstcmdRefused fn value
  | 3 => if t < 8 && mine t then .dieReset fn seq t else .rstcmdRefused fn value
  | 4 => if t = 0 then .partitionReset fn seq else .rstcmdRefused fn value
  | _ => .rstcmdRefused fn value

/-- Start a command. -/
def State.startRst (s : State) (fn : Nat) (value : BitVec 64) : State :=
  let s := s.rstStat fn (fld value 31 24) (fld value 19 16) 1
  { s with agenda := s.agenda ++ [rstEvent s fn value] }

/-- A command has ended: the next one starts. -/
def State.nextRst (s : State) (fn : Nat) : State :=
  match (s.fn fn).rstq with
  | [] => s
  | v :: rest => if s.rstBusy fn then s else (s.putFn fn { s.fn fn with rstq := rest }).startRst fn v

/-- End the function's running command with a result. -/
def State.endRst (s : State) (fn seq kind result : Nat) : State := (s.rstStat fn seq kind result).nextRst fn

/-- RSTCMD_REFUSED (R385). (DEDUCED; log 51) -/
def execRstcmdRefused (fn : Nat) (value : BitVec 64) (s : State) : Host.Outcome State Fault Refusal :=
  answer (s.endRst fn (fld value 31 24) (fld value 19 16) 3)

/-- ENGINE_RESET (R386): every operation of the core stops with CANCEL; each then ends as its stop says.
(DEDUCED; log 51) -/
def execEngineReset (fn seq target : Nat) (s : State) : Host.Outcome State Fault Refusal :=
  answer (
    let core := 48 * (target / 64 % 8) + target % 64
    let stop (o : EngOp) : EngOp := { o with stop := some (BitVec.ofNat 8 (((o.stop.map (·.toNat)).getD eCancel))) }
    let mine := s.ops.filter fun o => o.core == core && o.stop.isNone && !o.crowd.isEmpty
    let s := { s with ops := lmod s.ops (fun o => o.core == core) stop }
    (mine.foldl State.failGroup s).endRst fn seq 1 0)

/-! ## Die reset and partition reset (R344, R362, R388, R389) -/

/-- The die of a contest entry, from its identity. -/
def Contest.die (c : Contest) : Nat := (c.comp.toNat % 2 ^ 16 - 1) / 2 ^ 13

/-- Open rounds with an entry of the die are voided, and the line repeats them (R344); the die's entries go, and so do those
that a voided round leaves without a reader (R343). -/
def State.voidRounds (s : State) (die : Nat) : State :=
  let hit (r : Round) : Bool := r.run && s.contests.any fun c => c.inRnd r && c.die == die
  let bad := s.rounds.filter hit
  { s with
    contests := (s.contests.filter fun c => c.die != die && !(c.orphan && bad.any fun r => c.inRnd r)).map fun c =>
      if bad.any (fun r => c.inRnd r) then { c with st := .voided } else c,
    rounds := s.rounds.map fun r =>
      if hit r then { r with run := false, again := some s.ptime, bnd := BitVec.ofNat 64 (boundary (s.ptime.toNat + 1)) } else r }

/-- A crew ends as an abort that names the die being reset, wherever it stands (R362, R388). (DEDUCED; log 46) -/
def State.resetCrew (s : State) (die : Nat) (h : Nat) : State :=
  match s.crew h with
  | none => s
  | some c =>
    if c.st == CrewState.ended then ((s.cancelCrew c).vacate h).sweepCrew h
    else s.askAbort c { crewLog s c 1 0 [] 0 with die := die }

/-- What a die loses in its reset: tokens, copies, translations, scratch; its modified lines go to HBM (R388 step 4).
(DESIGN CHOICE; log 2) -/
def State.wipeDie (s : State) (die : Nat) : State :=
  let mine (core : Nat) : Bool := core / 48 == die
  let blks := uniq ((s.ms.phys.resx.map fun x => x.1 / 16).filter fun b => inHbm b && dieOf (64 * b) == die)
  let s := blks.foldl State.hbmWrite s
  { s with
    passes := s.passes.filter fun p => p.quad / 192 != die,
    courier := s.courier.filter fun x => !mine x.1,
    ms := { s.ms with
      l1d := s.ms.l1d.filter fun c => !mine c.core,
      way := s.ms.way.filter fun c => c.die != die,
      dir := (s.ms.dir.map fun x => (x.1, setBit x.2 die false)).filter fun x => x.2 != 0,
      dsc := s.ms.dsc.filter fun x => x.1.2 != die,
      tlb := s.ms.tlb.filter fun t => t.die != die,
      lrc := s.ms.lrc.filter fun l => !mine l.core,
      ilines := s.ms.ilines.filter fun l => !mine l.core },
    pkg := { s.pkg with
      purse := sdel s.pkg.purse die,
      qbuf := s.pkg.qbuf.filter fun x => x.1 / 192 != die,
      last := s.pkg.last.filter fun x => x.1 / 192 != die,
      issued := s.pkg.issued.filter fun x => x.1 / 192 != die,
      vecs := s.pkg.vecs.filter fun x => !mine x.1,
      mhz := s.pkg.mhz.filter fun x => !mine x.1,
      bound := setBit s.pkg.bound die false } }

def State.putDie (s : State) (die : Nat) (x : DieState) : State :=
  { s with pkg := { s.pkg with dies := sset .online s.pkg.dies die x } }

/-- Steps 2 to 5 of a die reset (R388). -/
def State.beginReset (s : State) (fn die : Nat) : State :=
  let s := s.putDie die (.resetting s.ptime)
  let s := s.voidRounds die
  let cavs := (s.crews.filter fun c => c.die == die && c.st != .ended).map (·.cav)
  let gone := (s.crews.filter fun c => c.die == die || (c.st != .ended && cavs.contains c.cav)).map (·.h)
  let s := gone.foldl (fun s h => s.resetCrew die h) s
  (((s.wipeDie die).dieGone die).reroute.recheckCavs).setResult fn 1

/-- DIE_RESET (R388): deferred while the die carries a route of the partition. (DEDUCED; log 51) -/
def execDieReset (fn seq target : Nat) (s : State) : Host.Outcome State Fault Refusal :=
  answer (
    let die := target % 8
    let s := s.rstStat fn seq 3 1
    let carried := diePairs.any fun (a, h) => s.fnOfDie a == fn && s.fnOfDie h == fn &&
      ((s.routeNow a h).getD []).dropLast.contains die
    if carried then ((s.putDie die .deferred).reroute).setResult fn 2 else s.beginReset fn die)

/-- DIE_RESET_RESUME (R388): the routes no longer pass the die. -/
def execDieResetResume (die : Nat) (s : State) : Host.Outcome State Fault Refusal :=
  answer (if s.dieSt die == .deferred then s.beginReset (s.fnOfDie die) die else s)

/-- Replicas of a die that missed commits take the home copies (R321). -/
def State.refreshReplicas (s : State) (die : Nat) : State :=
  let mine := s.ms.lost.filter fun l => l.1 == die
  let s := { s with ms := { s.ms with lost := s.ms.lost.filter fun l => l.1 != die } }
  mine.foldl (fun s l => s.updateReplica l.2 (dieOf (64 * l.2)) die) s

/-- DIE_RESET_COMPLETE (R388): the die returns. In recovery the dies are held in reset (R399). -/
def execDieResetComplete (die : Nat) (s : State) : Host.Outcome State Fault Refusal :=
  answer (match s.dieSt die with
    | .resetting _ =>
      if s.pkg.recovery then s
      else
      let fn := s.fnOfDie die
      let s := ((s.putDie die .online).refreshReplicas die).reroute
      if s.rstBusy fn then (s.setResult fn 0).nextRst fn else s
    | _ => s)

/-- HOME_STALL_TIMEOUT (R388 step 5): a store that has stalled 100 µs on the resetting die is discarded and logged.
(DESIGN CHOICE; log 11) (DEDUCED; log 52) -/
def execHomeStallTimeout (die sid : Nat) (s : State) : Host.Outcome State Fault Refusal :=
  answer (match s.findStore sid, s.dieSt die with
    | some p, .resetting since =>
      let t0 := max since.toNat p.t0.toNat
      if p.home == die && p.early && t0 + 100000 ≤ s.ptime.toNat then
        let s := { s with ms := { s.ms with
          stores := s.ms.stores.filter fun q => q.sid != sid, locks := s.ms.locks.filter fun l => l.2 != p.blk || p.stage != StoreStage.locking } }
        (s.unstray sid).logError (s.fnOfDie die) { cls := 3, code := 3, die := die, w9 := BitVec.ofNat 64 (64 * p.blk) }
      else s
    | _, _ => s)

/-- The control registers of a function's contexts return to their reset values (R389). (DEDUCED; log 51) -/
def State.clearContexts (s : State) (fn : Nat) : State :=
  let used (pasid : Nat) : Bool :=
    s.crews.any (fun c => c.fn == fn && c.pasid == pasid) || s.routes.any fun r => r.fn == fn && r.pasid == pasid
  let gone := (s.ctxs.filter fun x => x.2.owner == some fn || used x.1).map (·.1)
  { s with
    ctxs := (s.ctxs.map fun x => if gone.contains x.1 then (x.1, { x.2 with regs := [], owner := none }) else x).filter fun x => x.2 != ctxReset,
    dbg := s.dbg.filter fun x => !gone.contains (x.1 / 4096 / 512),
    ms := { s.ms with syncs := s.ms.syncs.filter fun x => !gone.contains x.1 } }

/-- Every die of the partition is reset together (R389). (DEDUCED; log 51) -/
def State.resetPartition (s : State) (fn : Nat) : State :=
  let dies := s.partDies fn
  let s := s.clearContexts fn
  let s := dies.foldl State.voidRounds s
  let gone := s.crews.filter fun c => c.fn == fn
  -- with the partition's registers its saves and restores are over, so that no abort waits for one (R362)
  let s := { s with crews := lmod s.crews (fun c => c.fn == fn && (c.st == CrewState.saving || c.st == CrewState.restoring)) fun c =>
    { c with st := .resident } }
  let s := gone.foldl (fun s c => s.resetCrew c.die c.h) s
  let s := dies.foldl (fun s d => (s.wipeDie d).putDie d .online) s
  let s := { s with
    cons := s.cons.filter fun k => k.fn != fn,
    cavs := s.cavs.filter fun v => !(s.cons.any fun k => k.h == v.cons && k.fn == fn),
    tries := s.tries.filter fun k => k.fn != fn,
    routes := (s.routes.filter fun (r : Route) => !(r.fn == fn && r.retiring)).map fun (r : Route) =>
      if r.fn == fn then { r with queue := [], cur := none } else r,
    parks := lmod s.parks (fun k => k.fn == fn) fun k => { k with dead := true } }
  let s := s.putFn fn { s.fn fn with prStop := false }
  let s := dies.foldl State.refreshReplicas s
  (s.reHead.reroute.settleCmd fn).setFnReg fn 0x50 0xFFFFFFFFFFFFFFFF

/-- A reset of the partition that no command asked for: it replaces a command that runs (R384, R385, R387). -/
def State.failPartition (s : State) (fn : Nat) : State :=
  let s := s.resetPartition fn
  if s.rstBusy fn then (s.setResult fn 4).nextRst fn else s

/-- PARTITION_RESET (R389). -/
def execPartitionReset (fn seq : Nat) (s : State) : Host.Outcome State Fault Refusal :=
  answer ((s.resetPartition fn).endRst fn seq 4 0)

/-! ## From outside (R40, R254, R257, R384) -/

/-- What no instruction and no event of the table brings, chosen by `v`: a line of a scratchpad, of a die scratch, of an L1D,
of a waystation cache or of an L2 is lost, an SRAM word is corrected, the host clears a bit of the poison bitmap, the
run-ahead stream unit reads an index ahead of use, or a die fails in a way that it cannot confine (R40, R254, R257, R384).
(DESIGN CHOICE; log 13) -/
def State.outside (s : State) (v : Nat) : State :=
  let n := v / 16 % 2 ^ 32
  let k := v / 2 ^ 36
  match v % 16 with
  | 0 => match s.crews[k]? with
    | some c => if c.holds && 64 * n < c.scrSize then (s.modScr c.h fun m => m.loseBlk n).sramEvent c.die 3 else s
    | none => s
  | 1 => match s.ms.dsc[k]? with
    | some x => (s.setDsc x.1.1 x.1.2 (x.2.loseBlk n)).sramEvent x.1.2 3
    | none => s
  | 2 => match s.ms.l1d[n]? with
    | some c => ({ s with ms := { s.ms with
        l1d := lmod s.ms.l1d (fun x => x == c) fun x => { x with data := x.data.lose } } }).sramEvent (c.core / 48) 3
    | none => s
  | 3 => match s.ms.way[n]? with
    | some c => ({ s with ms := { s.ms with
        way := lmod s.ms.way (fun x => x == c) fun x => { x with data := x.data.lose } } }).sramEvent c.die 3
    | none => s
  | 4 => if inHbm n then ({ s with ms := { s.ms with phys := s.ms.phys.loseBlk n } }).sramEvent (dieOf (64 * n)) 3 else s
  | 5 => s.sramEvent (n % 8) 2
  | 6 => { s with ms := { s.ms with pbits := s.ms.pbits.filter fun p => p != n } }
  | 7 => s.failPartition (s.fnOfDie (n % 8))
  | _ => match s.ops[k]? with
    | some o => o.readAhead s n
    | none => s

/-! ## Link failure (R387) -/

/-- A link fails: its traffic is rerouted, and a partition that is cut is reset. -/
def State.failLink (s : State) (n : Nat) : State :=
  let s := (s.putLink n { up := false, retries := 0 }).reroute
  (List.range 8).foldl (fun s fn => if s.cut fn then s.failPartition fn else s) s

/-- LINK_FAIL (R387): sixteen retries in a row, or lost training. -/
def execLinkFail (link : Nat) (s : State) : Host.Outcome State Fault Refusal :=
  answer (if link < 16 && (s.link link).up then s.failLink link else s)

/-- LINK_FLIT_RECEIVE (R387): a code error is retried; the sixteenth in a row fails the link. -/
def execLinkFlitReceive (link : Nat) (ok : Bool) (s : State) : Host.Outcome State Fault Refusal :=
  answer (
    let x := s.link link
    if 16 ≤ link || !x.up then s
    else if ok then s.putLink link { x with retries := 0 }
    else
      let s := s.putLink link { x with retries := x.retries + 1 }
      if x.retries + 1 < 16 then s else { s with agenda := .linkFail link :: s.agenda })

/-- LINK_RESET (R387): the link goes down and retrains. -/
def execLinkReset (fn seq target : Nat) (s : State) : Host.Outcome State Fault Refusal :=
  answer ((s.rstStat fn seq 2 1).failLink target)

/-- LINK_RETRAIN_DONE (R324, R387): the link works again, and default routes return. -/
def execLinkRetrainDone (link : Nat) (s : State) : Host.Outcome State Fault Refusal :=
  answer (
    if 16 ≤ link then s
    else
      let s := (s.putLink link linkReset).reroute
      let waits (fn : Nat) : Bool := s.rstResult fn == 1 && fld (s.fnReg fn 0x38) 19 16 == 2
      let one (s : State) (fn : Nat) : State := if waits fn then (s.setResult fn 0).nextRst fn else s
      match linkEnds[link]? with
      | some (a, _) => one s (s.fnOfDie a)
      | none => s)

/-! ## Flits of the fabric (R392, R398) -/

def portReset : Port := { streak := 0, times := [] }
def State.port (s : State) (p : Nat) : Port := sget portReset s.pkg.ports p
def State.putPort (s : State) (p : Nat) (x : Port) : State := { s with pkg := { s.pkg with ports := sset portReset s.pkg.ports p x } }

/-- FLIT_RECEIVE (R398): a code error is requested again; sixteen in a row take the port down, more than 256 within 1 µs
are a retry storm. -/
def execFlitReceive (port : Nat) (ok : Bool) (s : State) : Host.Outcome State Fault Refusal :=
  answer (
    let off := 0x200 + 8 * port
    let r := s.pkgReg off
    let x := s.port port
    if 64 ≤ port || !r.getLsbD 0 then s
    else if ok then s.putPort port { x with streak := 0 }
    else
      let times := (s.ptime :: x.times).take 257
      let storm := times.length == 257 && (times.getLast?.map fun t => decide ((s.ptime - t).toNat ≤ 1000)).getD false
      let r := setFld r 63 32 ((fld r 63 32 + 1) % 2 ^ 32)
      let r := if storm then setBit r 1 true else r
      let down := 16 ≤ x.streak + 1
      let s := s.putPort port { streak := if down then 0 else x.streak + 1, times := times }
      let s := s.setPkgReg off (if down then setBit r 0 false else r)
      if storm then s.freezeDies (List.range 8) 4 else s)

/-- PORT_TRAINED (R392). -/
def execPortTrained (port : Nat) (s : State) : Host.Outcome State Fault Refusal :=
  answer (if port < 64 then (s.setPkgReg (0x200 + 8 * port) (setBit (s.pkgReg (0x200 + 8 * port)) 0 true)) else s)

end Sys2Proof.Machine
end

