-- ==== Sys2Proof/Machine/System.lean ====
section
/-!
DEFINITION. Fences, generations, context control registers and translation maintenance: opcodes 0x32 to 0x34 and 0x36 to
0x3A (R58, R104, R146, R220, R245, R251 to R253, R259, R260, R324, R336, R363).
-/
namespace Sys2Proof.Machine

/-! ## Fences -/

/-- What FENCE writes to S[DST] when it retires now (R336). (DEDUCED; log 42) -/
def fenceRecord (t : Th) : BitVec 64 :=
  match t.p.wait with
  | .fence t0 _ msg =>
    let ns := (t.s.ptime - t0).toNat % 2 ^ 48
    BitVec.ofNat 64 (match msg with | some d => d * 2 ^ 61 + 2 ^ 60 + ns | none => ns)
  | _ => 0

/-- FENCE (R302, R315, R336): the path waits until what a release waits for is performed, then the fence retires.
(DEDUCED; log 16) (DEDUCED; log 42) -/
def execFence (f : Fields) : State → Host.Outcome State Fault Refusal :=
  issue (.fence f) f { cls := .c, drain := true, sync := true } fun t _ =>
    let n := f.dst.toNat
    splitCheck t n (
      if relWaits t f then
        match t.p.wait with
        | .fence .. => .hold t
        | _ => .hold { t with p := { t.p with wait := .fence t.s.ptime (mScope f).toNat none } }
      else .done ((t.acquires f).setS n (mkW (fenceRecord t))))

/-- FENCEQ drops the core's layout-record cache lines (R58). It waits for no store: an LDQ on the same core sees the core's own
stores, and the spec names no scope at which FENCEQ would order them. (DESIGN CHOICE; log 62) -/
def execFenceq (f : Fields) : State → Host.Outcome State Fault Refusal :=
  issue (.fenceq f) f kC fun t _ =>
    .done { t with s := { t.s with ms := { t.s.ms with lrc := t.s.ms.lrc.filter fun x => x.core != t.w.coreN } } }

/-- FENCEI discards the wave's fetched lines and the core's cached instruction lines (R104). -/
def execFencei (f : Fields) : State → Host.Outcome State Fault Refusal :=
  issue (.fencei f) f kC fun t _ =>
    let drop (p : Path) : Path := { p with line := none }
    .done { t with
      s := { t.s with ms := { t.s.ms with ilines := t.s.ms.ilines.filter fun x => x.core != t.w.coreN } },
      w := { t.w with paths := t.w.paths.map drop, spilled := t.w.spilled.map drop }, p := drop t.p }

/-! ## Generations and translations -/

/-- The units that hold the generation of a context of die `d`'s partition: TLBs and memory controllers (R253). -/
def State.genUnits (s : State) (d : Nat) : List Nat := (s.partDies (s.fnOfDie d)).flatMap fun e => [e, 8 + e]

def State.putSync (s : State) (pasid : Nat) (y : GenSync) : State := { s with ms := { s.ms with syncs := sput s.ms.syncs pasid y } }
def State.endSync (s : State) (pasid : Nat) : State := { s with ms := { s.ms with syncs := sdel s.ms.syncs pasid } }

/-- The GENSYNC of the context that runs, if its crew still stands. -/
def State.syncOf (s : State) (pasid : Nat) : Option GenSync :=
  match slook s.ms.syncs pasid with
  | some y => if s.crews.any fun c => c.h == y.crew && c.st != CrewState.requeued && c.st != CrewState.ended then some y else none
  | none => none

/-- GENSYNC raises the generation; the units of the context take it one by one, and the instruction retires once all hold it. A
second one waits for the first (R253). (DESIGN CHOICE; log 18) -/
def genSync (t : Th) (n : Nat) : Res :=
  let pasid := t.w.pasid
  match t.s.syncOf pasid with
  | none =>
    let c := t.s.ctx pasid
    let y : GenSync := { crew := t.w.crew, wid := t.w.wid, eid := t.p.eid, behind := t.s.genUnits t.w.die }
    .hold { t with s := (t.s.putCtx pasid { c with gen := c.gen + 1 }).putSync pasid y }
  | some y =>
    if y.crew != t.w.crew || y.wid != t.w.wid || y.eid != t.p.eid then .hold t
    else match y.behind with
      | [] => .done ({ t with s := t.s.endSync pasid }.setS n (mkW ((t.s.ctx pasid).gen.zeroExtend 64)))
      | _ :: rest => .hold { t with s := t.s.putSync pasid { y with behind := rest } }

/-- GENSYNC (R253). -/
def execGensync (f : Fields) : State → Host.Outcome State Fault Refusal :=
  issue (.gensync f) f kP fun t _ => splitCheck t f.dst.toNat (genSync t f.dst.toNat)

/-- Does an access on its way use a translation that a TLBINV of `all`, of the region or of the page of `a` drops (R259)? -/
def State.usesXl (s : State) (pasid : Nat) (dies : Nat → Bool) (all region : Bool) (a : BitVec 64) : Bool :=
  s.ms.stores.any fun p => p.pasid == pasid && p.early && p.core < hostCore && dies (p.core / 48) && (match p.va with
    | none => false
    | some v => all || (if region then v / 2 ^ 53 == a.toNat / 2 ^ 53
        else pageOf s pasid (BitVec.ofNat 64 v) == pageOf s pasid a ||
          s.ms.tlb.any fun x => x.pasid == pasid && x.va / 2 ^ x.bits == v / 2 ^ x.bits && x.va / 2 ^ x.bits == a.toNat / 2 ^ x.bits))

/-- TLBINV (R259): waits for the accesses that used the translations, then drops them. -/
def execTlbinv (f : Fields) : State → Host.Outcome State Fault Refusal :=
  issue (.tlbinv f) f kP fun t _ =>
    let all := f.sub == 2
    let a := laneAddr t f false 0
    let base := t.sreg f.sa.toNat
    let dies (d : Nat) : Bool := mScope f == 4 || d == t.w.die
    if !all && bad base then .trap t (poisonUse 0 f.sa.toNat)
    else checked t 0x39 (if all then [] else [t.srcS 64 f.sa.toNat 1]) fun t =>
      if t.s.usesXl t.w.pasid dies all (f.sub == 1) a then .hold t
      else
        let hit (x : Tlb) : Bool := x.pasid == t.w.pasid && dies x.die &&
          (all || (if f.sub == 0 then x.va ≤ a.toNat && a.toNat < x.va + 2 ^ x.bits else x.va / 2 ^ 53 == a.toNat / 2 ^ 53))
        .done { t with s := t.s.dropTlb hit }

/-- What PROBE reports of a leaf entry (R260). -/
def probeBits (leaf : BitVec 64) (pbit hm : Bool) : Nat :=
  (if hm then fld leaf 55 12 * 4096 else 0) + leafHome leaf * 2 ^ 9 + (if pbit then 2 ^ 8 else 0) +
    (if leafREP leaf then 2 ^ 7 else 0) + (if leafET leaf then 2 ^ 6 else 0) + fld leaf 5 0

/-- PROBE (R260): the translation an access of the kind would meet. -/
def execProbe (f : Fields) : State → Host.Outcome State Fault Refusal :=
  issue (.probe f) f kC fun t _ =>
    let a := laneAddr t f false 0
    let n := f.dst.toNat
    let k := f.sub.toNat
    splitCheck t n (
      if bad (t.sreg f.sa.toNat) then .trap t (poisonUse 0 f.sa.toNat)
      else checked t 0x3A [t.srcS 64 f.sa.toNat 1] fun t =>
        if (aperture t.s t.w.pasid a).isSome then .done (t.setS n (mkW (BitVec.ofNat 64 (0xFE * 2 ^ 56))))
        else
          let nd : Need := { r := k == 0 || k == 2, w := k == 1 || k == 2, a := k == 2, x := k == 3, spec := true }
          let (s, r) := translate t.s t.w.die t.w.pasid a nd t.w.hmode 0
          let (s, leaf) := translate s t.w.die t.w.pasid a { spec := true } true 0
          let cause := match r with
            | .ok _ => 0
            | .error e => e.cause
          let rest := match leaf with
            | .ok x => probeBits x.leaf x.pbit t.w.hmode
            | .error e => probeBits e.leaf false t.w.hmode
          .done ({ t with s := s }.setS n (mkW (BitVec.ofNat 64 (cause * 2 ^ 56 + rest)))))

/-! ## Context control registers (R146) -/

/-- The bits of a context control register that a write changes (R204, R220, R245, R350, R363). -/
def ctxMask (num : Nat) : BitVec 64 :=
  if num = 0x100 then 0xFFFFFFFFFFFFE000
  else if num = 0x110 || num = 0x111 then 0xFFFFFFFFC0000004
  else if num = 0x112 then 0xFFFFFFFFC0000007
  else if 0x120 ≤ num && num ≤ 0x12F then 0xFFFFFFFFFFFFF08F
  else if num = 0x132 || num = 0x162 || (0x180 ≤ num && num ≤ 0x18F) then 0x00000000FFFFFFFF
  else if num = 0x140 then 0
  else if num = 0x151 then 0xFFFFFFFFFFC00FFF
  else if num = 0x160 then 0xFFFFFFFFFFFFF000
  else if num = 0x161 then 0xFFFFFFFFE01FFFFF
  else if num = 0x163 then 7
  else if 0x164 ≤ num && num ≤ 0x167 then 0xFFFFFFFFFFFFFFF9
  else if (0x170 ≤ num && num ≤ 0x173) || num = 0x178 then 0xC0000000000000FF
  else 0xFFFFFFFFFFFFFFFF

/-- The value of register `num` after a write of `x` over `old`: reserved fields keep, FRAC 3 and PSZ 5 to 7 leave
their field (R3, R220, R245). -/
def ctxWritten (num : Nat) (old x : BitVec 64) : BitVec 64 :=
  let m := ctxMask num
  let m := if num = 0x112 && fld x 1 0 == 3 then m &&& ~~~3
    else if 0x120 ≤ num && num ≤ 0x12F && 5 ≤ fld x 2 0 then m &&& ~~~7 else m
  (old &&& ~~~m) ||| (x &&& m)

/-- DPORD as it reads: every bit of a pair with an offline die is 0, ORDs bit s of an online die is 1 (R324). -/
def State.dpord (s : State) (fn : Nat) : BitVec 64 :=
  let r := s.fnReg fn 0x50
  maskOf 64 ((List.range 64).filter fun i =>
    s.online (i / 8) && s.online (i % 8) && (i / 8 == i % 8 || r.getLsbD i))

/-- Read a context control register. -/
def Th.readCtx (t : Th) (num : Nat) : BitVec 64 :=
  if num = 0x140 then t.s.dpord (t.s.fnOfDie t.w.die) else t.s.dbgReg t.w.pasid t.w.coreN num

/-- Write a context control register on a core; a change of FRAC leaves the die scratch undefined (R224; log 2). -/
def State.writeCtx (s : State) (pasid core num : Nat) (x : BitVec 64) : State :=
  if num = 0x140 then s
  else
    let old := s.dbgReg pasid core num
    let new := ctxWritten num old x
    let s := s.setDbgReg pasid core num new
    if num = 0x112 && fld old 1 0 != fld new 1 0 then
      { s with ms := { s.ms with dsc := s.ms.dsc.filter fun y => y.1.1 != pasid } }
    else s

/-- CSRD (R146). -/
def execCsrd (f : Fields) : State → Host.Outcome State Fault Refusal :=
  issue (.csrd f) f kP fun t _ =>
    splitCheck t f.dst.toNat (.done (t.setS f.dst.toNat (mkW (t.readCtx (yNum f).toNat))))

/-- CSWR (R146). -/
def execCswr (f : Fields) : State → Host.Outcome State Fault Refusal :=
  issue (.cswr f) f kP fun t _ =>
    useS t 0x38 f.sa.toNat 5 fun t x => .done { t with s := t.s.writeCtx t.w.pasid t.w.coreN (yNum f).toNat x }

end Sys2Proof.Machine
end

