-- ==== Sys2Proof/Machine/HostLink.lean ====
section
/-!
DEFINITION. What the host does to a function's registers, contexts, package time, firmware and attestation, and package
reset (R391 to R395, R399, R400).
-/
namespace Sys2Proof.Machine

/-! ## Context commands (R394) -/

/-- Has the context a crew that has not ended? -/
def State.hasCrew (s : State) (pasid : Nat) : Bool := s.crews.any fun c => c.pasid == pasid && c.st != CrewState.ended

/-- End a context command with its STATUS. -/
def State.ctxDone (s : State) (fn status : Nat) : State := s.setFnReg fn 0x68 (setFld (s.fnReg fn 0x68) 61 60 status)

/-- A refused command changes no register and is logged (R394). -/
def State.ctxRefuse (s : State) (fn code : Nat) : State := (s.logError fn { cls := 4, code := code }).ctxDone fn 2

/-- Give a context control register the word of the block: a register that exists once per core on every core (R363). -/
def State.loadReg (s : State) (fn pasid num : Nat) (x : BitVec 64) : State :=
  if !isContext num then s
  else if perCore num then
    ((s.partDies fn).flatMap fun d => (List.range 48).map (48 * d + ·)).foldl (fun s c => s.writeCtx pasid c num x) s
  else s.writeCtx pasid 0 num x

/-- CTXCMD_LOAD (R394). -/
def execCtxcmdLoad (fn pasid : Nat) (s : State) : Host.Outcome State Fault Refusal :=
  answer (
    let busy := s.hasCrew pasid || s.routes.any fun r => r.pasid == pasid && r.cur.isSome
    let base := fld (s.fnReg fn 0x70) 63 12 * 4096
    match (if busy || isHost base then none else s.physRead base 1024) with
    | none => s.ctxRefuse fn 1
    | some ws =>
      let s := (List.range 256).foldl (fun s i => s.loadReg fn pasid (0x100 + i) (word64 ws i)) s
      (s.putCtx pasid { s.ctx pasid with gen := 0, owner := some fn }).ctxDone fn 0)

/-- CTXCMD_RETIRE (R394). -/
def execCtxcmdRetire (fn pasid : Nat) (s : State) : Host.Outcome State Fault Refusal :=
  answer (
    if s.hasCrew pasid || s.routes.any fun r => r.pasid == pasid then s.ctxRefuse fn 2
    else
      let s := s.putCtx pasid { s.ctx pasid with regs := [], owner := none }
      { s with
        dbg := s.dbg.filter fun x => x.1 / 4096 / 512 != pasid,
        ms := { s.ms with dsc := s.ms.dsc.filter fun y => y.1.1 != pasid } }.ctxDone fn 0)

/-! ## Package time (R395) -/

/-- PTCTL_STOP: package time stops at its next tick; only function 0 writes PTCTL. -/
def execPtctlStop (fn : Nat) (s : State) : Host.Outcome State Fault Refusal :=
  answer (if fn = 0 then { s with stop := true } else s)

/-- PTCTL_RESUME: package time goes on from the held value. -/
def execPtctlResume (fn : Nat) (s : State) : Host.Outcome State Fault Refusal :=
  answer (if fn = 0 then { s with stop := false } else s)

/-! ## Firmware and package reset (R399, R400) -/

/-- The version number in an image's header. -/
def imageVersion (image : List (BitVec 8)) : BitVec 32 := BitVec.ofNat 32 (leNat ((image.drop 4).take 4))

/-- Does an image meet every check (R399)? -/
def imageOk (image sig1 sig2 : List (BitVec 8)) : Bool :=
  Config.verifyEd25519 image sig1 && Config.verifyMlDsa65 image sig2 && Config.minVersion.toNat ≤ (imageVersion image).toNat

/-- The image runs, or the package enters recovery with its compute dies held in reset. -/
def State.boot (s : State) (ok : Bool) (image : List (BitVec 8)) : State :=
  if ok then
    let s := (List.range 8).foldl (fun s d => s.putDie d .online) s
    { s with pkg := { s.pkg with recovery := false, version := imageVersion image, image := image } }
  else
    let s := (List.range 8).foldl (fun s d => s.putDie d (.resetting s.ptime)) s
    { s with pkg := { s.pkg with recovery := true } }

/-- The package after a reset: the partition size that PARTCFG names, non-volatile state and memory kept. -/
def State.rebooted (s : State) : State :=
  let size := fld (s.pkgReg 0x100) 1 0
  let r := State.reset
  let strong (m : SMap Bank) (b : Nat) : SMap Bank := sput m b { bankReset with st := .strong }
  { r with
    steps := s.steps, agenda := s.agenda, outbox := s.outbox, ms := { r.ms with phys := s.ms.phys, pbits := s.ms.pbits },
    pkg := { r.pkg with
      size := size, regs := sset (pkgRegReset 0x100) [] 0x100 (pkgRegReset 0x100 ||| BitVec.ofNat 64 size),
      banks := s.pkg.strong.foldl strong [], strong := s.pkg.strong, hist := s.pkg.hist, gath := s.pkg.gath } }

/-- PACKAGE_RESET (R14, R382, R392, R399). (DESIGN CHOICE; log 2) -/
def execPackageReset (image sig1 sig2 : List (BitVec 8)) (s : State) : Host.Outcome State Fault Refusal :=
  answer (s.rebooted.boot (imageOk image sig1 sig2) image)

/-- POWER_LOSS (R383): device memory and everything volatile go; histogram events not yet stored are lost.
(DESIGN CHOICE; log 2) -/
def execPowerLoss (s : State) : Host.Outcome State Fault Refusal :=
  let m := s.ms.phys
  let host := 2 ^ 55
  let r := State.reset
  answer { r with
    steps := s.steps, agenda := s.agenda, outbox := s.outbox,
    ms := { r.ms with phys := {
      cells := m.cells.filter fun c => host ≤ c.1, resx := m.resx.filter fun c => host ≤ 4 * c.1,
      pairs := m.pairs.filter fun c => host ≤ 64 * c.1, marks := [] } },
    pkg := { r.pkg with strong := s.pkg.strong, hist := s.pkg.hist,
                        banks := s.pkg.strong.foldl (fun m b => sput m b { bankReset with st := .strong }) [] } }

/-- End a management command with its STATUS (R400): the mailbox is function 0's. -/
def State.mgmtDone (s : State) (status : Nat) : State := s.setFnReg 0 0x400 (setFld (s.fnReg 0 0x400) 15 8 status)

/-- The address of the host buffer. -/
def State.mgmtBuf (s : State) : Nat := 2 ^ 55 + (s.fnReg 0 0x408).toNat % 2 ^ 55

/-- FWLOAD (R399, R400): every partition is reset and the image runs, or the package is in recovery. (DEDUCED; log 53) -/
def execFwload (image sig1 sig2 : List (BitVec 8)) (s : State) : Host.Outcome State Fault Refusal :=
  answer (
    let ok := imageOk image sig1 sig2
    let s := (List.range 8).foldl State.failPartition s
    (s.boot ok image).mgmtDone (if ok then 0 else 2))

/-- HISTREAD (R400): the histogram goes to the buffer; a number that names none, and any command but FWLOAD in recovery,
is refused. (DEDUCED; log 53) -/
def execHistread (arg : Nat) (s : State) : Host.Outcome State Fault Refusal :=
  answer (
    if s.pkg.recovery || histArray 8 ≤ arg then s.mgmtDone 2
    else (s.devWrite64 s.mgmtBuf (sget 0 s.pkg.hist arg)).mgmtDone 0)

/-- HISTCLEAR (R400). (DEDUCED; log 53) -/
def execHistclear (s : State) : Host.Outcome State Fault Refusal :=
  answer (if s.pkg.recovery then s.mgmtDone 2 else { s with pkg := { s.pkg with hist := [], gath := [] } }.mgmtDone 0)

/-- MGMTCMD_REFUSED (R400). (DEDUCED; log 53) -/
def execMgmtcmdRefused (value : BitVec 64) (s : State) : Host.Outcome State Fault Refusal :=
  let _ := value
  answer (s.mgmtDone 2)

/-- SPDM_REQUEST (R399): answered over the function's DOE mailbox. -/
def execSpdmRequest (fn : Nat) (req : List (BitVec 8)) (s : State) : Host.Outcome State Fault Refusal :=
  answer (if s.pkg.recovery then s else { s with outbox := .spdm fn (Config.spdmAnswer s.pkg.image req) :: s.outbox })

/-- The bytes of the management buffer. -/
def mgmtBytes (s : State) (n : Nat) : List (BitVec 8) := (List.range n).map fun i => s.ms.phys.byte (s.mgmtBuf + i)

/-- A write of MGMTCMD: the command with its ARG (R400). The image that FWLOAD reads ends with its two signatures.
(DEDUCED; log 53) -/
def mgmtWrite (value : BitVec 64) (s : State) : Host.Outcome State Fault Refusal :=
  let s := s.setFnReg 0 0x400 (setFld value 15 8 1)
  let arg := fld value 63 16
  match fld value 7 0 with
  | 1 =>
    let b := mgmtBytes s arg
    let n := arg - 3373
    execFwload (b.take n) ((b.drop n).take 64) (b.drop (n + 64)) s
  | 2 => execHistread arg s
  | 3 => execHistclear s
  | _ => execMgmtcmdRefused value s

/-! ## Register writes (R392) -/

/-- The bits of a register that a write stores as they are. (DEDUCED; log 56) -/
def storedBits (off : Nat) : BitVec 64 :=
  if off = 0x10 then 0xFFFFFFFFFFFFFFC0
  else if off = 0x18 then 0xFFFFFFFFFFFFC000
  else if off = 0x20 then 0xFFFFFFFFFFFE0000
  else if off = 0x28 then 0x0000FFFFFF000000
  else if off = 0x58 then 0xFFFFFFFFFFFFE0FF
  else if off = 0x70 then 0xFFFFFFFFFFFFF000
  else if off = 0x100 then 0x0000000003FF0003
  else if off = 0x108 then 0xFFFFFFFF0000FF03
  else if off = 0x408 then 0xFFFFFFFFFFFFFFFF
  else 0

/-- The old value with the stored bits of the new one. (DEDUCED; log 56) -/
def stored (off : Nat) (old new : BitVec 64) : BitVec 64 := (old &&& ~~~storedBits off) ||| (new &&& storedBits off)

/-- A write of RCMD (R73). -/
def rcmdWrite (fn : Nat) (value : BitVec 64) (s : State) : Host.Outcome State Fault Refusal :=
  match fld value 11 10 with
  | 1 => execRcmdRegister fn (fld value 9 0) s
  | 2 => execRcmdRetire fn (fld value 9 0) s
  | _ => execRcmdInvalid fn value s

/-- A write of RSTCMD (R385): commands run one at a time, in order of arrival. -/
def rstWrite (fn : Nat) (value : BitVec 64) (s : State) : Host.Outcome State Fault Refusal :=
  let s := s.setFnReg fn 0x30 (value &&& 0x00000000FF0FFFFF)
  answer (if s.rstBusy fn then s.putFn fn { s.fn fn with rstq := (s.fn fn).rstq ++ [value] } else s.startRst fn value)

/-- A write of PRECMD (R393): ignored while BUSY. (DEDUCED; log 56) -/
def precmdWrite (fn : Nat) (value : BitVec 64) (s : State) : Host.Outcome State Fault Refusal :=
  if (s.fnReg fn 0x40).getLsbD 20 then answer s
  else
    let r := value &&& 0xFFFFFF00000FFFFF
    match fld value 63 62 with
    | 1 => execPrecmdContext fn (fld value 19 0) (s.setFnReg fn 0x40 (setBit r 20 true))
    | 2 => execPrecmdConsignment fn (fld value 61 52) (fld value 51 40) (s.setFnReg fn 0x40 (setBit r 20 true))
    | _ => answer (s.setFnReg fn 0x40 r)

/-- A write of CTXCMD (R394): ignored while a command runs. -/
def ctxcmdWrite (fn : Nat) (value : BitVec 64) (s : State) : Host.Outcome State Fault Refusal :=
  if fld (s.fnReg fn 0x68) 61 60 = 1 then answer s
  else
    let r := value &&& 0xC0000000000FFFFF
    let run := s.setFnReg fn 0x68 (setFld r 61 60 1)
    match fld value 63 62 with
    | 1 => execCtxcmdLoad fn (fld value 19 0) run
    | 2 => execCtxcmdRetire fn (fld value 19 0) run
    | _ => answer (s.setFnReg fn 0x68 (setFld r 61 60 (fld (s.fnReg fn 0x68) 61 60)))

/-- A write of a package register, by function 0 only. -/
def pkgWrite (off : Nat) (value : BitVec 64) (s : State) : Host.Outcome State Fault Refusal :=
  if off = 0x110 then execPwrlimWrite 0 value s
  else if off = 0x120 then (if value.getLsbD 0 then execPtctlStop 0 s else execPtctlResume 0 s)
  else if 0x200 ≤ off && off < 0x400 then
    answer (if value.getLsbD 1 then s.setPkgReg off (setBit (s.pkgReg off) 1 false) else s)
  else answer (s.setPkgReg off (stored off (s.pkgReg off) value))

/-- A whole write of a register of function `fn` that has behaviour of its own, or stores its fields.
(DEDUCED; log 56) -/
def barWrite (fn off : Nat) (value : BitVec 64) (s : State) : Host.Outcome State Fault Refusal :=
  if off = 0x08 then rcmdWrite fn value s
  else if off = 0x30 then rstWrite fn value s
  else if off = 0x40 then precmdWrite fn value s
  else if off = 0x48 then execBprel fn value s
  else if off = 0x60 then execLehrack fn (fld value 14 0) s
  else if off = 0x68 then ctxcmdWrite fn value s
  else if 0x100 ≤ off && off < 0x400 then (if fn = 0 && off % 8 = 0 then pkgWrite off value s else answer s)
  else if off = 0x400 then (if fn = 0 then mgmtWrite value s else answer s)
  else answer (s.setFnReg fn off (stored off (s.fnReg fn off) value))

/-- REGISTER_WRITE (R392): registers are written whole; in recovery only function 0's mailbox answers (R399). -/
def execRegisterWrite (fn off width : Nat) (value : BitVec 64) (s : State) : Host.Outcome State Fault Refusal :=
  if 2 ^ s.pkg.size ≤ fn || (s.pkg.recovery && !(fn == 0 && (off == 0x400 || off == 0x408))) then answer s
  -- a write that misses part of the kick register is narrower than it (R77)
  else if off < 8 then execKick fn (if off = 0 then width else 32) value s
  else if width != 64 then answer s
  else barWrite fn off value s

/-- What a read of a BAR0 register returns (R392). -/
def State.barRead (s : State) (fn off : Nat) : BitVec 64 :=
  if off = 0 || off = 0x48 || off = 0x60 then 0
  else if off = 0x50 then s.dpord fn
  else if off = 0x120 then BitVec.ofNat 64 ((if s.stopped then 2 else 0) + (if s.stop then 1 else 0))
  else if 0x100 ≤ off && off < 0x400 then s.pkgReg off
  else s.fnReg fn off

end Sys2Proof.Machine
end

