-- ==== Sys2Proof/Machine/Matrix.lean ====
section
/-!
DEFINITION. The matrix engine: tiles, octet passes and their checks, and opcodes 0xD0 to 0xD5 (R93, R288 to R308).
-/
namespace Sys2Proof.Machine

/-! ## Power tokens (R93) -/

/-- The quad of a wave: 4 × core + QUADID. -/
def Wave.quadN (w : Wave) : Nat := 4 * w.coreN + w.slot / 16

/-- Half-tokens in a quad's buffer. -/
def State.qbuf (s : State) (quad : Nat) : Nat := sget 0 s.pkg.qbuf quad

def State.setQbuf (s : State) (quad n : Nat) : State := { s with pkg := { s.pkg with qbuf := sset 0 s.pkg.qbuf quad n } }

/-- Half-tokens of one octet pass by operand types (R93, R292). -/
def passTokens (ta tb : Nat) : Nat := if ta = 9 || ta = 10 then 4 else if ta = 15 || tb = 15 then 1 else 2

/-! ## Tiles (R288 to R290, R296, R297) -/

def elemZero : Elem := { e := 0, res := 0, spec := 0, ovf := false, stk := false }
def cellZero : CkCell := { v := 0, r := 0, ovf := false }

def Tile.elem (t : Tile) (r n : Nat) : Elem := sget elemZero t.elems (64 * r + n)
def Tile.row (t : Tile) (n : Nat) : CkCell := sget cellZero t.cr n
def Tile.col (t : Tile) (r : Nat) : CkCell := sget cellZero t.cc r

/-- A zero tile of an anchor. -/
def tileAt (anchor : BitVec 8) : Tile := { tileZero with anchor := anchor }

/-- The exponent of an element's lowest bit: anchor − 64. -/
def Tile.lsb (t : Tile) : Int := t.anchor.toInt - 64

/-- Every read checks stored bits against the residue; a mismatch is written back as poison (R300). -/
def Tile.scan (t : Tile) : Tile :=
  let cell (c : CkCell) : CkCell := if c.r == 15 || c.r == res c.v.toNat then c else { c with r := 15 }
  { t with
    elems := t.elems.map fun x => (x.1, if x.2.res == 15 || x.2.res == res x.2.e.toNat then x.2 else { x.2 with res := 15 }),
    cr := t.cr.map fun x => (x.1, cell x.2), cc := t.cc.map fun x => (x.1, cell x.2) }

/-- combine() of two SPEC codes (R297). -/
def combine (a b : BitVec 2) : BitVec 2 := if a == 0 then b else if b == 0 || a == b then a else 3

/-- SPEC of a value. -/
def specOf : FV → BitVec 2
  | .nan => 3
  | .inf s => if s then 2 else 1
  | .fin _ _ _ _ => 0

/-- A finite value in units of 2^lsb, truncated toward zero, and whether bits were lost (R296). -/
def toWindow (lsb : Int) : FV → Int × Bool
  | .fin s m e _ =>
    let d := e - lsb
    let q : Nat := if 0 ≤ d then m * 2 ^ d.toNat else m / 2 ^ (-d).toNat
    (if s then -(q : Int) else q, d < 0 && m % 2 ^ (-d).toNat != 0)
  | _ => (0, false)

/-- An integer clamped to `w` bits of two's complement, and whether it had to be. -/
def clampTo (w : Nat) (x : Int) : BitVec w × Bool :=
  let lo := -(2 ^ (w - 1) : Int)
  let hi := 2 ^ (w - 1) - 1
  (BitVec.ofInt w (max lo (min hi x)), x < lo || hi < x)

/-- Add one exact value to an element (R296). -/
def Elem.add (lsb : Int) (x : FV) (e : Elem) : Elem :=
  if specOf x != 0 then { e with spec := combine e.spec (specOf x) }
  else
    let (q, lost) := toWindow lsb x
    let (v, out) := clampTo 128 (e.e.toInt + q)
    { e with e := v, ovf := e.ovf || out, stk := e.stk || lost }

/-- An element with its residue formed anew, or poison. -/
def Elem.seal (poison : Bool) (e : Elem) : Elem := { e with res := if poison || e.res == 15 then 15 else Machine.res e.e.toNat }

/-- Add a contribution to a checksum cell (R290). -/
def CkCell.add (q : Int) (poison : Bool) (c : CkCell) : CkCell :=
  let (v, out) := clampTo 136 (c.v.toInt + q)
  { v := v, ovf := c.ovf || out, r := if poison || c.r == 15 then 15 else res v.toNat }

/-- A map of 0 to n − 1 without its default entries. -/
def mapOf [DecidableEq α] (d : α) (n : Nat) (g : Nat → α) : SMap α :=
  (List.range n).filterMap fun i => if g i = d then none else some (i, g i)

/-! ### Octet passes (R290, R292, R296, R300, R301) -/

/-- K of an operand type (R292). -/
def passK (ta : BitVec 5) : Nat := if tyW ta.toNat = 8 then 64 else 32

/-- Element `k` of a row of 16 words. -/
def rowElem (ty : BitVec 5) (ws : List (RWord 32)) (k : Nat) : Nat :=
  let w := tyW ty.toNat
  fld (ws.getD (k * w / 32) (zw 32)).v (k * w % 32 + w - 1) (k * w % 32)

/-- An operand value under its block scale (R29, R294). -/
def operand (ty : BitVec 5) (scale : BitVec 8) (pat : Nat) : FV :=
  if scale == 0xFF then .nan else (decodeF ty.toNat pat).scale (scale.toNat - 127)

/-- a[r][k] for all k. -/
def Pass.aRow (p : Pass) (r : Nat) : List FV :=
  let ws := (p.a.drop (16 * r)).take 16
  (List.range (passK p.ta)).map fun k => operand p.ta (p.ascl.getD r 127) (rowElem p.ta ws k)

/-- b[k][n] for all k. -/
def Pass.bCol (p : Pass) (n : Nat) : List FV :=
  let ws := (p.b.drop (16 * n)).take 16
  (List.range (passK p.ta)).map fun k => operand p.tb (p.bscl.getD (2 * k + n / 32) 127) (rowElem p.tb ws k)

def Pass.aBad (p : Pass) (r : Nat) : Bool := ((p.a.drop (16 * r)).take 16).any bad
def Pass.bBad (p : Pass) (n : Nat) : Bool := ((p.b.drop (16 * n)).take 16).any bad

/-- A finite value, or zero for a special one: what enters an operand sum (R290). -/
def finite (x : FV) : FV := if specOf x == 0 then x else .fin false 0 0 false

/-- The sum of the finite values at each place of a list of rows. -/
def sumRows (rows : List (List FV)) (k : Nat) : List FV :=
  (List.range k).map fun i => rows.foldl (fun a r => FV.add false a (finite (r.getD i (.fin false 0 0 false)))) (.fin false 0 0 false)

/-- The sum of truncated products (R290, R296). -/
def dotTrunc (lsb sh : Int) (xs ys : List FV) : Int :=
  (xs.zip ys).foldl (fun a x => a + (toWindow lsb (((finite x.1).mul (finite x.2)).scale sh)).1) 0

/-- The tile with a pass added; `extra` is what the sums of elements carry beyond the products (R290, R296).
(DEDUCED; log 34) -/
def Tile.addPass (t : Tile) (p : Pass) (extra : Nat → Int) : Tile :=
  let t := t.scan
  let lsb := t.lsb
  let sh := p.sh.toInt
  let rows := (List.range 8).map p.aRow
  let cols := (List.range 64).map p.bCol
  let asum := sumRows rows (passK p.ta)
  let bsum := sumRows cols (passK p.ta)
  let anyA := (List.range 8).any p.aBad
  let anyB := (List.range 64).any p.bBad
  let elem (i : Nat) : Elem :=
    let r := i / 64
    let n := i % 64
    let e := ((rows.getD r []).zip (cols.getD n [])).foldl (fun e x => e.add lsb ((x.1.mul x.2).scale sh)) (t.elem r n)
    let (v, out) := clampTo 128 (e.e.toInt + extra i)
    ({ e with e := v, ovf := e.ovf || out } : Elem).seal (p.aBad r || p.bBad n)
  { t with
    elems := mapOf elemZero 512 elem,
    cr := mapOf cellZero 64 fun n => (t.row n).add (dotTrunc lsb sh asum (cols.getD n [])) (anyA || p.bBad n),
    cc := mapOf cellZero 8 fun r => (t.col r).add (dotTrunc lsb sh (rows.getD r []) bsum) (p.aBad r || anyB) }

/-- Are all products of element (r, n) finite and untruncated? -/
def cleanProducts (t : Tile) (p : Pass) (r n : Nat) : Bool :=
  ((p.aRow r).zip (p.bCol n)).all fun x =>
    let y := (x.1.mul x.2).scale p.sh.toInt
    specOf y == 0 && !(toWindow t.lsb y).2

/-- The verdict of the pass check of R301. -/
inductive Verdict where
  | clean                       -- nothing mismatches
  | fixed                       -- one element is corrected
  | failed

/-- Compare the sums over rows and columns of what faulty multipliers add (R300, R301). (DESIGN CHOICE; log 8)
(DEDUCED; log 34) -/
def passCheck (t : Tile) (p : Pass) (flaw : List (Nat × BitVec 128)) : Verdict :=
  let at' (q : Nat → Bool) : Int := (flaw.filter fun x => q (x.1 % 512)).foldl (fun a x => a + x.2.toInt) 0
  let rs := (List.range 8).filter fun r => at' (fun i => i / 64 == r) != 0
  let cs := (List.range 64).filter fun n => at' (fun i => i % 64 == n) != 0
  match rs, cs with
  | [], [] => if flaw.all fun x => x.2.toInt % 15 == 0 then .clean else .failed
  | [r], [n] =>
    if at' (fun i => i / 64 == r) == at' (fun i => i % 64 == n) && (List.range 64).all (cleanProducts t p r) &&
        (List.range 8).all (fun q => cleanProducts t p q n) then .fixed
    else .failed
  | _, _ => .failed

/-- The passes of an MMA that follow its pass `p` in a list: dropped up to its last one. (DEDUCED; log 34) -/
def dropMma (p : Pass) : List Pass → List Pass
  | [] => []
  | q :: l => if q.wk == p.wk && q.eid == p.eid then (if q.last then l else dropMma p l) else q :: dropMma p l

/-- TINFO of a MATRIX_CHECK (R302). (DEDUCED; log 34) -/
def matrixInfo (tile oct kind : Nat) : Nat := tile % 32 + oct * 32 + kind * 256

def incr32 (x : BitVec 32) : BitVec 32 := BitVec.ofNat 32 (satInc 32 x.toNat)

/-- MATRIX_PASS (R298, R301): the oldest pass of its quad is checked, then added, corrected, replayed or discarded.
Whether a replay is clean is a free value. (DEDUCED; log 34) -/
def runPass (s : State) (i : Nat) (flaw : List (Nat × BitVec 128)) : State :=
  match s.passes[i]? with
  | none => s
  | some p =>
    if (s.passes.take i).any fun q => q.quad == p.quad then s
    else match s.wave p.wk with
    | none => { s with passes := s.passes.eraseIdx i }
    | some w =>
      let t := w.tile p.tile
      let rest := s.passes.eraseIdx i
      let done (w : Wave) (t : Tile) : State := ({ s with passes := rest }).putWave p.wk (w.setTile p.tile t)
      match passCheck t.scan p flaw with
      | .clean =>
        done w (t.addPass p fun j => (flaw.filter fun x => x.1 % 512 == j).foldl (fun a x => a + x.2.toInt) 0)
      | .fixed => (done { w with corr := incr32 w.corr } (t.addPass p fun _ => 0)).freezeDies [w.die] 1
      | .failed =>
        let s := s.freezeDies [w.die] 1
        let done (w : Wave) (t : Tile) : State := ({ s with passes := rest }).putWave p.wk (w.setTile p.tile t)
        if (Config.freeWord (s.ix 8000)).getLsbD 0 then done { w with rpl := incr32 w.rpl } (t.addPass p fun _ => 0)
        else
          let m : MCheck := { eid := p.eid, tiles := p.tiles, addr := p.ia, info := BitVec.ofNat 64 (matrixInfo p.tile p.oct 0) }
          let rest := if p.last then rest else rest.take i ++ dropMma p (rest.drop i)
          -- a path that has ended raises nothing any more
          let w := if (w.paths ++ w.spilled).any fun q => q.eid == p.eid then { w with mcheck := w.mcheck ++ [m] } else w
          ({ s with passes := rest }).putWave p.wk w

/-- MATRIX_PASS (R301). -/
def execMatrixPass (i : Nat) (flaw : List (Nat × BitVec 128)) (s : State) : Host.Outcome State Fault Refusal :=
  answer (runPass s i flaw)

/-! ## Operands (R291, R293 to R295) -/

/-- The octets of OCTM, rising, with their tiles. -/
def octTiles (f : Fields) : List (Nat × Nat) :=
  let l := lanesOf (xOctm f)
  l.zip ((List.range l.length).map (f.dst.toNat + ·))

/-- What issue needs to know of an instruction that names the tiles of OCTM. -/
def kX (f : Fields) (drain : Bool) : Kind :=
  { cls := .c, drain := drain, tiles := maskOf 32 ((octTiles f).map (·.2)) }

/-- A memory operand (R294): its pair, and the rows that it places. -/
structure MemOp where
  reg  : Nat
  base : BitVec 64
  desc : BitVec 64
  wher : Nat
  rows : List (BitVec 64 × Nat)     -- start of a row, and the bits that rotation changes
  size : Nat                        -- bytes of a row
  usesT : Bool

def MemOp.scl (m : MemOp) : Bool := m.desc.getLsbD 43

/-- The address of byte `o` of a row. -/
def rowByte (row : BitVec 64 × Nat) (o : Nat) : BitVec 64 := row.1 + BitVec.ofNat 64 (o ^^^ row.2)

/-- The memory operand of pair `x`, with rows (place in units of TPITCH, row number). -/
def memOp (t : Th) (x wher size : Nat) (usesT : Bool) (rows : List (Nat × Nat)) : MemOp :=
  let base := (t.sreg x).v
  let d := (t.sreg (x + 1)).v
  let rot := fld d 42 40
  { reg := x, base := base, desc := d, wher := wher, size := size, usesT := usesT,
    rows := rows.map fun p =>
      (base + BitVec.ofNat 64 (p.1 * fld d 39 20 + p.2 * fld d 19 0), if rot = 0 then 0 else p.2 / 2 ^ (rot - 1) % 8 * 16) }

/-- The blocks that an operand touches, rising. -/
def MemOp.blocks (m : MemOp) : List Nat :=
  m.rows.foldl (fun l r => (List.range (m.size / 16)).foldl (fun l i => ninsert l ((rowByte r (16 * i)).toNat / 64)) l) []

/-- Is the base or a pitch misaligned (R294)? -/
def MemOp.crooked (m : MemOp) : Bool :=
  m.base.toNat % 64 != 0 || fld m.desc 19 0 % (if fld m.desc 42 40 = 0 then 64 else 128) != 0 ||
    (m.usesT && fld m.desc 39 20 % 64 != 0)

/-- The extra cycles that reading its groups and its scratchpad operands costs the matrix array are counted. (DESIGN
CHOICE; log 29) -/
def Th.arrayReads (t : Th) : Th := { t with s := t.s.count t.w 0x0C (Config.conflictCycles t.s.steps t.w.coreN) }

/-- The checks of R295 over the memory operands, then the residues of their pairs; `k` gets the places of the blocks. -/
def operands (t : Th) (op : Nat) (ms : List MemOp) (nd : Need) (k : Th → List (Nat × Loc) → Res) : Res :=
  let regs := ms.flatMap fun m => [(m.reg, m.wher), (m.reg + 1, m.wher)]
  match regs.find? fun r => bad (t.sreg r.1) with
  | some r => .trap t (poisonUse 0 r.1)
  | none => match ms.find? MemOp.crooked with
  | some m => .trap t { cause := cMisaligned, addr := m.base }
  | none =>
    let bs := ms.foldl (fun l m => m.blocks.foldl ninsert l) []
    match resolveInOrder t.s t.agent { noStk := true, noDsc := true } nd 64 (bs.map fun b => (0, BitVec.ofNat 64 (64 * b))) with
    | (s, .error e) => .merr { t with s := s.revert t.s } e
    | (s, .ok ls) => checked { t with s := s } op (regs.map fun r => t.srcS 64 r.1 r.2) fun t => k t.arrayReads (bs.zip ls)

/-- A block as read for an operand: its words, whether each passes its check, and its scale. -/
structure OpBlk where
  num   : Nat
  blk   : Blk
  scale : BitVec 8

/-- Read the blocks of operands: a word that fails its check is read once more (R300). -/
def readOps (t : Th) (ls : List (Nat × Loc)) (k : Th → List OpBlk → Res) : Res :=
  let f : Fields := { sub := 0, gsel := 0, gneg := false, hold := 0, dst := 0, sa := 0, sb := 0, sc := 0, ty := 0, rm := 0,
                      sat := false, immf := false, scls := 0, hi := 0x00F00000 }
  let places := ls.map (·.2)
  if places.isEmpty then k t []
  else loadWaits t f places fun t =>
    let (t, bs) := readCounted t f places
    k t (ls.map fun x =>
      let b := blkAt bs x.2
      let again := rereadBlk t.s t.agent x.2
      let ws := (List.range 16).map fun i => if sound (b.word i) then b.word i else again.word i
      { num := x.1, blk := blkOf ws b.pair, scale := (pairAt t bs x.2).scale })

def opBlk (bs : List OpBlk) (a : BitVec 64) : OpBlk :=
  (bs.find? fun b => b.num == a.toNat / 64).getD { num := 0, blk := emptyBlk, scale := 127 }

/-- The 32-bit word that holds byte address `a`. -/
def opWord (bs : List OpBlk) (a : BitVec 64) : RWord 32 := (opBlk bs a).blk.word (a.toNat % 64 / 4)

/-- The bytes of an element at `a`, with its word's marks. -/
def opElem (bs : List OpBlk) (a : BitVec 64) (n : Nat) : Src :=
  let w := opWord bs a
  { v := fld w.v (8 * (a.toNat % 4 + n) - 1) (8 * (a.toNat % 4)), bad := bad w, ok := sound w, wher := 0, reg := 0 }

/-! ## MMA (R296 to R300, R302) -/

/-- The word whose elements all have the value zero: DYAD8's zero is not byte 0 (R296, R299). (DEDUCED; log 36) -/
def zeroWord (ty : BitVec 5) : RWord 32 := if ty == 15 then mkW 0x77777777 else zw 32

/-- The words of row `r` of octet `j` of A: 16 of them, of value zero outside EXM. -/
def aWords (t : Th) (f : Fields) (m : Option MemOp) (bs : List OpBlk) (i j r : Nat) : List (RWord 32) :=
  let L := 8 * j + r
  (List.range 16).map fun w =>
    if !t.p.exm.getLsbD L then zeroWord f.ty
    else match m with
    | none => t.vreg (f.sa.toNat + w) L
    | some m => opWord bs (rowByte (m.rows.getD (8 * i + r) (0, 0)) (4 * w))

/-- The words of column `n` of B: 16 of them. -/
def bWords (t : Th) (f : Fields) (m : Option MemOp) (bs : List OpBlk) (n : Nat) : List (RWord 32) :=
  let sz := tyW (xBty f).toNat / 8
  (List.range 16).map fun w =>
    match m with
    | none => if t.p.exm.getLsbD n then t.vreg (f.sb.toNat + w) n else zeroWord (xBty f)
    | some m =>
      let es := (List.range (4 / sz)).map fun i => opElem bs (rowByte (m.rows.getD (4 / sz * w + i) (0, 0)) (n * sz)) sz
      let v := es.foldr (fun e a => e.v + 2 ^ (8 * sz) * a) 0
      if es.all (·.ok) then mkP (es.any (·.bad)) (BitVec.ofNat 32 v)
      else { v := BitVec.ofNat 32 v, r := res (v + 1) }

/-- The octet passes of an MMA, with its first KIND 2 failure: octet and tile. -/
structure Issued where
  passes : List Pass
  fail   : Option (Nat × Nat)

/-- Form the passes of an MMA from its operands as they stand (R296, R299, R300). -/
def mmaPasses (t : Th) (f : Fields) (ma mb : Option MemOp) (bs : List OpBlk) : Issued :=
  let cols := (List.range 64).flatMap (bWords t f mb bs)
  let live := (octTiles f).filter fun x => (t.p.exm.extractLsb' (8 * x.1) 8) != 0
  let k := passK f.ty
  let bscl : List (BitVec 8) := match mb with
    | some m => if m.scl then (List.range k).flatMap fun i =>
        let row := m.rows.getD i (0, 0)
        [(opBlk bs (rowByte row 0)).scale, (opBlk bs (rowByte row (m.size / 2))).scale]
      else []
    | none => []
  let mk (x : Nat × Nat) : Pass :=
    let i := x.2 - f.dst.toNat
    { quad := t.w.quadN, wk := t.wk, eid := t.p.eid, ia := t.p.pia, tile := x.2, tiles := (kX f false).tiles, oct := x.1,
      last := false, ta := f.ty, tb := xBty f, sh := xAnch f, a := (List.range 8).flatMap (aWords t f ma bs i x.1),
      ascl := match ma with
        | some m => if m.scl then (List.range 8).map fun r =>
            if t.p.exm.getLsbD (8 * x.1 + r) then (opBlk bs (rowByte (m.rows.getD (8 * i + r) (0, 0)) 0)).scale else 127
          else []
        | none => [],
      b := cols, bscl := bscl }
  let ps := live.map mk
  let bBad := !cols.all sound
  let fails := ps.filter fun p => bBad || !p.a.all sound
  let good := ps.filter fun p => !bBad && p.a.all sound
  { passes := (good.dropLast) ++ (good.getLast?.map fun p => { p with last := true }).toList,
    fail := fails.head?.map fun p => (p.oct, p.tile) }

/-- Note a KIND 2 failure of an instruction on its path (R302, R306, R368). (DEDUCED; log 34) -/
def Th.noteFail (t : Th) (tiles : BitVec 32) (oct tile : Nat) : Th :=
  { t with s := t.s.freezeDies [t.w.die] 1, w := { t.w with mcheck := t.w.mcheck ++
      [{ eid := t.p.eid, tiles := tiles, addr := t.p.pia, info := BitVec.ofNat 64 (matrixInfo tile oct 2) }] } }

/-- A path that waits has drawn nothing. (DEDUCED; log 33) -/
def undrawn (s : State) : Res → Res
  | .hold t => .hold { t with s := { t.s with pkg := s.pkg } }
  | r => r

/-- MMA (R93, R295, R296): token-bound until the buffer holds its cost; then its operands are read and its passes join
the quad's array. (DEDUCED; log 33) -/
def mma (f : Fields) (t : Th) (_ : BitVec 64) : Res :=
  let ta := f.ty.toNat
  let tb := (xBty f).toNat
  let octs := octTiles f
  let cost := octs.length * passTokens ta tb
  let q := t.w.quadN
  if t.s.qbuf q < cost then .hold { t with p := { t.p with tokWait := true } }
  else
    let s0 := t.s
    let t := { t with s := t.s.setQbuf q (t.s.qbuf q - cost) }
    let rows := octs.flatMap fun x => (List.range 8).map fun r => (x.1, r)
    let ma := if xAkind f then some (memOp t f.sa.toNat 1 64 true rows) else none
    let szb := tyW tb / 8
    let mb := if xBkind f then some (memOp t f.sb.toNat 2 (64 * szb) false ((List.range (passK f.ty)).map fun k => (0, k))) else none
    undrawn s0 (operands t 0xD0 (ma.toList ++ mb.toList) { r := true } fun t ls => readOps t ls fun t bs =>
      let x := mmaPasses t f ma mb bs
      let t := { t with s := { t.s with passes := t.s.passes ++ x.passes } }
      .done (match x.fail with
        | some (o, d) => t.noteFail (kX f false).tiles o d
        | none => t))

/-- MMA (R296). -/
def execMma (f : Fields) : State → Host.Outcome State Fault Refusal := issue (.mma f) f (kX f false) (mma f)

/-- Wait until the path's passes into the tiles of a mask have been added (R299). -/
def afterPasses (t : Th) (tiles : BitVec 32) (k : Res) : Res :=
  if t.s.passes.any fun p => p.wk == t.wk && tiles.getLsbD p.tile && t.before p.eid then .hold t else k

/-- MZERO (R305). -/
def execMzero (f : Fields) : State → Host.Outcome State Fault Refusal :=
  issue (.mzero f) f (kX f false) fun t _ => afterPasses t (kX f false).tiles (
    .done { t with w := (octTiles f).foldl (fun w x => w.setTile x.2 (tileAt (xAnch f))) t.w })

/-! ## MDRAIN (R303, R304) -/

/-- The signed sum of elements. -/
def sumElems (t : Tile) (l : List (Nat × Nat)) : Int := l.foldl (fun a x => a + (t.elem x.1 x.2).e.toInt) 0

def Elem.odd (e : Elem) : Bool := e.stk || e.ovf || e.spec != 0

/-- The check of R303: the element to rebuild with its value, nothing to do, or a failure. (DEDUCED; log 35) -/
def drainCheck (t : Tile) : Except Unit (Option (Nat × Nat × Int)) :=
  let ns := List.range 64
  let rs := List.range 8
  let rowX (r : Nat) : Bool := (t.col r).r != 15 && !(t.col r).ovf && ns.all fun n => !(t.elem r n).odd
  let colX (n : Nat) : Bool := (t.row n).r != 15 && !(t.row n).ovf && rs.all fun r => !(t.elem r n).odd
  let lost (r n : Nat) : Bool := (t.elem r n).res == 15
  let badR := rs.filter fun r => rowX r && !(ns.any (lost r)) && sumElems t (ns.map fun n => (r, n)) != (t.col r).v.toInt
  let badC := ns.filter fun n => colX n && !(rs.any fun r => lost r n) && sumElems t (rs.map fun r => (r, n)) != (t.row n).v.toInt
  let unknown := rs.flatMap fun r => (ns.filter fun n => lost r n && rowX r && colX n).map fun n => (r, n)
  let rebuild (r n : Nat) : Except Unit (Option (Nat × Nat × Int)) :=
    let others := (rs.filter (· != r)).map fun k => (k, n)
    let v := (t.row n).v.toInt - sumElems t others
    if others.any (fun x => lost x.1 x.2) || v + sumElems t ((ns.filter (· != n)).map fun m => (r, m)) != (t.col r).v.toInt then
      .error ()
    else .ok (some (r, n, v))
  match badR, badC, unknown with
  | [], [], [] => .ok none
  | [r], [n], [] => rebuild r n
  | [], [], [(r, n)] => rebuild r n
  | _, _, _ => .error ()

/-- The tile with an element rebuilt. -/
def Tile.rebuilt (t : Tile) (r n : Nat) (v : Int) : Tile :=
  let e := BitVec.ofInt 128 v
  { t with elems := sset elemZero t.elems (64 * r + n) { (t.elem r n) with e := e, res := res e.toNat } }

/-- The pattern an element drains as (R304). -/
def drainPat (ty : Nat) (r : Rounding) (lsb : Int) (e : Elem) : Nat :=
  if e.ovf || e.spec == 3 then canonNan ty
  else if e.spec != 0 then roundFp ty r (.inf (e.spec == 2))
  else if e.e == 0 then 0
  else roundFp ty r (.fin (e.e.toInt < 0) e.e.toInt.natAbs lsb e.stk)

/-- One drained element: tile number, row, lane, pattern, poison. -/
structure Drained where
  i   : Nat
  r   : Nat
  n   : Nat
  pat : Nat
  psn : Bool

/-- Drain the tiles in order, rows in order; under .rs each lane steps once per element (R304). (DEDUCED; log 35) -/
def drainAll (t : Th) (f : Fields) (tiles : List (Nat × Tile)) : Th × List Drained :=
  let ty := f.ty.toNat
  let one (acc : Th × List Drained) (x : Nat × Tile × Nat × Nat) : Th × List Drained :=
    let (i, tile, r, n) := x
    let e := tile.elem r n
    let g := acc.1.gen n
    let g' := genStep g.v
    let psn := e.res == 15 || (f.rm == 5 && bad g)
    let pat := drainPat ty { rm := f.rm.toNat, sat := f.sat, st := g'.toNat } tile.lsb e
    let d : Drained := { i := i, r := r, n := n, pat := pat, psn := psn }
    (if f.rm == 5 then acc.1.setGen n (mkP (bad g) g') else acc.1, d :: acc.2)
  let cells := tiles.flatMap fun x => (List.range 8).flatMap fun r => (lanesOf t.p.exm).map fun n => (x.1, x.2, r, n)
  let (t, l) := cells.foldl one (t, [])
  (t, l.reverse)

/-- The rows of a tile group in memory: place in units of TPITCH, row (R294). (DEDUCED; log 35) -/
def groupRows (f : Fields) : List (Nat × Nat) :=
  (List.range (octTiles f).length).flatMap fun i => (List.range 8).map fun r => (i, r)

/-- The tiles of the instruction after their check: tile number in the group, name, tile, and whether it was repaired;
or the octet and tile that fail. -/
def checkTiles (w : Wave) (f : Fields) : Except (Nat × Nat) (List (Nat × Nat × Tile × Bool)) :=
  (octTiles f).foldr (fun x acc =>
    let t := (w.tile x.2).scan
    match drainCheck t, acc with
    | .error _, _ => .error x
    | .ok _, .error y => .error y
    | .ok none, .ok l => .ok ((x.2 - f.dst.toNat, x.2, t, false) :: l)
    | .ok (some (r, n, v)), .ok l => .ok ((x.2 - f.dst.toNat, x.2, t.rebuilt r n v, true) :: l)) (.ok [])

/-- After every check: the repaired tiles are kept, .clr zeroes them, CORR counts (R303, R304). (DEDUCED; log 35) -/
def keepTiles (t : Th) (f : Fields) (ts : List (Nat × Nat × Tile × Bool)) : Th :=
  { t with s := if ts.any (·.2.2.2) then t.s.freezeDies [t.w.die] 1 else t.s, w := ts.foldl (fun w x =>
      let w := if x.2.2.2 then { w with corr := incr32 w.corr } else w
      w.setTile x.2.1 (if f.sub == 1 then tileAt x.2.2.1.anchor else x.2.2.1)) t.w }

/-- The wave with the storage errors of the tiles read written back (R300). (DEDUCED; log 35) -/
def scanned (w : Wave) (read : List (Nat × Nat)) : Wave := read.foldl (fun w x => w.setTile x.2 (w.tile x.2).scan) w

/-- MDRAIN to registers or memory (R304). (DEDUCED; log 35) -/
def mdrain (f : Fields) (t : Th) (_ : BitVec 64) : Res :=
  -- the storage errors of the tiles read are written back by the read itself, so a trap keeps them (R300)
  let back (t' : Th) (read : List (Nat × Nat)) (x : Trap) : Res :=
    .trap { t' with s := { t.s with badPa := t'.s.badPa },
                    w := scanned t'.w read } x
  let size := if f.ty == 11 then 4 else 2
  let gens : List Src := if f.rm == 5 then (lanesOf t.p.exm).map fun n =>
      let g := t.gen n
      { v := 0, bad := bad g, ok := sound g, wher := 5, reg := 0 } else []
  afterPasses t (kX f true).tiles (
    let m := if xAkind f then some (memOp t f.sa.toNat 1 (64 * size) true (groupRows f)) else none
    operands t 0xD2 m.toList { w := true } fun t ls =>
      match checkTiles t.w f with
      | .error (o, d) => back t ((octTiles f).takeWhile (· != (o, d)) ++ [(o, d)]) { cause := cMatrixCheck, info := matrixInfo d o 1 }
      | .ok ts =>
        let t := { t with w := scanned t.w (octTiles f) }
        let ds := ts.map fun x => (x.1, x.2.2.1)
        match m with
        | none => checked t 0xD2 gens fun t =>
          let (t', out) := drainAll t f ds
          .done (keepTiles (out.foldl (fun t d =>
            t.putV (f.sa.toNat + 8 * d.i + d.r) d.n false d.psn d.pat) t') f ts)
        | some m =>
          let addr (d : Drained) : BitVec 64 := rowByte (m.rows.getD (8 * d.i + d.r) (0, 0)) (d.n * size)
          let loc (d : Drained) : Loc :=
            let a := addr d
            match ls.find? fun x => x.1 == a.toNat / 64 with
            | some x => (match x.2 with
              | .ls o => .ls (o + a.toNat % 64)
              | .dsc o => .dsc (o + a.toNat % 64)
              | .mem va pa k => .mem (va + a.toNat % 64) (pa + a.toNat % 64) k)
            | none => .ls 0
          match (drainAll t f ds).2.find? fun d => d.psn && guards t (loc d) with
          | some d => back t (octTiles f) (poisonUse 3 0 0 (addr d))
          | none => checked t 0xD2 gens fun t =>
            captured t (ls.map (·.2)) fun t =>
              let (t', out) := drainAll t f ds
              -- one relaxed store per element, in order (R304): a part-word store leaves a poisoned word poisoned (R235)
              let s := out.foldl (fun s d => s.storeAll t'.agent [{ loc := loc d, n := size, v := d.pat, poison := d.psn }] false false) t'.s
              .done (keepTiles (({ t' with s := s } : Th).made t'.s.ms.nextSid) f ts))

/-- MDRAIN (R304). -/
def execMdrain (f : Fields) : State → Host.Outcome State Fault Refusal := issue (.mdrain f) f (kX f true) (mdrain f)

/-! ## MLOAD (R306) -/

/-- Add one loaded element to a tile: its value is clamped to the window, then added (R306). -/
def Tile.load (t : Tile) (r n : Nat) (x : FV) (psn : Bool) : Tile :=
  let (c, out) := clampTo 128 (toWindow t.lsb x).1
  let q := c.toInt
  let e := (t.elem r n).add t.lsb x
  let (v, beyond) := clampTo 128 ((t.elem r n).e.toInt + q)
  let e := if specOf x != 0 then e else { e with e := v, ovf := (t.elem r n).ovf || out || beyond }
  { t with
    elems := sset elemZero t.elems (64 * r + n) (e.seal psn),
    cr := sset cellZero t.cr n ((t.row n).add q psn), cc := sset cellZero t.cc r ((t.col r).add q psn) }

/-- MLOAD (R306): a word that fails its check twice leaves every tile as it stood. -/
def mload (f : Fields) (t : Th) (_ : BitVec 64) : Res :=
  let ty := f.ty.toNat
  let size := if ty = 9 || ty = 10 then 2 else 4
  let tiles := (kX f false).tiles
  afterPasses t tiles (
    let m := if xAkind f then some (memOp t f.sa.toNat 1 (64 * size) true (groupRows f)) else none
    operands t 0xD3 m.toList { r := true } fun t ls => readOps t ls fun t bs =>
      let src (i r n : Nat) : Src := match m with
        | none => t.srcV (8 * size) (f.sa.toNat + 8 * i + r) n 1
        | some m => opElem bs (rowByte (m.rows.getD (8 * i + r) (0, 0)) (n * size)) size
      let scale (i r n : Nat) : BitVec 8 := match m with
        | some m => if m.scl then (opBlk bs (rowByte (m.rows.getD (8 * i + r) (0, 0)) (n * size))).scale else 127
        | none => 127
      let cells := (octTiles f).flatMap fun x => (List.range 8).flatMap fun r => (lanesOf t.p.exm).map fun n => (x, r, n)
      match cells.find? fun c => !(src (c.1.2 - f.dst.toNat) c.2.1 c.2.2).ok with
      | some c => .done (t.noteFail tiles c.1.1 c.1.2)
      | none =>
        let tile (w : Wave) (x : Nat × Nat) : Tile :=
          let start := if f.sub == 0 then tileAt (w.tile x.2).anchor else (w.tile x.2).scan
          (List.range 8).foldl (fun tl r => (lanesOf t.p.exm).foldl (fun tl n =>
            let i := x.2 - f.dst.toNat
            let e := src i r n
            tl.load r n (operand f.ty (scale i r n) e.v) e.bad) tl) start
        .done { t with w := (octTiles f).foldl (fun w x => w.setTile x.2 (tile w x)) t.w })

/-- MLOAD (R306). -/
def execMload (f : Fields) : State → Host.Outcome State Fault Refusal := issue (.mload f) f (kX f false) (mload f)

/-! ## MTOKEN and MSTAT (R305, R307) -/

/-- MTOKEN (R305): token-bound until the buffer holds n half-tokens. -/
def execMtoken (f : Fields) : State → Host.Outcome State Fault Refusal :=
  issue (.mtoken f) f kC fun t _ =>
    let n := (xOctm f).toNat
    if n ≤ t.s.qbuf t.w.quadN then .done t else .hold { t with p := { t.p with wait := .mtoken n, tokWait := true } }

/-- MTOKEN_READY (R305): the waiting MTOKEN retires. -/
def execMtokenReady (wk eid : Nat) (s : State) : Host.Outcome State Fault Refusal :=
  answer (match s.view wk eid with
    | none => s
    | some t => match t.p.wait with
      | .mtoken n => if t.p.st == .running && n ≤ s.qbuf t.w.quadN then finish t {} (.done t) else s
      | _ => s)

/-- What MSTAT.tile reports (R307). -/
def tileStat (t : Tile) : BitVec 64 :=
  let n (q : Elem → Bool) : Nat := (t.elems.filter fun x => q x.2).length
  BitVec.ofNat 64 (n (·.spec != 0) * 2 ^ 54 + n (·.res == 15) * 2 ^ 44 + n (·.ovf) * 2 ^ 34 + n (·.stk) * 2 ^ 24 + t.anchor.toNat)

/-- MSTAT.tile (R307). -/
def execMstatTile (f : Fields) : State → Host.Outcome State Fault Refusal :=
  issue (.mstatTile f) f { cls := .c, tiles := maskOf 32 [f.dst.toNat] } fun t _ =>
    splitCheck t f.sa.toNat (afterPasses t (maskOf 32 [f.dst.toNat]) (
      let tile := (t.w.tile f.dst.toNat).scan
      .done ({ t with w := t.w.setTile f.dst.toNat tile }.setS f.sa.toNat (mkW (tileStat tile)))))

/-- MSTAT.cnt (R307). -/
def execMstatCnt (f : Fields) : State → Host.Outcome State Fault Refusal :=
  issue (.mstatCnt f) f kC fun t _ =>
    splitCheck t f.sa.toNat (.done (t.setS f.sa.toNat (mkW (t.w.corr ++ t.w.rpl))))

end Sys2Proof.Machine
end

