-- ==== Sys2Proof/Machine/Sched.lean ====
section
/-!
DEFINITION. What moves next: package time, the paths that quads may issue and their choice, and the events of the machine
that have come due (R5, R89 to R91, R93, R99, R139, R143, R203, R212, R365).
-/
namespace Sys2Proof.Machine

/-! ## Schedulable paths (R143, R203, R212) -/

/-- The join of greatest level, live in the table or spilled, with a running child in the table; its running children.
(DEDUCED; log 28) -/
def runningArms (w : Wave) : List Path :=
  let arms (j : Path) : List Path := w.paths.filter fun p => p.parent == some j.eid && p.st == .running
  let joins := (w.paths ++ w.spilled).filter fun j => j.st == .join && !(arms j).isEmpty
  let best := joins.foldl (fun (m : Option Path) j => match m with
    | some k => if k.level.toNat < j.level.toNat then some j else m
    | none => some j) none
  match best with
  | some j => arms j
  | none => w.paths.filter fun p => p.parent.isNone && p.st == .running

/-- The paths of a wave that are not kept from issue by its joins or by a handler (R143, R203). -/
def awake (w : Wave) : List Path :=
  if w.ended then []
  else if w.hmode then w.paths.filter fun p => p.eid == w.hpath && p.st == .running
  else runningArms w

/-- Does the path still wait? A fence waits while its condition does not hold, a stalled access while a replica block of the die
is locked or a home is being reset, BRKPT while a debugger holds it: these end when the instruction is issued again. -/
def stillWaits (s : State) (w : Wave) (p : Path) : Bool :=
  p.held.isSome || (match p.wait with
    | .none => false
    | .brkpt => false
    | .replica t0 => (s.ms.locks.any (fun l => l.1 == w.die) || (List.range 8).any fun d => !s.online d) &&
        (s.ptime - t0).toNat < 2000
    | .fence _ sc _ => s.mustWait w.coreN p.obs sc
    | _ => true)

/-- The paths a wave offers: a half-wave offers its taken arm, or the other while the taken one waits (R89, R212).
(DESIGN CHOICE; log 13) (DEDUCED; log 28) -/
def offered (s : State) (w : Wave) : List Path :=
  let l := awake w
  if w.w32 && 1 < l.length then
    match l.find? fun p => p.taken && !stillWaits s w p with
    | some p => [p]
    | none => l.filter fun p => !p.taken
  else l

/-- Is the wave's crew in state `st`? -/
def State.crewIs (s : State) (w : Wave) (st : CrewState) : Bool :=
  match s.crew w.crew with
  | some c => c.st == st
  | none => false

/-! ## Readiness (R89, R93) -/

/-- The half-tokens that the path's next instruction draws, if it is an MMA. -/
def nextCost (p : Path) : Nat :=
  match p.line with
  | some (_, d) => match decodeRaw (slotOf d (p.pia.toNat % 8)) with
    | .mma f => (octTiles f).length * passTokens f.ty.toNat (xBty f).toNat
    | _ => 0
  | none => 0

/-- Has the line of the path's address been delivered (R99)? -/
def lineHere (p : Path) : Bool :=
  match p.line with
  | some (l, _) => l == p.pia.extractLsb' 6 58
  | none => false

/-- May the path issue, tokens aside: it is not held, and waits for nothing but a fence whose condition may hold, or a
stalled access that is tried again? -/
def issuable (s : State) (w : Wave) (p : Path) : Bool :=
  s.crewIs w .resident && p.held.isNone && (lineHere p || meets w p) &&
    match p.wait with
    | .none => true
    | .brkpt => true
    | .replica _ => true
    | .fence _ sc _ => !s.mustWait w.coreN p.obs sc
    | _ => false

/-- Does the path wait in MTOKEN for more tokens than its quad holds (R93)? -/
def waitsTokens (s : State) (p : Path) (quad : Nat) : Bool := match p.wait with
  | .mtoken n => s.qbuf quad < n
  | _ => false

/-- Does the path lack tokens alone, scoreboard and operand banks aside (R89)? -/
def lacksTokens (s : State) (w : Wave) (p : Path) : Bool :=
  waitsTokens s p w.quadN || (issuable s w p && !meets w p && s.qbuf w.quadN < nextCost p)

/-- The offered paths of a quad: wave key, wave, path. (DEDUCED; log 28) -/
def quadPaths (s : State) (quad : Nat) : List (Nat × Wave × Path) :=
  (s.waves.filter fun x => x.2.quadN == quad).flatMap fun x => (offered s x.2).map fun p => (x.1, x.2, p)

/-- The quad's buffer draws from its die's purse (R93). -/
def drawTokens (s : State) (quad : Nat) (wants : Bool) : State :=
  let buf := s.qbuf quad
  let m := min 16 (32 - buf)
  let die := quad / 192
  let purse := sget 0 s.pkg.purse die
  if (buf < 16 || wants) && m != 0 && m * (tokenUnits / 2) ≤ purse then
    let s := s.setQbuf quad (buf + m)
    { s with pkg := { s.pkg with purse := sset 0 s.pkg.purse die (purse - m * (tokenUnits / 2)), drawn := s.pkg.drawn + m } }
  else s

/-- The draws of a cycle on the die of `quad`, by rising COREID and QUADID; `wants` says whether a path of `quad` is
token-bound (R93). -/
def drawDie (s : State) (quad : Nat) (wants : Bool) : State :=
  (List.range 192).foldl (fun s i =>
    let q := quad / 192 * 192 + i
    drawTokens s q (if q = quad then wants
      else s.waves.any fun x => x.2.quadN == q && (awake x.2).any fun p => waitsTokens s p q)) s

/-- Count a cycle in which paths of the quad are token-bound (R89, R94, R96, R369). -/
def countBound (s : State) (quad : Nat) (l : List (Nat × Wave × Path)) : State :=
  if l.isEmpty then s
  else
    let waves := uniq (l.map (·.1))
    let s := { s with pkg := { s.pkg with bound := setBit s.pkg.bound (quad / 192) true } }
    waves.foldl (fun s wk => match s.wave wk with
      | some w => (s.count w 0x0B 1).putWave wk { w with tokwait := w.tokwait + 1 }
      | none => s) s

/-! ## The choice (R90) -/

/-- The earlier of two paths where R90 breaks a tie: the lower wave slot, then the taken arm. -/
def tieBefore (a b : Nat × Wave × Path) : Bool :=
  a.1 / 2 < b.1 / 2 || (a.1 / 2 == b.1 / 2 && (if a.2.2.taken == b.2.2.taken then a.1 ≤ b.1 else a.2.2.taken))

/-- Greatest age, ties as in step 1. -/
def eldest (l : List (Nat × Wave × Path)) : Option (Nat × Wave × Path) :=
  l.foldl (fun m x => match m with
    | none => some x
    | some y => if y.2.2.age < x.2.2.age || (y.2.2.age == x.2.2.age && tieBefore x y) then some x else m) none

/-- The path that a quad picks among ready paths; `last` issued last (R90, R139). -/
def pick (last : Option (Nat × Nat)) (l : List (Nat × Wave × Path)) : Option (Nat × Wave × Path) :=
  let promoted := l.filter fun x => 2048 ≤ x.2.2.age
  if !promoted.isEmpty then eldest promoted
  else
    let top := l.foldl (fun m x => max m x.2.1.prio.toNat) 0
    let l := l.filter fun x => x.2.1.prio.toNat == top
    match l.find? fun x => last == some (x.1, x.2.2.eid) && !x.2.2.yielded with
    | some x => some x
    | none => eldest l

/-- A cycle ages the ready paths that are not picked, and a YIELD of the cycle before is over. -/
def ageAll (s : State) (ready : List (Nat × Nat)) (picked : Option (Nat × Nat)) (quad : Nat) : State :=
  let one (wk : Nat) (p : Path) : Path :=
    let me := (wk, p.eid)
    { p with yielded := false, age := if ready.contains me && picked != some me then p.age + 1 else p.age }
  { s with waves := s.waves.map fun x => if x.2.quadN == quad then (x.1, { x.2 with paths := x.2.paths.map (one x.1) }) else x }

/-- QUAD_ISSUE_CYCLE (R89, R90, R93): a cycle of the die in which this quad may issue. The quads of the die draw tokens, the
quad ages its ready paths and selects one. Whether scoreboard and operand banks let a path be ready is a free value; in this
cycle they let no path of another quad be (log 13). -/
def quadCycle (s : State) (quad : Nat) : State :=
  let clear := Config.freeWord (s.ix 50001)
  let l := quadPaths s quad
  let free := ((List.range l.length).zip l).filterMap fun x => if clear.getLsbD (x.1 % 64) then none else some x.2
  let short := (free.filter fun x => lacksTokens s x.2.1 x.2.2) ++
    (l.filter fun x => waitsTokens s x.2.2 quad && !(free.any fun y => y.1 == x.1 && y.2.2.eid == x.2.2.eid))
  let s := drawDie s quad !short.isEmpty
  let s := countBound s quad (short.filter fun x => lacksTokens s x.2.1 x.2.2)
  let ready := free.filter fun x => issuable s x.2.1 x.2.2 && (meets x.2.1 x.2.2 || nextCost x.2.2 ≤ s.qbuf quad)
  let picked := (pick (slook s.pkg.last quad) ready).map fun x => (x.1, x.2.2.eid)
  let s := ageAll s (ready.map fun x => (x.1, x.2.2.eid)) picked quad
  match picked with
  | some x =>
    let note (t : Th) : QuadIssue := { pasid := t.w.pasid, path := tracePath s t.w t.p, pia := t.p.pia }
    { s with sel := some x, pkg := { s.pkg with
        last := sput s.pkg.last quad x,
        issued := match s.view x.1 x.2 with | some t => sput s.pkg.issued quad (note t) | none => s.pkg.issued } }
  | none => s

/-- QUAD_ISSUE_CYCLE (R90). -/
def execQuadIssueCycle (quad : Nat) (s : State) : Host.Outcome State Fault Refusal :=
  answer (if s.sel.isNone then quadCycle s quad else s)

/-- PATH_PROMOTE (R90): a path is promoted by its age alone, which its quad's cycles count. -/
def execPathPromote (wk eid : Nat) (s : State) : Host.Outcome State Fault Refusal :=
  let _ := (wk, eid)
  answer s

/-- A line the control thread may fetch ahead of need: the next one, or that of an open level's body start (R103). -/
def aheadLines (t : Th) : List (BitVec 64) :=
  BitVec.ofNat 64 (t.p.pia.toNat / 64 * 64 + 64) :: (List.range t.w.d).map fun n => (t.w.level n).starta

/-- Fetch a line ahead of need, which one is a free value: the core holds it if it meets no cause and passes its checks, and
else drops it and counts it on SPDROP (R103, R254). (DESIGN CHOICE; log 7) -/
def fetchAhead (t : Th) : State :=
  let l := aheadLines t
  let a := l.getD ((Config.freeWord (t.s.ix 50005)).toNat % l.length) 0
  let line := a.extractLsb' 6 58
  match translate t.s t.w.die t.w.pasid a { x := true, spec := true } t.w.hmode 0 with
  | (s, .error _) => s.spdrop t.w.pasid 1
  | (s, .ok x) =>
    let m := memAt t.w.die (x.pa / 64 * 64) x.leaf
    let b := s.localBlk t.agent.core m
    if x.pbit || lineLost s m x b || slotMismatch b.data != 0 || lineBad b.data then s.spdrop t.w.pasid 1
    else if s.homeStalls m 0 then s
    else s.holdLine { core := t.agent.core, pasid := t.w.pasid, line := line, data := b.data }

/-- LINE_FETCH_COMPLETE (R99, R102, R103): the line of the address of a path that is offered is delivered and checked; a path
whose line is there has a line fetched ahead of need. -/
def execLineFetchComplete (wk eid : Nat) (s : State) : Host.Outcome State Fault Refusal :=
  answer (match s.view wk eid with
    | none => s
    | some t =>
      if !((offered s t.w).any fun p => p.eid == eid) then s
      else if lineHere t.p then fetchAhead t
      else match targetHigh t with
        | some x => enterTrap t x
        | none => match fetchLine t with
          | .ok t _ => t.commit
          | .merr t e => parkPath t 15 e
          | .trap t x => enterTrap t x
          | .stall t => t.commit)

/-- SLEEP_DEADLINE (R139): package time has reached the deadline, and SLEEP retires. -/
def execSleepDeadline (wk eid : Nat) (s : State) : Host.Outcome State Fault Refusal :=
  answer (match s.view wk eid with
    | none => s
    | some t => match t.p.wait with
      | .sleep d => if t.p.st == .running && d.toNat ≤ s.ptime.toNat then finish t {} (.done t) else s
      | _ => s)

/-! ## Time (R5, R365, R369, R395) -/

/-- The sample periods in force: context, core, nanoseconds (R365). -/
def State.periods (s : State) : List (Nat × Nat × Nat) :=
  (s.traced.map fun k => (k / 512, k % 512, fld (s.dbgReg (k / 512) (k % 512) 0x162) 31 0)).filter fun x => x.2.2 != 0

/-- How much package time passes in the step: none while it is stopped, or while something of this instant is still to happen; else
an open amount, up to the next multiple of 1,000 ns or of a sample period at most (R5, R92, R365, R395). (DESIGN CHOICE; log 1) -/
def State.span (s : State) : Nat :=
  let left (n : Nat) : Nat := n - s.ptime.toNat % n
  if s.stop || !s.agenda.isEmpty then 0
  else (s.periods.map fun x => left x.2.2).foldl min (min (Config.stepNs s.steps) (left 1000))

/-- What falls due as package time passes from `old` to a multiple: the refill of the purses, and samples (R92, R365). -/
def State.dueAt (s : State) (old : BitVec 64) : List Instr :=
  let reached (n : Nat) : Bool := old != s.ptime && s.ptime.toNat % n = 0
  (if reached 1000 then [.purseRefill (Config.freeWord (s.ix 50003)).toNat] else []) ++
    (s.periods.filter fun x => reached x.2.2).map fun x => .traceSample x.2.1 x.1

/-- The cycle counts of the cores after step `n`, in which `dt` nanoseconds pass: each runs by its clock; while package time is
stopped, by an open number of cycles (R96, R134, R395). (DESIGN CHOICE; log 1) -/
def cyclesRun (s : State) (n dt : Nat) : List Nat :=
  ((List.range s.pkg.cyc.length).zip s.pkg.cyc).map fun x =>
    x.2 + if s.stop then 1000 * Config.stepCycles n x.1 else dt * s.clock x.1

/-- Core cycles are counted on the cores whose counters count (R369). -/
def State.countCycles (s : State) (old : State) : State :=
  s.traced.foldl (fun s k => s.countAt (k / 512) (k % 512) false 0x10 (s.clk (k % 512) - old.clk (k % 512)).toNat) s

/-- The beginning of every step: package time and core cycles pass, and core cycles are counted; package time stands while
PTCTL.STOP is 1 (R5, R356, R365, R369, R395; logs 1 and 29). Dependences that have not been read for 1,000 ns are read next (R70). -/
def State.tick (s : State) : State :=
  let dt := s.span
  let old := s
  let s := s.uncounted (BitVec.ofNat 64 dt)
  let s := { s with
    steps := s.steps + 1, badPa := none, stopped := s.stop, ptime := s.ptime + BitVec.ofNat 64 dt,
    pkg := { s.pkg with cyc := cyclesRun s s.steps dt } }
  let s := s.countCycles old
  let due (k : Cons) : Bool := k.st == .waiting && !s.stop && (match k.reread with | some t => t.toNat ≤ s.ptime.toNat | none => false)
  { s with
    agenda := s.agenda ++ s.dueAt old.ptime ++ (s.cons.filter due).map fun k => .dependenceReread k.h,
    cons := lmod s.cons due fun k => { k with reread := some (s.ptime + 1000) } }

/-! ## Events that may come next -/

/-- Events of one path. -/
def pathEvents (s : State) (wk : Nat) (w : Wave) (p : Path) : List Instr :=
  if p.held.isSome || !(s.crewIs w .resident || s.crewIs w .saving) then []
  else match p.wait with
    | .none => if s.crewIs w .resident then [.lineFetchComplete wk p.eid] else []
    | .sleep _ => [.sleepDeadline wk p.eid]
    | .bwait .. => [.bwaitWake wk p.eid, .promiseMiss wk p.eid]
    | .chwait .. => [.chwaitWake wk p.eid]
    | .cbar .. => [.cbarWake wk p.eid]
    | .cresult _ => [.cresultWake wk p.eid]
    | .mtoken _ => [.mtokenReady wk p.eid]
    | .replica _ => if lineHere p then [.replicaStallTimeout wk p.eid] else [.lineFetchComplete wk p.eid]
    | .rplbegin .. => [.rplbeginGathered w.crew]
    | .rplend => [.rplendGathered w.crew]
    | .regroup .. => [.regroupExchange wk]
    | .fence .. => if lineHere p then [] else [.lineFetchComplete wk p.eid]
    | .brkpt => if lineHere p then [] else [.lineFetchComplete wk p.eid]

def waveEvents (s : State) (wk : Nat) (w : Wave) : List Instr :=
  (if waveLate s w then [.waveWatchdogExpiry wk] else []) ++
    ((w.paths ++ w.spilled).filter fun p => p.st == .parked).map (fun p => .parklimExpiry wk p.eid) ++
    (awake w).flatMap (pathEvents s wk w)

def crewEvents (c : Crew) : List Instr :=
  match c.st with
  | .resident => [.crewWatchdogExpiry c.h]
  | .saving => [.crewSave c.h]
  | .saved => [.crewRestore c.h]
  | .requeued => [.crewRequeuePlace c.h]
  | .placed => []
  | .restoring => []
  | .ended => []

/-- Events of parks: requests that waited for an index, and responses that waited for a handler to return (R255, R256).
(DEDUCED; log 47) -/
def parkEvents (s : State) (k : Park) : List Instr :=
  if k.idx.isNone && !k.dead then [.pageRequestDeferred k.fn]
  else match k.who, k.idx with
    | .path wk eid, some i => match s.view wk eid with
      | some t => if k.denied && !t.w.hmode then [.prgResponseInvalid k.fn i] else []
      | none => []
    | _, _ => []

def opEvents (o : EngOp) : List Instr := [.engineOpRun o.h, .engineFiring o.h, .engineWriteCounted o.h, .engineOpEnd o.h]

/-- Events of a store on its way. -/
def storeEvents (s : State) (p : PStore) : List Instr :=
  match p.stage with
  | .buffered | .sent => if s.online p.home || isHost (64 * p.blk) then [.homeWrite p.sid] else [.homeStallTimeout p.home p.sid]
  | .locking => (lanesOf p.wait).flatMap (fun d => [.replicaLock d p.sid, .replicaLockAck d p.sid]) ++
      (if s.online p.home then [] else [.homeStallTimeout p.home p.sid])
  | .atHome =>
    if isHost (64 * p.blk) then [.hostLinkCompletion p.sid]
    else .acceptDoneReceive p.sid ::
      if p.rep then (lanesOf p.wait).map fun d => .replicaUpdate d p.sid
      else (lanesOf p.wait).flatMap fun d => [.invalidate d p.sid, .invalidateAck d p.sid]
  | .done => [.acceptDoneReceive p.sid]

def consEvents (k : Cons) : List Instr :=
  match k.st with
  | .waiting => [.dependenceReread k.h]
  | .ready => [.consignmentBegin k.h]
  | .begun => [.consignmentComplete k.h]
  | .failed => [.consignmentComplete k.h]

def cavEvents (v : Cav) : List Instr :=
  match v.st with
  | .queued => [.caravanHandover v.h, .caravanHold v.h, .holdPreempt v.h]
  | .starting _ => [.caravanStart v.h]
  | .running => [.caravanStart v.h]

def routeEvents (r : Route) : List Instr :=
  match r.cur with
  | none => if r.queue.isEmpty then [] else [.replayStart r.fn r.num]
  | some rp => rp.ready.map fun n => .nodeBegin r.fn r.num n

/-- Events of the package: the histogram store, the lehr, dies that reset, sectors written back to HBM. -/
def packageEvents (s : State) : List Instr :=
  let sectors := uniq ((s.ms.phys.resx.map fun x => x.1 / 16) ++ s.ms.phys.marks)
  let dies := (List.range 8).flatMap fun d => match s.dieSt d with
    | .online => []
    | .deferred => if diePairs.any fun x => ((s.routeNow x.1 x.2).getD []).dropLast.contains d then [] else [Instr.dieResetResume d]
    | .resetting _ => [.dieResetComplete d]
  (if s.pkg.gath.isEmpty then [] else [.histogramStore]) ++
    s.pkg.banks.flatMap (fun x => match x.2.st with
      | .converting _ => [.lehrReencodeGroup x.1]
      | _ => if x.2.count = 0 then [] else [.lehrWindow x.1]) ++
    dies ++ (sectors.filter inHbm).map fun b => .hbmWrite b

/-- Every event of the machine that may come next; one that is not due leaves the state as it is. (DEDUCED; log 4)
(DESIGN CHOICE; log 13) (DESIGN CHOICE; log 60) -/
def State.events (s : State) : List Instr :=
  let quads := uniq ((List.range 8).map (fun d => 192 * d) ++ s.waves.map fun x => x.2.quadN)
  let ahead := s.waves.map fun x => .hardwarePrefetch x.2.coreN x.1 (Config.freeWord (s.ix 50006))
  ahead ++ quads.map (fun q => .quadIssueCycle q) ++ s.waves.flatMap (fun x => waveEvents s x.1 x.2) ++ s.crews.flatMap crewEvents ++
    s.parks.flatMap (parkEvents s) ++ s.ops.flatMap opEvents ++
    (List.range s.passes.length).map (fun i => .matrixPass i []) ++ s.ms.stores.flatMap (storeEvents s) ++
    s.cons.flatMap consEvents ++ s.cavs.flatMap cavEvents ++ s.routes.flatMap routeEvents ++
    ((List.range s.tries.length).zip s.tries).map (fun x => .kickReread x.2.fn x.1) ++
    s.regPend.map (fun x => .rcmdRegister x.1 x.2) ++ packageEvents s

/-- What a step does: an event or an instruction at a state, or nothing more. -/
inductive Move where
  | event (i : Instr) (s : State)
  | issue (i : Instr) (s : State)
  | still (s : State)

/-- The selected path issues; else the agenda and the rounds that are due, in order; else an event that may come next or one
from outside, which is a free value (log 13). (DEDUCED; log 4) (DESIGN CHOICE; log 60) -/
def move (s : State) : Move :=
  match s.issuer with
  | some t => match front t with
    | .run s i => .issue i s
    | .stop s => .still { s with sel := none }
  | none =>
    let s := { s with sel := none }
    match s.agenda with
    | i :: rest => .event i { s with agenda := rest }
    | [] => match s.roundsDue with
      | i :: _ => .event i s
      | [] => match s.events[(Config.freeWord (s.ix 50000)).toNat % (s.events.length + 1)]? with
        | some i => .event i s
        | none => .still (s.outside (Config.freeWord (s.ix 50010)).toNat)

/-- The selection ends with the instruction. -/
def unselect : Host.Outcome State Fault Refusal → Host.Outcome State Fault Refusal
  | .next s => .next { s with sel := none }
  | o => o

end Sys2Proof.Machine
end

