-- ==== Sys2Proof/Machine/VecInt.lean ====
section
/-!
DEFINITION. Vector integer instructions, predicates, integer conversion and residue reads: opcodes 0x40 to 0x5E (R165 to
R175, R182).
-/
namespace Sys2Proof.Machine

/-- A vector instruction of two sources (R169). -/
def vec2 (op : Nat) (f : Fields) (g : Bool → Nat → Nat → Nat → Val) (t : Th) (ex : BitVec 64) : Res :=
  let ty := f.ty.toNat
  let w := tyW ty
  runVec t f op (w == 64) ex fun L =>
    let a := t.srcA f w L
    let b := t.srcB f w L
    ofVal ty (if w = 64 then 64 else 32) [a, b] (g (tySigned ty) w a.v b.v)

/-- A vector instruction of three sources (R169). -/
def vec3 (op : Nat) (f : Fields) (g : Bool → Nat → Nat → Nat → Nat → Val) (t : Th) (ex : BitVec 64) : Res :=
  let ty := f.ty.toNat
  let w := tyW ty
  runVec t f op false ex fun L =>
    let a := t.srcA f w L
    let b := t.srcB f w L
    let c := t.srcC f w L
    ofVal ty 32 [a, b, c] (g (tySigned ty) w a.v b.v c.v)

/-- A vector instruction of one source. -/
def vec1 (op : Nat) (f : Fields) (g : Bool → Nat → Nat → Val) (t : Th) (ex : BitVec 64) : Res :=
  let ty := f.ty.toNat
  let w := tyW ty
  runVec t f op (w == 64) ex fun L =>
    let a := t.srcA f w L
    ofVal ty (if w = 64 then 64 else 32) [a] (g (tySigned ty) w a.v)

/-- A vector shift or bit-field instruction: source B is an unsigned 32-bit word (R170, R171). -/
def vecCount (op : Nat) (f : Fields) (g : Bool → Nat → Nat → Nat → Val) (t : Th) (ex : BitVec 64) : Res :=
  let ty := f.ty.toNat
  let w := tyW ty
  runVec t f op (w == 64) ex fun L =>
    let a := t.srcA f w L
    let b := t.srcCount f L
    ofVal ty (if w = 64 then 64 else 32) [a, b] (g (tySigned ty) w a.v b.v)

/-- VADD (R169). -/
def execVadd (f : Fields) : State → Host.Outcome State Fault Refusal :=
  issue (.vadd f) f kL (vec2 0x40 f fun sgn w a b => addOp sgn f.sat w a b)

/-- VSUB (R169). -/
def execVsub (f : Fields) : State → Host.Outcome State Fault Refusal :=
  issue (.vsub f) f kL (vec2 0x41 f fun sgn w a b => subOp sgn f.sat w a b)

/-- VMUL (R169). -/
def execVmul (f : Fields) : State → Host.Outcome State Fault Refusal :=
  issue (.vmul f) f kL (vec2 0x42 f fun _ w a b => mulOp w a b)

/-- VMULH (R169). -/
def execVmulh (f : Fields) : State → Host.Outcome State Fault Refusal :=
  issue (.vmulh f) f kL (vec2 0x43 f fun sgn w a b => mulhOp sgn w a b)

/-- VMAD (R169). -/
def execVmad (f : Fields) : State → Host.Outcome State Fault Refusal :=
  issue (.vmad f) f kL (vec3 0x44 f fun _ w a b c => madOp w a b c)

/-- VAND (R169). -/
def execVand (f : Fields) : State → Host.Outcome State Fault Refusal :=
  issue (.vand f) f kL (vec2 0x45 f fun _ _ a b => andOp a b)

/-- VOR (R169). -/
def execVor (f : Fields) : State → Host.Outcome State Fault Refusal :=
  issue (.vor f) f kL (vec2 0x46 f fun _ _ a b => orOp a b)

/-- VXOR (R169). -/
def execVxor (f : Fields) : State → Host.Outcome State Fault Refusal :=
  issue (.vxor f) f kL (vec2 0x47 f fun _ _ a b => xorOp a b)

/-- VANDN (R169). -/
def execVandn (f : Fields) : State → Host.Outcome State Fault Refusal :=
  issue (.vandn f) f kL (vec2 0x48 f fun _ w a b => andnOp w a b)

/-- VSHL (R170). -/
def execVshl (f : Fields) : State → Host.Outcome State Fault Refusal :=
  issue (.vshl f) f kL (vecCount 0x49 f fun _ w a k => shlOp w a k)

/-- VSHR (R170). -/
def execVshr (f : Fields) : State → Host.Outcome State Fault Refusal :=
  issue (.vshr f) f kL (vecCount 0x4A f fun _ w a k => shrOp w a k)

/-- VSRA (R170). -/
def execVsra (f : Fields) : State → Host.Outcome State Fault Refusal :=
  issue (.vsra f) f kL (vecCount 0x4B f fun _ w a k => sraOp w a k)

/-- VMIN (R169). -/
def execVmin (f : Fields) : State → Host.Outcome State Fault Refusal :=
  issue (.vmin f) f kL (vec2 0x4C f fun sgn w a b => minOp sgn w a b)

/-- VMAX (R169). -/
def execVmax (f : Fields) : State → Host.Outcome State Fault Refusal :=
  issue (.vmax f) f kL (vec2 0x4D f fun sgn w a b => maxOp sgn w a b)

/-- VABS (R169). -/
def execVabs (f : Fields) : State → Host.Outcome State Fault Refusal :=
  issue (.vabs f) f kL (vec1 0x4E f fun _ w a => absOp f.sat w a)

/-- VNEG (R169). -/
def execVneg (f : Fields) : State → Host.Outcome State Fault Refusal :=
  issue (.vneg f) f kL (vec1 0x4F f fun sgn w a => negOp sgn f.sat w a)

/-- VCMP (R173). -/
def execVcmp (f : Fields) : State → Host.Outcome State Fault Refusal :=
  issue (.vcmp f) f kL fun t ex =>
    let ty := f.ty.toNat
    let w := tyW ty
    let sgn := tySigned ty
    runPred t f 0x50 ex fun L =>
      let a := t.srcA f w L
      let b := t.srcB f w L
      ([a, b], cmpHolds f.sub.toNat (rdInt sgn w a.v) (rdInt sgn w b.v))

/-- VSEL: the selector is a predicate source, and only the selected source is read (R169, R182). -/
def execVsel (f : Fields) : State → Host.Outcome State Fault Refusal :=
  issue (.vsel f) f kL fun t ex =>
    let ty := f.ty.toNat
    let w := tyW ty
    let sel := t.srcP f.sc.toNat 7
    if ex != 0 && sel.bad then .trap t (poisonUse 2 f.sc.toNat ex)
    else runVec t f 0x51 (w == 64) ex fun L =>
      let x := if sel.v.testBit L then t.srcA f w L else t.srcB f w L
      ofVal ty (if w = 64 then 64 else 32) [sel, x] { v := x.v, p := ri x.v }

/-- VMOV (R169). -/
def execVmov (f : Fields) : State → Host.Outcome State Fault Refusal :=
  issue (.vmov f) f kL fun t ex =>
    let ty := f.ty.toNat
    let w := tyW ty
    runVec t f 0x52 (w == 64) ex fun L =>
      let b := t.srcB f w L
      ofVal ty (if w = 64 then 64 else 32) [b] { v := b.v, p := ri b.v }

/-- VPOPC (R169). -/
def execVpopc (f : Fields) : State → Host.Outcome State Fault Refusal :=
  issue (.vpopc f) f kL (vec1 0x53 f fun _ _ a => treeVal (bitCount a))

/-- VCLZ (R169). -/
def execVclz (f : Fields) : State → Host.Outcome State Fault Refusal :=
  issue (.vclz f) f kL (vec1 0x54 f fun _ w a => treeVal (clz w a))

/-- VBFX (R171). -/
def execVbfx (f : Fields) : State → Host.Outcome State Fault Refusal :=
  issue (.vbfx f) f kL (vecCount 0x55 f fun sgn w a ctl => bfxOp sgn w a ctl)

/-- VBFI (R171). -/
def execVbfi (f : Fields) : State → Host.Outcome State Fault Refusal :=
  issue (.vbfi f) f kL fun t ex =>
    let ty := f.ty.toNat
    let w := tyW ty
    runVec t f 0x56 false ex fun L =>
      let a := t.srcA f w L
      let b := t.srcCount f L
      let c := t.srcC f w L
      ofVal ty 32 [a, b, c] (bfiOp w a.v b.v c.v)

/-- VADDS (R172). -/
def execVadds (f : Fields) : State → Host.Outcome State Fault Refusal :=
  issue (.vadds f) f kL (vec3 0x57 f fun sgn w a b c => addsOp sgn f.sat w a b c)

/-- VDOT4: four byte products of whole words (R172). (DEDUCED; log 38) -/
def execVdot4 (f : Fields) : State → Host.Outcome State Fault Refusal :=
  issue (.vdot4 f) f kL fun t ex =>
    runVec t f 0x58 false ex fun L =>
      let a := t.srcA f 32 L
      let b := if f.immf then immInt f 32 else t.srcB f 32 L
      let c := t.srcC f 32 L
      ofVal 6 32 [a, b, c] (dot4Op (tySigned f.ty.toNat) f.sat a.v b.v c.v)

/-- VIOTA (R175). -/
def execViota (f : Fields) : State → Host.Outcome State Fault Refusal :=
  issue (.viota f) f kL fun t ex =>
    runVec t f 0x59 false ex fun L => ofVal 6 32 [] (treeVal (t.w.lidOf L))

/-- VRES reads only the residue code: no source, no check, no poison (R175). -/
def execVres (f : Fields) : State → Host.Outcome State Fault Refusal :=
  issue (.vres f) f kL fun t ex =>
    runVec t f 0x5A false ex fun L => ofVal 6 32 [] (treeVal (t.vreg f.sa.toNat L).r.toNat)

/-- PLOP (R173). -/
def execPlop (f : Fields) : State → Host.Outcome State Fault Refusal :=
  issue (.plop f) f kL fun t ex =>
    let a := t.srcP f.sa.toNat 1
    let b := t.srcP f.sb.toNat 2
    let one := 4 ≤ f.sub.toNat
    runPred t f 0x5B ex fun L =>
      let x := a.v.testBit L
      let y := b.v.testBit L
      (if one then [a] else [a, b], match f.sub.toNat with
        | 0 => x && y
        | 1 => x || y
        | 2 => x != y
        | 3 => x && !y
        | 4 => x
        | _ => !x)

/-- PMOV: its four forms (R173). -/
def execPmov (f : Fields) : State → Host.Outcome State Fault Refusal :=
  issue (.pmov f) f kL fun t ex =>
    let a := t.srcP f.sa.toNat 1
    match f.sub.toNat with
    | 0 =>
      let b := if f.immf then { noSrc with v := f.hi.toNat } else t.srcS 64 f.sb.toNat 2
      runPred t f 0x5C ex fun L => ([b], b.v.testBit L)
    | 1 =>
      runOnce t f 0x5C ex (some f.dst.toNat) (fun _ => [a]) fun t poison =>
        .done (t.setS f.dst.toNat (mkP poison (BitVec.ofNat 64 a.v &&& ex)))
    | 2 => runPred t f 0x5C ex fun L =>
        let x := t.srcA f 32 L
        ([x], x.v != 0)
    | _ => runVec t f 0x5C false ex fun L => ofVal 6 32 [a] (treeVal (if a.v.testBit L then 1 else 0))

/-- VCVTI (R174). -/
def execVcvti (f : Fields) : State → Host.Outcome State Fault Refusal :=
  issue (.vcvti f) f kL fun t ex =>
    let src := f.sub.toNat
    let dst := f.ty.toNat
    let wide := tyW dst == 64
    runVec t f 0x5D wide ex fun L =>
      let a := t.srcA f (tyW src) L
      ofVal dst (if wide then 64 else 32) [a] (cvtiOp src dst f.sat a.v)

/-- VDYMUL (R172). -/
def execVdymul (f : Fields) : State → Host.Outcome State Fault Refusal :=
  issue (.vdymul f) f kL fun t ex =>
    let w := tyW f.ty.toNat
    runVec t f 0x5E false ex fun L =>
      let a := t.srcA f w L
      let b := t.srcB f 8 L
      ofVal 5 32 [a, b] (dymulOp f.sat w a.v b.v)

end Sys2Proof.Machine
end

