-- ==== Sys2Proof/Machine/Dispatch.lean ====
section
/-!
DEFINITION. What each instruction does: one arm per constructor of `Instr`.
-/
namespace Sys2Proof.Machine

/-- One instruction, or one event of the machine, at a state. (DEDUCED; log 14) (DESIGN CHOICE; log 60) -/
def exec (i : Instr) (s : State) : Host.Outcome State Fault Refusal :=
  match i with
  | .nop f => Sys2Proof.Machine.execNop f s
  | .sadd f => Sys2Proof.Machine.execSadd f s
  | .ssub f => Sys2Proof.Machine.execSsub f s
  | .smul f => Sys2Proof.Machine.execSmul f s
  | .smulh f => Sys2Proof.Machine.execSmulh f s
  | .sdiv f => Sys2Proof.Machine.execSdiv f s
  | .srem f => Sys2Proof.Machine.execSrem f s
  | .sand f => Sys2Proof.Machine.execSand f s
  | .sor f => Sys2Proof.Machine.execSor f s
  | .sxor f => Sys2Proof.Machine.execSxor f s
  | .sshl f => Sys2Proof.Machine.execSshl f s
  | .sshr f => Sys2Proof.Machine.execSshr f s
  | .ssra f => Sys2Proof.Machine.execSsra f s
  | .smin f => Sys2Proof.Machine.execSmin f s
  | .smax f => Sys2Proof.Machine.execSmax f s
  | .smov f => Sys2Proof.Machine.execSmov f s
  | .ssel f => Sys2Proof.Machine.execSsel f s
  | .scmp f => Sys2Proof.Machine.execScmp f s
  | .slea f => Sys2Proof.Machine.execSlea f s
  | .sclz f => Sys2Proof.Machine.execSclz f s
  | .spopc f => Sys2Proof.Machine.execSpopc f s
  | .sbfx f => Sys2Proof.Machine.execSbfx f s
  | .sbfi f => Sys2Proof.Machine.execSbfi f s
  | .sread f => Sys2Proof.Machine.execSread f s
  | .swrite f => Sys2Proof.Machine.execSwrite f s
  | .blop f => Sys2Proof.Machine.execBlop f s
  | .bra f => Sys2Proof.Machine.execBra f s
  | .brx f => Sys2Proof.Machine.execBrx f s
  | .call f => Sys2Proof.Machine.execCall f s
  | .callx f => Sys2Proof.Machine.execCallx f s
  | .ret f => Sys2Proof.Machine.execRet f s
  | .brv f => Sys2Proof.Machine.execBrv f s
  | .rcv f => Sys2Proof.Machine.execRcv f s
  | .loop f => Sys2Proof.Machine.execLoop f s
  | .lbrk f => Sys2Proof.Machine.execLbrk f s
  | .lsave f => Sys2Proof.Machine.execLsave f s
  | .lrest f => Sys2Proof.Machine.execLrest f s
  | .exit f => Sys2Proof.Machine.execExit f s
  | .yield f => Sys2Proof.Machine.execYield f s
  | .sleep f => Sys2Proof.Machine.execSleep f s
  | .trap f => Sys2Proof.Machine.execTrap f s
  | .tretRetry f => Sys2Proof.Machine.execTretRetry f s
  | .tretSkip f => Sys2Proof.Machine.execTretSkip f s
  | .fence f => Sys2Proof.Machine.execFence f s
  | .fenceq f => Sys2Proof.Machine.execFenceq f s
  | .fencei f => Sys2Proof.Machine.execFencei f s
  | .setpri f => Sys2Proof.Machine.execSetpri f s
  | .gensync f => Sys2Proof.Machine.execGensync f s
  | .csrd f => Sys2Proof.Machine.execCsrd f s
  | .cswr f => Sys2Proof.Machine.execCswr f s
  | .tlbinv f => Sys2Proof.Machine.execTlbinv f s
  | .probe f => Sys2Proof.Machine.execProbe f s
  | .vadd f => Sys2Proof.Machine.execVadd f s
  | .vsub f => Sys2Proof.Machine.execVsub f s
  | .vmul f => Sys2Proof.Machine.execVmul f s
  | .vmulh f => Sys2Proof.Machine.execVmulh f s
  | .vmad f => Sys2Proof.Machine.execVmad f s
  | .vand f => Sys2Proof.Machine.execVand f s
  | .vor f => Sys2Proof.Machine.execVor f s
  | .vxor f => Sys2Proof.Machine.execVxor f s
  | .vandn f => Sys2Proof.Machine.execVandn f s
  | .vshl f => Sys2Proof.Machine.execVshl f s
  | .vshr f => Sys2Proof.Machine.execVshr f s
  | .vsra f => Sys2Proof.Machine.execVsra f s
  | .vmin f => Sys2Proof.Machine.execVmin f s
  | .vmax f => Sys2Proof.Machine.execVmax f s
  | .vabs f => Sys2Proof.Machine.execVabs f s
  | .vneg f => Sys2Proof.Machine.execVneg f s
  | .vcmp f => Sys2Proof.Machine.execVcmp f s
  | .vsel f => Sys2Proof.Machine.execVsel f s
  | .vmov f => Sys2Proof.Machine.execVmov f s
  | .vpopc f => Sys2Proof.Machine.execVpopc f s
  | .vclz f => Sys2Proof.Machine.execVclz f s
  | .vbfx f => Sys2Proof.Machine.execVbfx f s
  | .vbfi f => Sys2Proof.Machine.execVbfi f s
  | .vadds f => Sys2Proof.Machine.execVadds f s
  | .vdot4 f => Sys2Proof.Machine.execVdot4 f s
  | .viota f => Sys2Proof.Machine.execViota f s
  | .vres f => Sys2Proof.Machine.execVres f s
  | .plop f => Sys2Proof.Machine.execPlop f s
  | .pmov f => Sys2Proof.Machine.execPmov f s
  | .vcvti f => Sys2Proof.Machine.execVcvti f s
  | .vdymul f => Sys2Proof.Machine.execVdymul f s
  | .vfadd f => Sys2Proof.Machine.execVfadd f s
  | .vfsub f => Sys2Proof.Machine.execVfsub f s
  | .vfmul f => Sys2Proof.Machine.execVfmul f s
  | .vfma f => Sys2Proof.Machine.execVfma f s
  | .vfmin f => Sys2Proof.Machine.execVfmin f s
  | .vfmax f => Sys2Proof.Machine.execVfmax f s
  | .vfcmp f => Sys2Proof.Machine.execVfcmp f s
  | .vfsgn f => Sys2Proof.Machine.execVfsgn f s
  | .vfrcp f => Sys2Proof.Machine.execVfrcp f s
  | .vfrsq f => Sys2Proof.Machine.execVfrsq f s
  | .vfex2 f => Sys2Proof.Machine.execVfex2 f s
  | .vflg2 f => Sys2Proof.Machine.execVflg2 f s
  | .vfcls f => Sys2Proof.Machine.execVfcls f s
  | .vfrnd f => Sys2Proof.Machine.execVfrnd f s
  | .vcvt f => Sys2Proof.Machine.execVcvt f s
  | .vseed f => Sys2Proof.Machine.execVseed f s
  | .vfdot2 f => Sys2Proof.Machine.execVfdot2 f s
  | .vpack f => Sys2Proof.Machine.execVpack f s
  | .vunpk f => Sys2Proof.Machine.execVunpk f s
  | .vqscl f => Sys2Proof.Machine.execVqscl f s
  | .vshfl f => Sys2Proof.Machine.execVshfl f s
  | .vlrot f => Sys2Proof.Machine.execVlrot f s
  | .vreadl f => Sys2Proof.Machine.execVreadl f s
  | .vvote f => Sys2Proof.Machine.execVvote f s
  | .vscan f => Sys2Proof.Machine.execVscan f s
  | .vred f => Sys2Proof.Machine.execVred f s
  | .regroup f => Sys2Proof.Machine.execRegroup f s
  | .vcprs f => Sys2Proof.Machine.execVcprs f s
  | .setexm f => Sys2Proof.Machine.execSetexm f s
  | .getexm f => Sys2Proof.Machine.execGetexm f s
  | .pathinfo f => Sys2Proof.Machine.execPathinfo f s
  | .vld f => Sys2Proof.Machine.execVld f s
  | .vst f => Sys2Proof.Machine.execVst f s
  | .vlds f => Sys2Proof.Machine.execVlds f s
  | .vsts f => Sys2Proof.Machine.execVsts f s
  | .sld f => Sys2Proof.Machine.execSld f s
  | .sst f => Sys2Proof.Machine.execSst f s
  | .vatom f => Sys2Proof.Machine.execVatom f s
  | .satom f => Sys2Proof.Machine.execSatom f s
  | .vprf f => Sys2Proof.Machine.execVprf f s
  | .ldq f => Sys2Proof.Machine.execLdq f s
  | .stq f => Sys2Proof.Machine.execStq f s
  | .setq f => Sys2Proof.Machine.execSetq f s
  | .getq f => Sys2Proof.Machine.execGetq f s
  | .cmaintWb f => Sys2Proof.Machine.execCmaintWb f s
  | .cmaintInv f => Sys2Proof.Machine.execCmaintInv f s
  | .cmaintWbinv f => Sys2Proof.Machine.execCmaintWbinv f s
  | .cmaintZero f => Sys2Proof.Machine.execCmaintZero f s
  | .vldf f => Sys2Proof.Machine.execVldf f s
  | .xcopy f => Sys2Proof.Machine.execXcopy f s
  | .xgath f => Sys2Proof.Machine.execXgath f s
  | .xscat f => Sys2Proof.Machine.execXscat f s
  | .xform f => Sys2Proof.Machine.execXform f s
  | .xfill f => Sys2Proof.Machine.execXfill f s
  | .xcoll f => Sys2Proof.Machine.execXcoll f s
  | .chbind f => Sys2Proof.Machine.execChbind f s
  | .chput f => Sys2Proof.Machine.execChput f s
  | .chtake f => Sys2Proof.Machine.execChtake f s
  | .chwaitData f => Sys2Proof.Machine.execChwaitData f s
  | .chwaitRoom f => Sys2Proof.Machine.execChwaitRoom f s
  | .xstat f => Sys2Proof.Machine.execXstat f s
  | .mma f => Sys2Proof.Machine.execMma f s
  | .mzero f => Sys2Proof.Machine.execMzero f s
  | .mdrain f => Sys2Proof.Machine.execMdrain f s
  | .mload f => Sys2Proof.Machine.execMload f s
  | .mtoken f => Sys2Proof.Machine.execMtoken f s
  | .mstatTile f => Sys2Proof.Machine.execMstatTile f s
  | .mstatCnt f => Sys2Proof.Machine.execMstatCnt f s
  | .binit f => Sys2Proof.Machine.execBinit f s
  | .barrive f => Sys2Proof.Machine.execBarrive f s
  | .bwait f => Sys2Proof.Machine.execBwait f s
  | .btest f => Sys2Proof.Machine.execBtest f s
  | .cbarSync f => Sys2Proof.Machine.execCbarSync f s
  | .cbarArrive f => Sys2Proof.Machine.execCbarArrive f s
  | .cbarRec f => Sys2Proof.Machine.execCbarRec f s
  | .contend f => Sys2Proof.Machine.execContend f s
  | .cresultWait f => Sys2Proof.Machine.execCresultWait f s
  | .cresultTest f => Sys2Proof.Machine.execCresultTest f s
  | .cwithdraw f => Sys2Proof.Machine.execCwithdraw f s
  | .mark f => Sys2Proof.Machine.execMark f s
  | .brkpt f => Sys2Proof.Machine.execBrkpt f s
  | .rplbeginRec f => Sys2Proof.Machine.execRplbeginRec f s
  | .rplbeginCmp f => Sys2Proof.Machine.execRplbeginCmp f s
  | .rplend f => Sys2Proof.Machine.execRplend f s
  | .snap f => Sys2Proof.Machine.execSnap f s
  | .illegalOp w => Sys2Proof.Machine.execIllegalOp w s
  | .regroupExchange wk => Sys2Proof.Machine.execRegroupExchange wk s
  | .chwaitWake wk eid => Sys2Proof.Machine.execChwaitWake wk eid s
  | .bwaitWake wk eid => Sys2Proof.Machine.execBwaitWake wk eid s
  | .promiseMiss wk eid => Sys2Proof.Machine.execPromiseMiss wk eid s
  | .cbarWake wk eid => Sys2Proof.Machine.execCbarWake wk eid s
  | .cresultWake wk eid => Sys2Proof.Machine.execCresultWake wk eid s
  | .ibpHit wk eid j => Sys2Proof.Machine.execIbpHit wk eid j s
  | .rplbeginGathered crew => Sys2Proof.Machine.execRplbeginGathered crew s
  | .rplendGathered crew => Sys2Proof.Machine.execRplendGathered crew s
  | .sleepDeadline wk eid => Sys2Proof.Machine.execSleepDeadline wk eid s
  | .mtokenReady wk eid => Sys2Proof.Machine.execMtokenReady wk eid s
  | .quadIssueCycle quad => Sys2Proof.Machine.execQuadIssueCycle quad s
  | .pathPromote wk eid => Sys2Proof.Machine.execPathPromote wk eid s
  | .lineFetchComplete wk eid => Sys2Proof.Machine.execLineFetchComplete wk eid s
  | .pageRequestDeferred fn => Sys2Proof.Machine.execPageRequestDeferred fn s
  | .prgResponseSuccess fn idx => Sys2Proof.Machine.execPrgResponseSuccess fn idx s
  | .prgResponseInvalid fn idx => Sys2Proof.Machine.execPrgResponseInvalid fn idx s
  | .prgResponseFailure fn idx => Sys2Proof.Machine.execPrgResponseFailure fn idx s
  | .atsInvalidate pasid va size => Sys2Proof.Machine.execAtsInvalidate pasid va size s
  | .engineOpRun h => Sys2Proof.Machine.execEngineOpRun h s
  | .engineFiring h => Sys2Proof.Machine.execEngineFiring h s
  | .engineWriteCounted h => Sys2Proof.Machine.execEngineWriteCounted h s
  | .engineOpEnd h => Sys2Proof.Machine.execEngineOpEnd h s
  | .courierBlockReturn core pasid wk ns => Sys2Proof.Machine.execCourierBlockReturn core pasid wk ns s
  | .matrixPass j flaw => Sys2Proof.Machine.execMatrixPass j flaw s
  | .kick fn width value => Sys2Proof.Machine.execKick fn width value s
  | .kickReread fn j => Sys2Proof.Machine.execKickReread fn j s
  | .rcmdRegister fn route => Sys2Proof.Machine.execRcmdRegister fn route s
  | .rcmdRetire fn route => Sys2Proof.Machine.execRcmdRetire fn route s
  | .rcmdInvalid fn value => Sys2Proof.Machine.execRcmdInvalid fn value s
  | .replayStart fn route => Sys2Proof.Machine.execReplayStart fn route s
  | .nodeBegin fn route node => Sys2Proof.Machine.execNodeBegin fn route node s
  | .dependenceReread cons => Sys2Proof.Machine.execDependenceReread cons s
  | .consignmentBegin cons => Sys2Proof.Machine.execConsignmentBegin cons s
  | .caravanHandover cav => Sys2Proof.Machine.execCaravanHandover cav s
  | .caravanStart cav => Sys2Proof.Machine.execCaravanStart cav s
  | .caravanHold cav => Sys2Proof.Machine.execCaravanHold cav s
  | .holdPreempt cav => Sys2Proof.Machine.execHoldPreempt cav s
  | .consignmentComplete cons => Sys2Proof.Machine.execConsignmentComplete cons s
  | .purseRefill drawn => Sys2Proof.Machine.execPurseRefill drawn s
  | .governorStep core live issued => Sys2Proof.Machine.execGovernorStep core live issued s
  | .parklimExpiry wk eid => Sys2Proof.Machine.execParklimExpiry wk eid s
  | .crewRequeuePlace crew => Sys2Proof.Machine.execCrewRequeuePlace crew s
  | .waveWatchdogExpiry wk => Sys2Proof.Machine.execWaveWatchdogExpiry wk s
  | .crewWatchdogExpiry crew => Sys2Proof.Machine.execCrewWatchdogExpiry crew s
  | .crewSave crew => Sys2Proof.Machine.execCrewSave crew s
  | .crewRestore crew => Sys2Proof.Machine.execCrewRestore crew s
  | .precmdContext fn pasid => Sys2Proof.Machine.execPrecmdContext fn pasid s
  | .precmdConsignment fn route node => Sys2Proof.Machine.execPrecmdConsignment fn route node s
  | .bprel fn value => Sys2Proof.Machine.execBprel fn value s
  | .ctxcmdLoad fn pasid => Sys2Proof.Machine.execCtxcmdLoad fn pasid s
  | .ctxcmdRetire fn pasid => Sys2Proof.Machine.execCtxcmdRetire fn pasid s
  | .roundOpen line => Sys2Proof.Machine.execRoundOpen line s
  | .roundClose line => Sys2Proof.Machine.execRoundClose line s
  | .traceSample core pasid => Sys2Proof.Machine.execTraceSample core pasid s
  | .homeWrite sid => Sys2Proof.Machine.execHomeWrite sid s
  | .invalidate die sid => Sys2Proof.Machine.execInvalidate die sid s
  | .invalidateAck die sid => Sys2Proof.Machine.execInvalidateAck die sid s
  | .waystationEvictReport die region => Sys2Proof.Machine.execWaystationEvictReport die region s
  | .replicaLock die sid => Sys2Proof.Machine.execReplicaLock die sid s
  | .replicaUpdate die sid => Sys2Proof.Machine.execReplicaUpdate die sid s
  | .replicaStallTimeout wk eid => Sys2Proof.Machine.execReplicaStallTimeout wk eid s
  | .cachePartialMerge sid w => Sys2Proof.Machine.execCachePartialMerge sid w s
  | .hbmWrite blk => Sys2Proof.Machine.execHbmWrite blk s
  | .hbmRead blk syms => Sys2Proof.Machine.execHbmRead blk syms s
  | .hostWrite fn pasid va bytes relaxed => Sys2Proof.Machine.execHostWrite fn pasid va bytes relaxed s
  | .hostRead fn pasid va len => Sys2Proof.Machine.execHostRead fn pasid va len s
  | .lehrScrub blk syms raced => Sys2Proof.Machine.execLehrScrub blk syms raced s
  | .lehrWindow bank => Sys2Proof.Machine.execLehrWindow bank s
  | .lehrack fn bank => Sys2Proof.Machine.execLehrack fn bank s
  | .lehrReencodeGroup bank => Sys2Proof.Machine.execLehrReencodeGroup bank s
  | .histogramStore => Sys2Proof.Machine.execHistogramStore s
  | .linkFail link => Sys2Proof.Machine.execLinkFail link s
  | .linkRetrainDone link => Sys2Proof.Machine.execLinkRetrainDone link s
  | .flitReceive port ok => Sys2Proof.Machine.execFlitReceive port ok s
  | .engineReset fn seq target => Sys2Proof.Machine.execEngineReset fn seq target s
  | .linkReset fn seq target => Sys2Proof.Machine.execLinkReset fn seq target s
  | .dieReset fn seq target => Sys2Proof.Machine.execDieReset fn seq target s
  | .dieResetComplete die => Sys2Proof.Machine.execDieResetComplete die s
  | .homeStallTimeout die sid => Sys2Proof.Machine.execHomeStallTimeout die sid s
  | .partitionReset fn seq => Sys2Proof.Machine.execPartitionReset fn seq s
  | .rstcmdRefused fn value => Sys2Proof.Machine.execRstcmdRefused fn value s
  | .packageReset image sig1 sig2 => Sys2Proof.Machine.execPackageReset image sig1 sig2 s
  | .fwload image sig1 sig2 => Sys2Proof.Machine.execFwload image sig1 sig2 s
  | .histread arg => Sys2Proof.Machine.execHistread arg s
  | .histclear => Sys2Proof.Machine.execHistclear s
  | .ptctlStop fn => Sys2Proof.Machine.execPtctlStop fn s
  | .ptctlResume fn => Sys2Proof.Machine.execPtctlResume fn s
  | .pwrlimWrite fn value => Sys2Proof.Machine.execPwrlimWrite fn value s
  | .registerWrite fn off width value => Sys2Proof.Machine.execRegisterWrite fn off width value s
  | .waystationFill die blk => Sys2Proof.Machine.execWaystationFill die blk s
  | .acceptDoneReceive sid => Sys2Proof.Machine.execAcceptDoneReceive sid s
  | .replicaLockAck die sid => Sys2Proof.Machine.execReplicaLockAck die sid s
  | .hostLinkCompletion sid => Sys2Proof.Machine.execHostLinkCompletion sid s
  | .hardwarePrefetch core wk va => Sys2Proof.Machine.execHardwarePrefetch core wk va s
  | .powerLoss => Sys2Proof.Machine.execPowerLoss s
  | .portTrained port => Sys2Proof.Machine.execPortTrained port s
  | .linkFlitReceive link ok => Sys2Proof.Machine.execLinkFlitReceive link ok s
  | .spdmRequest fn req => Sys2Proof.Machine.execSpdmRequest fn req s
  | .mgmtcmdRefused value => Sys2Proof.Machine.execMgmtcmdRefused value s
  | .dieResetResume die => Sys2Proof.Machine.execDieResetResume die s

end Sys2Proof.Machine
end

