-- ==== Sys2Proof/Machine/Step.lean ====
section
/-!
DEFINITION. One step of the machine.
-/
namespace Sys2Proof.Machine

/-- One step: time passes, and what moves next moves. -/
def step (s : State) : Host.Outcome State Fault Refusal :=
  match move s.tick with
  | .event i t => exec i t
  | .issue i t => unselect (exec i t)
  | .still t => answer t

/-- The state with the instruction whose low `nbits` bits are `w` where the next step fetches and issues it.
(DEDUCED; log 4) -/
def State.withFetchWord (s : State) (nbits w : Nat) : State := placeWord s (BitVec.ofNat 96 (w % 2 ^ nbits))

end Sys2Proof.Machine
end

