-- ==== Sys2Proof/Laws/State.lean ====
section
/-!
SUPPORT. What each named update of the state, of a wave, of a path's view or of a memory leaves as it was: one lemma per
update and field, so that no later proof unfolds a record update.
-/
namespace Sys2Proof.Machine

@[simp] theorem State.putWave_steps (s : State) (wk : Nat) (w : Wave) : (s.putWave wk w).steps = s.steps := rfl
@[simp] theorem State.putWave_agenda (s : State) (wk : Nat) (w : Wave) : (s.putWave wk w).agenda = s.agenda := rfl
@[simp] theorem State.putWave_sel (s : State) (wk : Nat) (w : Wave) : (s.putWave wk w).sel = s.sel := rfl
@[simp] theorem State.putWave_badPa (s : State) (wk : Nat) (w : Wave) : (s.putWave wk w).badPa = s.badPa := rfl
@[simp] theorem State.putWave_ptime (s : State) (wk : Nat) (w : Wave) : (s.putWave wk w).ptime = s.ptime := rfl
@[simp] theorem State.putWave_stop (s : State) (wk : Nat) (w : Wave) : (s.putWave wk w).stop = s.stop := rfl
@[simp] theorem State.putWave_stopped (s : State) (wk : Nat) (w : Wave) : (s.putWave wk w).stopped = s.stopped := rfl
@[simp] theorem State.putWave_crews (s : State) (wk : Nat) (w : Wave) : (s.putWave wk w).crews = s.crews := rfl
@[simp] theorem State.putWave_ctxs (s : State) (wk : Nat) (w : Wave) : (s.putWave wk w).ctxs = s.ctxs := rfl
@[simp] theorem State.putWave_dbg (s : State) (wk : Nat) (w : Wave) : (s.putWave wk w).dbg = s.dbg := rfl
@[simp] theorem State.putWave_ms (s : State) (wk : Nat) (w : Wave) : (s.putWave wk w).ms = s.ms := rfl
@[simp] theorem State.putWave_ops (s : State) (wk : Nat) (w : Wave) : (s.putWave wk w).ops = s.ops := rfl
@[simp] theorem State.putWave_fails (s : State) (wk : Nat) (w : Wave) : (s.putWave wk w).fails = s.fails := rfl
@[simp] theorem State.putWave_courier (s : State) (wk : Nat) (w : Wave) : (s.putWave wk w).courier = s.courier := rfl
@[simp] theorem State.putWave_passes (s : State) (wk : Nat) (w : Wave) : (s.putWave wk w).passes = s.passes := rfl
@[simp] theorem State.putWave_contests (s : State) (wk : Nat) (w : Wave) : (s.putWave wk w).contests = s.contests := rfl
@[simp] theorem State.putWave_rounds (s : State) (wk : Nat) (w : Wave) : (s.putWave wk w).rounds = s.rounds := rfl
@[simp] theorem State.putWave_parks (s : State) (wk : Nat) (w : Wave) : (s.putWave wk w).parks = s.parks := rfl
@[simp] theorem State.putWave_routes (s : State) (wk : Nat) (w : Wave) : (s.putWave wk w).routes = s.routes := rfl
@[simp] theorem State.putWave_tries (s : State) (wk : Nat) (w : Wave) : (s.putWave wk w).tries = s.tries := rfl
@[simp] theorem State.putWave_regPend (s : State) (wk : Nat) (w : Wave) : (s.putWave wk w).regPend = s.regPend := rfl
@[simp] theorem State.putWave_cons (s : State) (wk : Nat) (w : Wave) : (s.putWave wk w).cons = s.cons := rfl
@[simp] theorem State.putWave_cavs (s : State) (wk : Nat) (w : Wave) : (s.putWave wk w).cavs = s.cavs := rfl
@[simp] theorem State.putWave_nextH (s : State) (wk : Nat) (w : Wave) : (s.putWave wk w).nextH = s.nextH := rfl
@[simp] theorem State.putWave_fns (s : State) (wk : Nat) (w : Wave) : (s.putWave wk w).fns = s.fns := rfl
@[simp] theorem State.putWave_outbox (s : State) (wk : Nat) (w : Wave) : (s.putWave wk w).outbox = s.outbox := rfl
@[simp] theorem State.putWave_pkg (s : State) (wk : Nat) (w : Wave) : (s.putWave wk w).pkg = s.pkg := rfl
@[simp] theorem State.putCrew_steps (s : State) (c : Crew) : (s.putCrew c).steps = s.steps := rfl
@[simp] theorem State.putCrew_agenda (s : State) (c : Crew) : (s.putCrew c).agenda = s.agenda := rfl
@[simp] theorem State.putCrew_sel (s : State) (c : Crew) : (s.putCrew c).sel = s.sel := rfl
@[simp] theorem State.putCrew_badPa (s : State) (c : Crew) : (s.putCrew c).badPa = s.badPa := rfl
@[simp] theorem State.putCrew_ptime (s : State) (c : Crew) : (s.putCrew c).ptime = s.ptime := rfl
@[simp] theorem State.putCrew_stop (s : State) (c : Crew) : (s.putCrew c).stop = s.stop := rfl
@[simp] theorem State.putCrew_stopped (s : State) (c : Crew) : (s.putCrew c).stopped = s.stopped := rfl
@[simp] theorem State.putCrew_waves (s : State) (c : Crew) : (s.putCrew c).waves = s.waves := rfl
@[simp] theorem State.putCrew_ctxs (s : State) (c : Crew) : (s.putCrew c).ctxs = s.ctxs := rfl
@[simp] theorem State.putCrew_dbg (s : State) (c : Crew) : (s.putCrew c).dbg = s.dbg := rfl
@[simp] theorem State.putCrew_ms (s : State) (c : Crew) : (s.putCrew c).ms = s.ms := rfl
@[simp] theorem State.putCrew_ops (s : State) (c : Crew) : (s.putCrew c).ops = s.ops := rfl
@[simp] theorem State.putCrew_fails (s : State) (c : Crew) : (s.putCrew c).fails = s.fails := rfl
@[simp] theorem State.putCrew_courier (s : State) (c : Crew) : (s.putCrew c).courier = s.courier := rfl
@[simp] theorem State.putCrew_passes (s : State) (c : Crew) : (s.putCrew c).passes = s.passes := rfl
@[simp] theorem State.putCrew_contests (s : State) (c : Crew) : (s.putCrew c).contests = s.contests := rfl
@[simp] theorem State.putCrew_rounds (s : State) (c : Crew) : (s.putCrew c).rounds = s.rounds := rfl
@[simp] theorem State.putCrew_parks (s : State) (c : Crew) : (s.putCrew c).parks = s.parks := rfl
@[simp] theorem State.putCrew_routes (s : State) (c : Crew) : (s.putCrew c).routes = s.routes := rfl
@[simp] theorem State.putCrew_tries (s : State) (c : Crew) : (s.putCrew c).tries = s.tries := rfl
@[simp] theorem State.putCrew_regPend (s : State) (c : Crew) : (s.putCrew c).regPend = s.regPend := rfl
@[simp] theorem State.putCrew_cons (s : State) (c : Crew) : (s.putCrew c).cons = s.cons := rfl
@[simp] theorem State.putCrew_cavs (s : State) (c : Crew) : (s.putCrew c).cavs = s.cavs := rfl
@[simp] theorem State.putCrew_nextH (s : State) (c : Crew) : (s.putCrew c).nextH = s.nextH := rfl
@[simp] theorem State.putCrew_fns (s : State) (c : Crew) : (s.putCrew c).fns = s.fns := rfl
@[simp] theorem State.putCrew_outbox (s : State) (c : Crew) : (s.putCrew c).outbox = s.outbox := rfl
@[simp] theorem State.putCrew_pkg (s : State) (c : Crew) : (s.putCrew c).pkg = s.pkg := rfl
@[simp] theorem State.putCtx_steps (s : State) (n : Nat) (c : Ctx) : (s.putCtx n c).steps = s.steps := rfl
@[simp] theorem State.putCtx_agenda (s : State) (n : Nat) (c : Ctx) : (s.putCtx n c).agenda = s.agenda := rfl
@[simp] theorem State.putCtx_sel (s : State) (n : Nat) (c : Ctx) : (s.putCtx n c).sel = s.sel := rfl
@[simp] theorem State.putCtx_badPa (s : State) (n : Nat) (c : Ctx) : (s.putCtx n c).badPa = s.badPa := rfl
@[simp] theorem State.putCtx_ptime (s : State) (n : Nat) (c : Ctx) : (s.putCtx n c).ptime = s.ptime := rfl
@[simp] theorem State.putCtx_stop (s : State) (n : Nat) (c : Ctx) : (s.putCtx n c).stop = s.stop := rfl
@[simp] theorem State.putCtx_stopped (s : State) (n : Nat) (c : Ctx) : (s.putCtx n c).stopped = s.stopped := rfl
@[simp] theorem State.putCtx_waves (s : State) (n : Nat) (c : Ctx) : (s.putCtx n c).waves = s.waves := rfl
@[simp] theorem State.putCtx_crews (s : State) (n : Nat) (c : Ctx) : (s.putCtx n c).crews = s.crews := rfl
@[simp] theorem State.putCtx_dbg (s : State) (n : Nat) (c : Ctx) : (s.putCtx n c).dbg = s.dbg := rfl
@[simp] theorem State.putCtx_ms (s : State) (n : Nat) (c : Ctx) : (s.putCtx n c).ms = s.ms := rfl
@[simp] theorem State.putCtx_ops (s : State) (n : Nat) (c : Ctx) : (s.putCtx n c).ops = s.ops := rfl
@[simp] theorem State.putCtx_fails (s : State) (n : Nat) (c : Ctx) : (s.putCtx n c).fails = s.fails := rfl
@[simp] theorem State.putCtx_courier (s : State) (n : Nat) (c : Ctx) : (s.putCtx n c).courier = s.courier := rfl
@[simp] theorem State.putCtx_passes (s : State) (n : Nat) (c : Ctx) : (s.putCtx n c).passes = s.passes := rfl
@[simp] theorem State.putCtx_contests (s : State) (n : Nat) (c : Ctx) : (s.putCtx n c).contests = s.contests := rfl
@[simp] theorem State.putCtx_rounds (s : State) (n : Nat) (c : Ctx) : (s.putCtx n c).rounds = s.rounds := rfl
@[simp] theorem State.putCtx_parks (s : State) (n : Nat) (c : Ctx) : (s.putCtx n c).parks = s.parks := rfl
@[simp] theorem State.putCtx_routes (s : State) (n : Nat) (c : Ctx) : (s.putCtx n c).routes = s.routes := rfl
@[simp] theorem State.putCtx_tries (s : State) (n : Nat) (c : Ctx) : (s.putCtx n c).tries = s.tries := rfl
@[simp] theorem State.putCtx_regPend (s : State) (n : Nat) (c : Ctx) : (s.putCtx n c).regPend = s.regPend := rfl
@[simp] theorem State.putCtx_cons (s : State) (n : Nat) (c : Ctx) : (s.putCtx n c).cons = s.cons := rfl
@[simp] theorem State.putCtx_cavs (s : State) (n : Nat) (c : Ctx) : (s.putCtx n c).cavs = s.cavs := rfl
@[simp] theorem State.putCtx_nextH (s : State) (n : Nat) (c : Ctx) : (s.putCtx n c).nextH = s.nextH := rfl
@[simp] theorem State.putCtx_fns (s : State) (n : Nat) (c : Ctx) : (s.putCtx n c).fns = s.fns := rfl
@[simp] theorem State.putCtx_outbox (s : State) (n : Nat) (c : Ctx) : (s.putCtx n c).outbox = s.outbox := rfl
@[simp] theorem State.putCtx_pkg (s : State) (n : Nat) (c : Ctx) : (s.putCtx n c).pkg = s.pkg := rfl
@[simp] theorem State.setCtxReg_steps (s : State) (n m : Nat) (x : BitVec 64) : (s.setCtxReg n m x).steps = s.steps := rfl
@[simp] theorem State.setCtxReg_agenda (s : State) (n m : Nat) (x : BitVec 64) : (s.setCtxReg n m x).agenda = s.agenda := rfl
@[simp] theorem State.setCtxReg_sel (s : State) (n m : Nat) (x : BitVec 64) : (s.setCtxReg n m x).sel = s.sel := rfl
@[simp] theorem State.setCtxReg_badPa (s : State) (n m : Nat) (x : BitVec 64) : (s.setCtxReg n m x).badPa = s.badPa := rfl
@[simp] theorem State.setCtxReg_ptime (s : State) (n m : Nat) (x : BitVec 64) : (s.setCtxReg n m x).ptime = s.ptime := rfl
@[simp] theorem State.setCtxReg_stop (s : State) (n m : Nat) (x : BitVec 64) : (s.setCtxReg n m x).stop = s.stop := rfl
@[simp] theorem State.setCtxReg_stopped (s : State) (n m : Nat) (x : BitVec 64) : (s.setCtxReg n m x).stopped = s.stopped := rfl
@[simp] theorem State.setCtxReg_waves (s : State) (n m : Nat) (x : BitVec 64) : (s.setCtxReg n m x).waves = s.waves := rfl
@[simp] theorem State.setCtxReg_crews (s : State) (n m : Nat) (x : BitVec 64) : (s.setCtxReg n m x).crews = s.crews := rfl
@[simp] theorem State.setCtxReg_dbg (s : State) (n m : Nat) (x : BitVec 64) : (s.setCtxReg n m x).dbg = s.dbg := rfl
@[simp] theorem State.setCtxReg_ms (s : State) (n m : Nat) (x : BitVec 64) : (s.setCtxReg n m x).ms = s.ms := rfl
@[simp] theorem State.setCtxReg_ops (s : State) (n m : Nat) (x : BitVec 64) : (s.setCtxReg n m x).ops = s.ops := rfl
@[simp] theorem State.setCtxReg_fails (s : State) (n m : Nat) (x : BitVec 64) : (s.setCtxReg n m x).fails = s.fails := rfl
@[simp] theorem State.setCtxReg_courier (s : State) (n m : Nat) (x : BitVec 64) : (s.setCtxReg n m x).courier = s.courier := rfl
@[simp] theorem State.setCtxReg_passes (s : State) (n m : Nat) (x : BitVec 64) : (s.setCtxReg n m x).passes = s.passes := rfl
@[simp] theorem State.setCtxReg_contests (s : State) (n m : Nat) (x : BitVec 64) : (s.setCtxReg n m x).contests = s.contests := rfl
@[simp] theorem State.setCtxReg_rounds (s : State) (n m : Nat) (x : BitVec 64) : (s.setCtxReg n m x).rounds = s.rounds := rfl
@[simp] theorem State.setCtxReg_parks (s : State) (n m : Nat) (x : BitVec 64) : (s.setCtxReg n m x).parks = s.parks := rfl
@[simp] theorem State.setCtxReg_routes (s : State) (n m : Nat) (x : BitVec 64) : (s.setCtxReg n m x).routes = s.routes := rfl
@[simp] theorem State.setCtxReg_tries (s : State) (n m : Nat) (x : BitVec 64) : (s.setCtxReg n m x).tries = s.tries := rfl
@[simp] theorem State.setCtxReg_regPend (s : State) (n m : Nat) (x : BitVec 64) : (s.setCtxReg n m x).regPend = s.regPend := rfl
@[simp] theorem State.setCtxReg_cons (s : State) (n m : Nat) (x : BitVec 64) : (s.setCtxReg n m x).cons = s.cons := rfl
@[simp] theorem State.setCtxReg_cavs (s : State) (n m : Nat) (x : BitVec 64) : (s.setCtxReg n m x).cavs = s.cavs := rfl
@[simp] theorem State.setCtxReg_nextH (s : State) (n m : Nat) (x : BitVec 64) : (s.setCtxReg n m x).nextH = s.nextH := rfl
@[simp] theorem State.setCtxReg_fns (s : State) (n m : Nat) (x : BitVec 64) : (s.setCtxReg n m x).fns = s.fns := rfl
@[simp] theorem State.setCtxReg_outbox (s : State) (n m : Nat) (x : BitVec 64) : (s.setCtxReg n m x).outbox = s.outbox := rfl
@[simp] theorem State.setCtxReg_pkg (s : State) (n m : Nat) (x : BitVec 64) : (s.setCtxReg n m x).pkg = s.pkg := rfl
@[simp] theorem State.putFn_steps (s : State) (n : Nat) (x : Fn) : (s.putFn n x).steps = s.steps := rfl
@[simp] theorem State.putFn_agenda (s : State) (n : Nat) (x : Fn) : (s.putFn n x).agenda = s.agenda := rfl
@[simp] theorem State.putFn_sel (s : State) (n : Nat) (x : Fn) : (s.putFn n x).sel = s.sel := rfl
@[simp] theorem State.putFn_badPa (s : State) (n : Nat) (x : Fn) : (s.putFn n x).badPa = s.badPa := rfl
@[simp] theorem State.putFn_ptime (s : State) (n : Nat) (x : Fn) : (s.putFn n x).ptime = s.ptime := rfl
@[simp] theorem State.putFn_stop (s : State) (n : Nat) (x : Fn) : (s.putFn n x).stop = s.stop := rfl
@[simp] theorem State.putFn_stopped (s : State) (n : Nat) (x : Fn) : (s.putFn n x).stopped = s.stopped := rfl
@[simp] theorem State.putFn_waves (s : State) (n : Nat) (x : Fn) : (s.putFn n x).waves = s.waves := rfl
@[simp] theorem State.putFn_crews (s : State) (n : Nat) (x : Fn) : (s.putFn n x).crews = s.crews := rfl
@[simp] theorem State.putFn_ctxs (s : State) (n : Nat) (x : Fn) : (s.putFn n x).ctxs = s.ctxs := rfl
@[simp] theorem State.putFn_dbg (s : State) (n : Nat) (x : Fn) : (s.putFn n x).dbg = s.dbg := rfl
@[simp] theorem State.putFn_ms (s : State) (n : Nat) (x : Fn) : (s.putFn n x).ms = s.ms := rfl
@[simp] theorem State.putFn_ops (s : State) (n : Nat) (x : Fn) : (s.putFn n x).ops = s.ops := rfl
@[simp] theorem State.putFn_fails (s : State) (n : Nat) (x : Fn) : (s.putFn n x).fails = s.fails := rfl
@[simp] theorem State.putFn_courier (s : State) (n : Nat) (x : Fn) : (s.putFn n x).courier = s.courier := rfl
@[simp] theorem State.putFn_passes (s : State) (n : Nat) (x : Fn) : (s.putFn n x).passes = s.passes := rfl
@[simp] theorem State.putFn_contests (s : State) (n : Nat) (x : Fn) : (s.putFn n x).contests = s.contests := rfl
@[simp] theorem State.putFn_rounds (s : State) (n : Nat) (x : Fn) : (s.putFn n x).rounds = s.rounds := rfl
@[simp] theorem State.putFn_parks (s : State) (n : Nat) (x : Fn) : (s.putFn n x).parks = s.parks := rfl
@[simp] theorem State.putFn_routes (s : State) (n : Nat) (x : Fn) : (s.putFn n x).routes = s.routes := rfl
@[simp] theorem State.putFn_tries (s : State) (n : Nat) (x : Fn) : (s.putFn n x).tries = s.tries := rfl
@[simp] theorem State.putFn_regPend (s : State) (n : Nat) (x : Fn) : (s.putFn n x).regPend = s.regPend := rfl
@[simp] theorem State.putFn_cons (s : State) (n : Nat) (x : Fn) : (s.putFn n x).cons = s.cons := rfl
@[simp] theorem State.putFn_cavs (s : State) (n : Nat) (x : Fn) : (s.putFn n x).cavs = s.cavs := rfl
@[simp] theorem State.putFn_nextH (s : State) (n : Nat) (x : Fn) : (s.putFn n x).nextH = s.nextH := rfl
@[simp] theorem State.putFn_outbox (s : State) (n : Nat) (x : Fn) : (s.putFn n x).outbox = s.outbox := rfl
@[simp] theorem State.putFn_pkg (s : State) (n : Nat) (x : Fn) : (s.putFn n x).pkg = s.pkg := rfl
@[simp] theorem State.setFnReg_steps (s : State) (n m : Nat) (x : BitVec 64) : (s.setFnReg n m x).steps = s.steps := rfl
@[simp] theorem State.setFnReg_agenda (s : State) (n m : Nat) (x : BitVec 64) : (s.setFnReg n m x).agenda = s.agenda := rfl
@[simp] theorem State.setFnReg_sel (s : State) (n m : Nat) (x : BitVec 64) : (s.setFnReg n m x).sel = s.sel := rfl
@[simp] theorem State.setFnReg_badPa (s : State) (n m : Nat) (x : BitVec 64) : (s.setFnReg n m x).badPa = s.badPa := rfl
@[simp] theorem State.setFnReg_ptime (s : State) (n m : Nat) (x : BitVec 64) : (s.setFnReg n m x).ptime = s.ptime := rfl
@[simp] theorem State.setFnReg_stop (s : State) (n m : Nat) (x : BitVec 64) : (s.setFnReg n m x).stop = s.stop := rfl
@[simp] theorem State.setFnReg_stopped (s : State) (n m : Nat) (x : BitVec 64) : (s.setFnReg n m x).stopped = s.stopped := rfl
@[simp] theorem State.setFnReg_waves (s : State) (n m : Nat) (x : BitVec 64) : (s.setFnReg n m x).waves = s.waves := rfl
@[simp] theorem State.setFnReg_crews (s : State) (n m : Nat) (x : BitVec 64) : (s.setFnReg n m x).crews = s.crews := rfl
@[simp] theorem State.setFnReg_ctxs (s : State) (n m : Nat) (x : BitVec 64) : (s.setFnReg n m x).ctxs = s.ctxs := rfl
@[simp] theorem State.setFnReg_dbg (s : State) (n m : Nat) (x : BitVec 64) : (s.setFnReg n m x).dbg = s.dbg := rfl
@[simp] theorem State.setFnReg_ms (s : State) (n m : Nat) (x : BitVec 64) : (s.setFnReg n m x).ms = s.ms := rfl
@[simp] theorem State.setFnReg_ops (s : State) (n m : Nat) (x : BitVec 64) : (s.setFnReg n m x).ops = s.ops := rfl
@[simp] theorem State.setFnReg_fails (s : State) (n m : Nat) (x : BitVec 64) : (s.setFnReg n m x).fails = s.fails := rfl
@[simp] theorem State.setFnReg_courier (s : State) (n m : Nat) (x : BitVec 64) : (s.setFnReg n m x).courier = s.courier := rfl
@[simp] theorem State.setFnReg_passes (s : State) (n m : Nat) (x : BitVec 64) : (s.setFnReg n m x).passes = s.passes := rfl
@[simp] theorem State.setFnReg_contests (s : State) (n m : Nat) (x : BitVec 64) : (s.setFnReg n m x).contests = s.contests := rfl
@[simp] theorem State.setFnReg_rounds (s : State) (n m : Nat) (x : BitVec 64) : (s.setFnReg n m x).rounds = s.rounds := rfl
@[simp] theorem State.setFnReg_parks (s : State) (n m : Nat) (x : BitVec 64) : (s.setFnReg n m x).parks = s.parks := rfl
@[simp] theorem State.setFnReg_routes (s : State) (n m : Nat) (x : BitVec 64) : (s.setFnReg n m x).routes = s.routes := rfl
@[simp] theorem State.setFnReg_tries (s : State) (n m : Nat) (x : BitVec 64) : (s.setFnReg n m x).tries = s.tries := rfl
@[simp] theorem State.setFnReg_regPend (s : State) (n m : Nat) (x : BitVec 64) : (s.setFnReg n m x).regPend = s.regPend := rfl
@[simp] theorem State.setFnReg_cons (s : State) (n m : Nat) (x : BitVec 64) : (s.setFnReg n m x).cons = s.cons := rfl
@[simp] theorem State.setFnReg_cavs (s : State) (n m : Nat) (x : BitVec 64) : (s.setFnReg n m x).cavs = s.cavs := rfl
@[simp] theorem State.setFnReg_nextH (s : State) (n m : Nat) (x : BitVec 64) : (s.setFnReg n m x).nextH = s.nextH := rfl
@[simp] theorem State.setFnReg_outbox (s : State) (n m : Nat) (x : BitVec 64) : (s.setFnReg n m x).outbox = s.outbox := rfl
@[simp] theorem State.setFnReg_pkg (s : State) (n m : Nat) (x : BitVec 64) : (s.setFnReg n m x).pkg = s.pkg := rfl
@[simp] theorem State.setPkgReg_steps (s : State) (m : Nat) (x : BitVec 64) : (s.setPkgReg m x).steps = s.steps := rfl
@[simp] theorem State.setPkgReg_agenda (s : State) (m : Nat) (x : BitVec 64) : (s.setPkgReg m x).agenda = s.agenda := rfl
@[simp] theorem State.setPkgReg_sel (s : State) (m : Nat) (x : BitVec 64) : (s.setPkgReg m x).sel = s.sel := rfl
@[simp] theorem State.setPkgReg_badPa (s : State) (m : Nat) (x : BitVec 64) : (s.setPkgReg m x).badPa = s.badPa := rfl
@[simp] theorem State.setPkgReg_ptime (s : State) (m : Nat) (x : BitVec 64) : (s.setPkgReg m x).ptime = s.ptime := rfl
@[simp] theorem State.setPkgReg_stop (s : State) (m : Nat) (x : BitVec 64) : (s.setPkgReg m x).stop = s.stop := rfl
@[simp] theorem State.setPkgReg_stopped (s : State) (m : Nat) (x : BitVec 64) : (s.setPkgReg m x).stopped = s.stopped := rfl
@[simp] theorem State.setPkgReg_waves (s : State) (m : Nat) (x : BitVec 64) : (s.setPkgReg m x).waves = s.waves := rfl
@[simp] theorem State.setPkgReg_crews (s : State) (m : Nat) (x : BitVec 64) : (s.setPkgReg m x).crews = s.crews := rfl
@[simp] theorem State.setPkgReg_ctxs (s : State) (m : Nat) (x : BitVec 64) : (s.setPkgReg m x).ctxs = s.ctxs := rfl
@[simp] theorem State.setPkgReg_dbg (s : State) (m : Nat) (x : BitVec 64) : (s.setPkgReg m x).dbg = s.dbg := rfl
@[simp] theorem State.setPkgReg_ms (s : State) (m : Nat) (x : BitVec 64) : (s.setPkgReg m x).ms = s.ms := rfl
@[simp] theorem State.setPkgReg_ops (s : State) (m : Nat) (x : BitVec 64) : (s.setPkgReg m x).ops = s.ops := rfl
@[simp] theorem State.setPkgReg_fails (s : State) (m : Nat) (x : BitVec 64) : (s.setPkgReg m x).fails = s.fails := rfl
@[simp] theorem State.setPkgReg_courier (s : State) (m : Nat) (x : BitVec 64) : (s.setPkgReg m x).courier = s.courier := rfl
@[simp] theorem State.setPkgReg_passes (s : State) (m : Nat) (x : BitVec 64) : (s.setPkgReg m x).passes = s.passes := rfl
@[simp] theorem State.setPkgReg_contests (s : State) (m : Nat) (x : BitVec 64) : (s.setPkgReg m x).contests = s.contests := rfl
@[simp] theorem State.setPkgReg_rounds (s : State) (m : Nat) (x : BitVec 64) : (s.setPkgReg m x).rounds = s.rounds := rfl
@[simp] theorem State.setPkgReg_parks (s : State) (m : Nat) (x : BitVec 64) : (s.setPkgReg m x).parks = s.parks := rfl
@[simp] theorem State.setPkgReg_routes (s : State) (m : Nat) (x : BitVec 64) : (s.setPkgReg m x).routes = s.routes := rfl
@[simp] theorem State.setPkgReg_tries (s : State) (m : Nat) (x : BitVec 64) : (s.setPkgReg m x).tries = s.tries := rfl
@[simp] theorem State.setPkgReg_regPend (s : State) (m : Nat) (x : BitVec 64) : (s.setPkgReg m x).regPend = s.regPend := rfl
@[simp] theorem State.setPkgReg_cons (s : State) (m : Nat) (x : BitVec 64) : (s.setPkgReg m x).cons = s.cons := rfl
@[simp] theorem State.setPkgReg_cavs (s : State) (m : Nat) (x : BitVec 64) : (s.setPkgReg m x).cavs = s.cavs := rfl
@[simp] theorem State.setPkgReg_nextH (s : State) (m : Nat) (x : BitVec 64) : (s.setPkgReg m x).nextH = s.nextH := rfl
@[simp] theorem State.setPkgReg_fns (s : State) (m : Nat) (x : BitVec 64) : (s.setPkgReg m x).fns = s.fns := rfl
@[simp] theorem State.setPkgReg_outbox (s : State) (m : Nat) (x : BitVec 64) : (s.setPkgReg m x).outbox = s.outbox := rfl
@[simp] theorem State.setPkgReg_pkg_size (s : State) (m : Nat) (x : BitVec 64) : (s.setPkgReg m x).pkg.size = s.pkg.size := rfl
@[simp] theorem State.setPkgReg_pkg_limit (s : State) (m : Nat) (x : BitVec 64) : (s.setPkgReg m x).pkg.limit = s.pkg.limit := rfl
@[simp] theorem State.setPkgReg_pkg_purse (s : State) (m : Nat) (x : BitVec 64) : (s.setPkgReg m x).pkg.purse = s.pkg.purse := rfl
@[simp] theorem State.setPkgReg_pkg_qbuf (s : State) (m : Nat) (x : BitVec 64) : (s.setPkgReg m x).pkg.qbuf = s.pkg.qbuf := rfl
@[simp] theorem State.setPkgReg_pkg_last (s : State) (m : Nat) (x : BitVec 64) : (s.setPkgReg m x).pkg.last = s.pkg.last := rfl
@[simp] theorem State.setPkgReg_pkg_drawn (s : State) (m : Nat) (x : BitVec 64) : (s.setPkgReg m x).pkg.drawn = s.pkg.drawn := rfl
@[simp] theorem State.setPkgReg_pkg_overs (s : State) (m : Nat) (x : BitVec 64) : (s.setPkgReg m x).pkg.overs = s.pkg.overs := rfl
@[simp] theorem State.setPkgReg_pkg_refilled (s : State) (m : Nat) (x : BitVec 64) : (s.setPkgReg m x).pkg.refilled = s.pkg.refilled := rfl
@[simp] theorem State.setPkgReg_pkg_gov (s : State) (m : Nat) (x : BitVec 64) : (s.setPkgReg m x).pkg.gov = s.pkg.gov := rfl
@[simp] theorem State.setPkgReg_pkg_mhz (s : State) (m : Nat) (x : BitVec 64) : (s.setPkgReg m x).pkg.mhz = s.pkg.mhz := rfl
@[simp] theorem State.setPkgReg_pkg_bound (s : State) (m : Nat) (x : BitVec 64) : (s.setPkgReg m x).pkg.bound = s.pkg.bound := rfl
@[simp] theorem State.setPkgReg_pkg_wasBound (s : State) (m : Nat) (x : BitVec 64) : (s.setPkgReg m x).pkg.wasBound = s.pkg.wasBound := rfl
@[simp] theorem State.setPkgReg_pkg_cyc (s : State) (m : Nat) (x : BitVec 64) : (s.setPkgReg m x).pkg.cyc = s.pkg.cyc := rfl
@[simp] theorem State.setPkgReg_pkg_dies (s : State) (m : Nat) (x : BitVec 64) : (s.setPkgReg m x).pkg.dies = s.pkg.dies := rfl
@[simp] theorem State.setPkgReg_pkg_links (s : State) (m : Nat) (x : BitVec 64) : (s.setPkgReg m x).pkg.links = s.pkg.links := rfl
@[simp] theorem State.setPkgReg_pkg_ports (s : State) (m : Nat) (x : BitVec 64) : (s.setPkgReg m x).pkg.ports = s.pkg.ports := rfl
@[simp] theorem State.setPkgReg_pkg_routes (s : State) (m : Nat) (x : BitVec 64) : (s.setPkgReg m x).pkg.routes = s.pkg.routes := rfl
@[simp] theorem State.setPkgReg_pkg_banks (s : State) (m : Nat) (x : BitVec 64) : (s.setPkgReg m x).pkg.banks = s.pkg.banks := rfl
@[simp] theorem State.setPkgReg_pkg_strong (s : State) (m : Nat) (x : BitVec 64) : (s.setPkgReg m x).pkg.strong = s.pkg.strong := rfl
@[simp] theorem State.setPkgReg_pkg_hist (s : State) (m : Nat) (x : BitVec 64) : (s.setPkgReg m x).pkg.hist = s.pkg.hist := rfl
@[simp] theorem State.setPkgReg_pkg_gath (s : State) (m : Nat) (x : BitVec 64) : (s.setPkgReg m x).pkg.gath = s.pkg.gath := rfl
@[simp] theorem State.setPkgReg_pkg_stored (s : State) (m : Nat) (x : BitVec 64) : (s.setPkgReg m x).pkg.stored = s.pkg.stored := rfl
@[simp] theorem State.setPkgReg_pkg_recovery (s : State) (m : Nat) (x : BitVec 64) : (s.setPkgReg m x).pkg.recovery = s.pkg.recovery := rfl
@[simp] theorem State.setPkgReg_pkg_version (s : State) (m : Nat) (x : BitVec 64) : (s.setPkgReg m x).pkg.version = s.pkg.version := rfl
@[simp] theorem State.setPkgReg_pkg_image (s : State) (m : Nat) (x : BitVec 64) : (s.setPkgReg m x).pkg.image = s.pkg.image := rfl
@[simp] theorem State.setPkgReg_pkg_issued (s : State) (m : Nat) (x : BitVec 64) : (s.setPkgReg m x).pkg.issued = s.pkg.issued := rfl
@[simp] theorem State.setPkgReg_pkg_vecs (s : State) (m : Nat) (x : BitVec 64) : (s.setPkgReg m x).pkg.vecs = s.pkg.vecs := rfl
@[simp] theorem State.setPkgReg_pkg_strays (s : State) (m : Nat) (x : BitVec 64) : (s.setPkgReg m x).pkg.strays = s.pkg.strays := rfl
@[simp] theorem State.setQbuf_steps (s : State) (q n : Nat) : (s.setQbuf q n).steps = s.steps := rfl
@[simp] theorem State.setQbuf_agenda (s : State) (q n : Nat) : (s.setQbuf q n).agenda = s.agenda := rfl
@[simp] theorem State.setQbuf_sel (s : State) (q n : Nat) : (s.setQbuf q n).sel = s.sel := rfl
@[simp] theorem State.setQbuf_badPa (s : State) (q n : Nat) : (s.setQbuf q n).badPa = s.badPa := rfl
@[simp] theorem State.setQbuf_ptime (s : State) (q n : Nat) : (s.setQbuf q n).ptime = s.ptime := rfl
@[simp] theorem State.setQbuf_stop (s : State) (q n : Nat) : (s.setQbuf q n).stop = s.stop := rfl
@[simp] theorem State.setQbuf_stopped (s : State) (q n : Nat) : (s.setQbuf q n).stopped = s.stopped := rfl
@[simp] theorem State.setQbuf_waves (s : State) (q n : Nat) : (s.setQbuf q n).waves = s.waves := rfl
@[simp] theorem State.setQbuf_crews (s : State) (q n : Nat) : (s.setQbuf q n).crews = s.crews := rfl
@[simp] theorem State.setQbuf_ctxs (s : State) (q n : Nat) : (s.setQbuf q n).ctxs = s.ctxs := rfl
@[simp] theorem State.setQbuf_dbg (s : State) (q n : Nat) : (s.setQbuf q n).dbg = s.dbg := rfl
@[simp] theorem State.setQbuf_ms (s : State) (q n : Nat) : (s.setQbuf q n).ms = s.ms := rfl
@[simp] theorem State.setQbuf_ops (s : State) (q n : Nat) : (s.setQbuf q n).ops = s.ops := rfl
@[simp] theorem State.setQbuf_fails (s : State) (q n : Nat) : (s.setQbuf q n).fails = s.fails := rfl
@[simp] theorem State.setQbuf_courier (s : State) (q n : Nat) : (s.setQbuf q n).courier = s.courier := rfl
@[simp] theorem State.setQbuf_passes (s : State) (q n : Nat) : (s.setQbuf q n).passes = s.passes := rfl
@[simp] theorem State.setQbuf_contests (s : State) (q n : Nat) : (s.setQbuf q n).contests = s.contests := rfl
@[simp] theorem State.setQbuf_rounds (s : State) (q n : Nat) : (s.setQbuf q n).rounds = s.rounds := rfl
@[simp] theorem State.setQbuf_parks (s : State) (q n : Nat) : (s.setQbuf q n).parks = s.parks := rfl
@[simp] theorem State.setQbuf_routes (s : State) (q n : Nat) : (s.setQbuf q n).routes = s.routes := rfl
@[simp] theorem State.setQbuf_tries (s : State) (q n : Nat) : (s.setQbuf q n).tries = s.tries := rfl
@[simp] theorem State.setQbuf_regPend (s : State) (q n : Nat) : (s.setQbuf q n).regPend = s.regPend := rfl
@[simp] theorem State.setQbuf_cons (s : State) (q n : Nat) : (s.setQbuf q n).cons = s.cons := rfl
@[simp] theorem State.setQbuf_cavs (s : State) (q n : Nat) : (s.setQbuf q n).cavs = s.cavs := rfl
@[simp] theorem State.setQbuf_nextH (s : State) (q n : Nat) : (s.setQbuf q n).nextH = s.nextH := rfl
@[simp] theorem State.setQbuf_fns (s : State) (q n : Nat) : (s.setQbuf q n).fns = s.fns := rfl
@[simp] theorem State.setQbuf_outbox (s : State) (q n : Nat) : (s.setQbuf q n).outbox = s.outbox := rfl
@[simp] theorem State.setQbuf_pkg_size (s : State) (q n : Nat) : (s.setQbuf q n).pkg.size = s.pkg.size := rfl
@[simp] theorem State.setQbuf_pkg_regs (s : State) (q n : Nat) : (s.setQbuf q n).pkg.regs = s.pkg.regs := rfl
@[simp] theorem State.setQbuf_pkg_limit (s : State) (q n : Nat) : (s.setQbuf q n).pkg.limit = s.pkg.limit := rfl
@[simp] theorem State.setQbuf_pkg_purse (s : State) (q n : Nat) : (s.setQbuf q n).pkg.purse = s.pkg.purse := rfl
@[simp] theorem State.setQbuf_pkg_last (s : State) (q n : Nat) : (s.setQbuf q n).pkg.last = s.pkg.last := rfl
@[simp] theorem State.setQbuf_pkg_drawn (s : State) (q n : Nat) : (s.setQbuf q n).pkg.drawn = s.pkg.drawn := rfl
@[simp] theorem State.setQbuf_pkg_overs (s : State) (q n : Nat) : (s.setQbuf q n).pkg.overs = s.pkg.overs := rfl
@[simp] theorem State.setQbuf_pkg_refilled (s : State) (q n : Nat) : (s.setQbuf q n).pkg.refilled = s.pkg.refilled := rfl
@[simp] theorem State.setQbuf_pkg_gov (s : State) (q n : Nat) : (s.setQbuf q n).pkg.gov = s.pkg.gov := rfl
@[simp] theorem State.setQbuf_pkg_mhz (s : State) (q n : Nat) : (s.setQbuf q n).pkg.mhz = s.pkg.mhz := rfl
@[simp] theorem State.setQbuf_pkg_bound (s : State) (q n : Nat) : (s.setQbuf q n).pkg.bound = s.pkg.bound := rfl
@[simp] theorem State.setQbuf_pkg_wasBound (s : State) (q n : Nat) : (s.setQbuf q n).pkg.wasBound = s.pkg.wasBound := rfl
@[simp] theorem State.setQbuf_pkg_cyc (s : State) (q n : Nat) : (s.setQbuf q n).pkg.cyc = s.pkg.cyc := rfl
@[simp] theorem State.setQbuf_pkg_dies (s : State) (q n : Nat) : (s.setQbuf q n).pkg.dies = s.pkg.dies := rfl
@[simp] theorem State.setQbuf_pkg_links (s : State) (q n : Nat) : (s.setQbuf q n).pkg.links = s.pkg.links := rfl
@[simp] theorem State.setQbuf_pkg_ports (s : State) (q n : Nat) : (s.setQbuf q n).pkg.ports = s.pkg.ports := rfl
@[simp] theorem State.setQbuf_pkg_routes (s : State) (q n : Nat) : (s.setQbuf q n).pkg.routes = s.pkg.routes := rfl
@[simp] theorem State.setQbuf_pkg_banks (s : State) (q n : Nat) : (s.setQbuf q n).pkg.banks = s.pkg.banks := rfl
@[simp] theorem State.setQbuf_pkg_strong (s : State) (q n : Nat) : (s.setQbuf q n).pkg.strong = s.pkg.strong := rfl
@[simp] theorem State.setQbuf_pkg_hist (s : State) (q n : Nat) : (s.setQbuf q n).pkg.hist = s.pkg.hist := rfl
@[simp] theorem State.setQbuf_pkg_gath (s : State) (q n : Nat) : (s.setQbuf q n).pkg.gath = s.pkg.gath := rfl
@[simp] theorem State.setQbuf_pkg_stored (s : State) (q n : Nat) : (s.setQbuf q n).pkg.stored = s.pkg.stored := rfl
@[simp] theorem State.setQbuf_pkg_recovery (s : State) (q n : Nat) : (s.setQbuf q n).pkg.recovery = s.pkg.recovery := rfl
@[simp] theorem State.setQbuf_pkg_version (s : State) (q n : Nat) : (s.setQbuf q n).pkg.version = s.pkg.version := rfl
@[simp] theorem State.setQbuf_pkg_image (s : State) (q n : Nat) : (s.setQbuf q n).pkg.image = s.pkg.image := rfl
@[simp] theorem State.setQbuf_pkg_issued (s : State) (q n : Nat) : (s.setQbuf q n).pkg.issued = s.pkg.issued := rfl
@[simp] theorem State.setQbuf_pkg_vecs (s : State) (q n : Nat) : (s.setQbuf q n).pkg.vecs = s.pkg.vecs := rfl
@[simp] theorem State.setQbuf_pkg_strays (s : State) (q n : Nat) : (s.setQbuf q n).pkg.strays = s.pkg.strays := rfl
@[simp] theorem State.modScr_steps (s : State) (c : Nat) (g : Mem → Mem) : (s.modScr c g).steps = s.steps := rfl
@[simp] theorem State.modScr_agenda (s : State) (c : Nat) (g : Mem → Mem) : (s.modScr c g).agenda = s.agenda := rfl
@[simp] theorem State.modScr_sel (s : State) (c : Nat) (g : Mem → Mem) : (s.modScr c g).sel = s.sel := rfl
@[simp] theorem State.modScr_badPa (s : State) (c : Nat) (g : Mem → Mem) : (s.modScr c g).badPa = s.badPa := rfl
@[simp] theorem State.modScr_ptime (s : State) (c : Nat) (g : Mem → Mem) : (s.modScr c g).ptime = s.ptime := rfl
@[simp] theorem State.modScr_stop (s : State) (c : Nat) (g : Mem → Mem) : (s.modScr c g).stop = s.stop := rfl
@[simp] theorem State.modScr_stopped (s : State) (c : Nat) (g : Mem → Mem) : (s.modScr c g).stopped = s.stopped := rfl
@[simp] theorem State.modScr_waves (s : State) (c : Nat) (g : Mem → Mem) : (s.modScr c g).waves = s.waves := rfl
@[simp] theorem State.modScr_ctxs (s : State) (c : Nat) (g : Mem → Mem) : (s.modScr c g).ctxs = s.ctxs := rfl
@[simp] theorem State.modScr_dbg (s : State) (c : Nat) (g : Mem → Mem) : (s.modScr c g).dbg = s.dbg := rfl
@[simp] theorem State.modScr_ms (s : State) (c : Nat) (g : Mem → Mem) : (s.modScr c g).ms = s.ms := rfl
@[simp] theorem State.modScr_ops (s : State) (c : Nat) (g : Mem → Mem) : (s.modScr c g).ops = s.ops := rfl
@[simp] theorem State.modScr_fails (s : State) (c : Nat) (g : Mem → Mem) : (s.modScr c g).fails = s.fails := rfl
@[simp] theorem State.modScr_courier (s : State) (c : Nat) (g : Mem → Mem) : (s.modScr c g).courier = s.courier := rfl
@[simp] theorem State.modScr_passes (s : State) (c : Nat) (g : Mem → Mem) : (s.modScr c g).passes = s.passes := rfl
@[simp] theorem State.modScr_contests (s : State) (c : Nat) (g : Mem → Mem) : (s.modScr c g).contests = s.contests := rfl
@[simp] theorem State.modScr_rounds (s : State) (c : Nat) (g : Mem → Mem) : (s.modScr c g).rounds = s.rounds := rfl
@[simp] theorem State.modScr_parks (s : State) (c : Nat) (g : Mem → Mem) : (s.modScr c g).parks = s.parks := rfl
@[simp] theorem State.modScr_routes (s : State) (c : Nat) (g : Mem → Mem) : (s.modScr c g).routes = s.routes := rfl
@[simp] theorem State.modScr_tries (s : State) (c : Nat) (g : Mem → Mem) : (s.modScr c g).tries = s.tries := rfl
@[simp] theorem State.modScr_regPend (s : State) (c : Nat) (g : Mem → Mem) : (s.modScr c g).regPend = s.regPend := rfl
@[simp] theorem State.modScr_cons (s : State) (c : Nat) (g : Mem → Mem) : (s.modScr c g).cons = s.cons := rfl
@[simp] theorem State.modScr_cavs (s : State) (c : Nat) (g : Mem → Mem) : (s.modScr c g).cavs = s.cavs := rfl
@[simp] theorem State.modScr_nextH (s : State) (c : Nat) (g : Mem → Mem) : (s.modScr c g).nextH = s.nextH := rfl
@[simp] theorem State.modScr_fns (s : State) (c : Nat) (g : Mem → Mem) : (s.modScr c g).fns = s.fns := rfl
@[simp] theorem State.modScr_outbox (s : State) (c : Nat) (g : Mem → Mem) : (s.modScr c g).outbox = s.outbox := rfl
@[simp] theorem State.modScr_pkg (s : State) (c : Nat) (g : Mem → Mem) : (s.modScr c g).pkg = s.pkg := rfl
@[simp] theorem State.setDsc_steps (s : State) (n d : Nat) (m : Mem) : (s.setDsc n d m).steps = s.steps := rfl
@[simp] theorem State.setDsc_agenda (s : State) (n d : Nat) (m : Mem) : (s.setDsc n d m).agenda = s.agenda := rfl
@[simp] theorem State.setDsc_sel (s : State) (n d : Nat) (m : Mem) : (s.setDsc n d m).sel = s.sel := rfl
@[simp] theorem State.setDsc_badPa (s : State) (n d : Nat) (m : Mem) : (s.setDsc n d m).badPa = s.badPa := rfl
@[simp] theorem State.setDsc_ptime (s : State) (n d : Nat) (m : Mem) : (s.setDsc n d m).ptime = s.ptime := rfl
@[simp] theorem State.setDsc_stop (s : State) (n d : Nat) (m : Mem) : (s.setDsc n d m).stop = s.stop := rfl
@[simp] theorem State.setDsc_stopped (s : State) (n d : Nat) (m : Mem) : (s.setDsc n d m).stopped = s.stopped := rfl
@[simp] theorem State.setDsc_waves (s : State) (n d : Nat) (m : Mem) : (s.setDsc n d m).waves = s.waves := rfl
@[simp] theorem State.setDsc_crews (s : State) (n d : Nat) (m : Mem) : (s.setDsc n d m).crews = s.crews := rfl
@[simp] theorem State.setDsc_ctxs (s : State) (n d : Nat) (m : Mem) : (s.setDsc n d m).ctxs = s.ctxs := rfl
@[simp] theorem State.setDsc_dbg (s : State) (n d : Nat) (m : Mem) : (s.setDsc n d m).dbg = s.dbg := rfl
@[simp] theorem State.setDsc_ops (s : State) (n d : Nat) (m : Mem) : (s.setDsc n d m).ops = s.ops := rfl
@[simp] theorem State.setDsc_fails (s : State) (n d : Nat) (m : Mem) : (s.setDsc n d m).fails = s.fails := rfl
@[simp] theorem State.setDsc_courier (s : State) (n d : Nat) (m : Mem) : (s.setDsc n d m).courier = s.courier := rfl
@[simp] theorem State.setDsc_passes (s : State) (n d : Nat) (m : Mem) : (s.setDsc n d m).passes = s.passes := rfl
@[simp] theorem State.setDsc_contests (s : State) (n d : Nat) (m : Mem) : (s.setDsc n d m).contests = s.contests := rfl
@[simp] theorem State.setDsc_rounds (s : State) (n d : Nat) (m : Mem) : (s.setDsc n d m).rounds = s.rounds := rfl
@[simp] theorem State.setDsc_parks (s : State) (n d : Nat) (m : Mem) : (s.setDsc n d m).parks = s.parks := rfl
@[simp] theorem State.setDsc_routes (s : State) (n d : Nat) (m : Mem) : (s.setDsc n d m).routes = s.routes := rfl
@[simp] theorem State.setDsc_tries (s : State) (n d : Nat) (m : Mem) : (s.setDsc n d m).tries = s.tries := rfl
@[simp] theorem State.setDsc_regPend (s : State) (n d : Nat) (m : Mem) : (s.setDsc n d m).regPend = s.regPend := rfl
@[simp] theorem State.setDsc_cons (s : State) (n d : Nat) (m : Mem) : (s.setDsc n d m).cons = s.cons := rfl
@[simp] theorem State.setDsc_cavs (s : State) (n d : Nat) (m : Mem) : (s.setDsc n d m).cavs = s.cavs := rfl
@[simp] theorem State.setDsc_nextH (s : State) (n d : Nat) (m : Mem) : (s.setDsc n d m).nextH = s.nextH := rfl
@[simp] theorem State.setDsc_fns (s : State) (n d : Nat) (m : Mem) : (s.setDsc n d m).fns = s.fns := rfl
@[simp] theorem State.setDsc_outbox (s : State) (n d : Nat) (m : Mem) : (s.setDsc n d m).outbox = s.outbox := rfl
@[simp] theorem State.setDsc_pkg (s : State) (n d : Nat) (m : Mem) : (s.setDsc n d m).pkg = s.pkg := rfl
@[simp] theorem State.setDsc_ms_phys (s : State) (n d : Nat) (m : Mem) : (s.setDsc n d m).ms.phys = s.ms.phys := rfl
@[simp] theorem State.setDsc_ms_pbits (s : State) (n d : Nat) (m : Mem) : (s.setDsc n d m).ms.pbits = s.ms.pbits := rfl
@[simp] theorem State.setDsc_ms_stores (s : State) (n d : Nat) (m : Mem) : (s.setDsc n d m).ms.stores = s.ms.stores := rfl
@[simp] theorem State.setDsc_ms_nextSid (s : State) (n d : Nat) (m : Mem) : (s.setDsc n d m).ms.nextSid = s.ms.nextSid := rfl
@[simp] theorem State.setDsc_ms_l1d (s : State) (n d : Nat) (m : Mem) : (s.setDsc n d m).ms.l1d = s.ms.l1d := rfl
@[simp] theorem State.setDsc_ms_way (s : State) (n d : Nat) (m : Mem) : (s.setDsc n d m).ms.way = s.ms.way := rfl
@[simp] theorem State.setDsc_ms_dir (s : State) (n d : Nat) (m : Mem) : (s.setDsc n d m).ms.dir = s.ms.dir := rfl
@[simp] theorem State.setDsc_ms_locks (s : State) (n d : Nat) (m : Mem) : (s.setDsc n d m).ms.locks = s.ms.locks := rfl
@[simp] theorem State.setDsc_ms_lost (s : State) (n d : Nat) (m : Mem) : (s.setDsc n d m).ms.lost = s.ms.lost := rfl
@[simp] theorem State.setDsc_ms_tlb (s : State) (n d : Nat) (m : Mem) : (s.setDsc n d m).ms.tlb = s.ms.tlb := rfl
@[simp] theorem State.setDsc_ms_lrc (s : State) (n d : Nat) (m : Mem) : (s.setDsc n d m).ms.lrc = s.ms.lrc := rfl
@[simp] theorem State.setDsc_ms_ilines (s : State) (n d : Nat) (m : Mem) : (s.setDsc n d m).ms.ilines = s.ms.ilines := rfl
@[simp] theorem State.setDsc_ms_syncs (s : State) (n d : Nat) (m : Mem) : (s.setDsc n d m).ms.syncs = s.ms.syncs := rfl
@[simp] theorem State.putOp_steps (s : State) (o : EngOp) : (s.putOp o).steps = s.steps := rfl
@[simp] theorem State.putOp_agenda (s : State) (o : EngOp) : (s.putOp o).agenda = s.agenda := rfl
@[simp] theorem State.putOp_sel (s : State) (o : EngOp) : (s.putOp o).sel = s.sel := rfl
@[simp] theorem State.putOp_badPa (s : State) (o : EngOp) : (s.putOp o).badPa = s.badPa := rfl
@[simp] theorem State.putOp_ptime (s : State) (o : EngOp) : (s.putOp o).ptime = s.ptime := rfl
@[simp] theorem State.putOp_stop (s : State) (o : EngOp) : (s.putOp o).stop = s.stop := rfl
@[simp] theorem State.putOp_stopped (s : State) (o : EngOp) : (s.putOp o).stopped = s.stopped := rfl
@[simp] theorem State.putOp_waves (s : State) (o : EngOp) : (s.putOp o).waves = s.waves := rfl
@[simp] theorem State.putOp_crews (s : State) (o : EngOp) : (s.putOp o).crews = s.crews := rfl
@[simp] theorem State.putOp_ctxs (s : State) (o : EngOp) : (s.putOp o).ctxs = s.ctxs := rfl
@[simp] theorem State.putOp_dbg (s : State) (o : EngOp) : (s.putOp o).dbg = s.dbg := rfl
@[simp] theorem State.putOp_ms (s : State) (o : EngOp) : (s.putOp o).ms = s.ms := rfl
@[simp] theorem State.putOp_courier (s : State) (o : EngOp) : (s.putOp o).courier = s.courier := rfl
@[simp] theorem State.putOp_passes (s : State) (o : EngOp) : (s.putOp o).passes = s.passes := rfl
@[simp] theorem State.putOp_contests (s : State) (o : EngOp) : (s.putOp o).contests = s.contests := rfl
@[simp] theorem State.putOp_rounds (s : State) (o : EngOp) : (s.putOp o).rounds = s.rounds := rfl
@[simp] theorem State.putOp_parks (s : State) (o : EngOp) : (s.putOp o).parks = s.parks := rfl
@[simp] theorem State.putOp_routes (s : State) (o : EngOp) : (s.putOp o).routes = s.routes := rfl
@[simp] theorem State.putOp_tries (s : State) (o : EngOp) : (s.putOp o).tries = s.tries := rfl
@[simp] theorem State.putOp_regPend (s : State) (o : EngOp) : (s.putOp o).regPend = s.regPend := rfl
@[simp] theorem State.putOp_cons (s : State) (o : EngOp) : (s.putOp o).cons = s.cons := rfl
@[simp] theorem State.putOp_cavs (s : State) (o : EngOp) : (s.putOp o).cavs = s.cavs := rfl
@[simp] theorem State.putOp_nextH (s : State) (o : EngOp) : (s.putOp o).nextH = s.nextH := rfl
@[simp] theorem State.putOp_fns (s : State) (o : EngOp) : (s.putOp o).fns = s.fns := rfl
@[simp] theorem State.putOp_outbox (s : State) (o : EngOp) : (s.putOp o).outbox = s.outbox := rfl
@[simp] theorem State.putOp_pkg (s : State) (o : EngOp) : (s.putOp o).pkg = s.pkg := rfl
@[simp] theorem State.putOp_fails (s : State) (o : EngOp) : (s.putOp o).fails = s.fails := rfl
@[simp] theorem State.putCons_steps (s : State) (k : Cons) : (s.putCons k).steps = s.steps := rfl
@[simp] theorem State.putCons_agenda (s : State) (k : Cons) : (s.putCons k).agenda = s.agenda := rfl
@[simp] theorem State.putCons_sel (s : State) (k : Cons) : (s.putCons k).sel = s.sel := rfl
@[simp] theorem State.putCons_badPa (s : State) (k : Cons) : (s.putCons k).badPa = s.badPa := rfl
@[simp] theorem State.putCons_ptime (s : State) (k : Cons) : (s.putCons k).ptime = s.ptime := rfl
@[simp] theorem State.putCons_stop (s : State) (k : Cons) : (s.putCons k).stop = s.stop := rfl
@[simp] theorem State.putCons_stopped (s : State) (k : Cons) : (s.putCons k).stopped = s.stopped := rfl
@[simp] theorem State.putCons_waves (s : State) (k : Cons) : (s.putCons k).waves = s.waves := rfl
@[simp] theorem State.putCons_crews (s : State) (k : Cons) : (s.putCons k).crews = s.crews := rfl
@[simp] theorem State.putCons_ctxs (s : State) (k : Cons) : (s.putCons k).ctxs = s.ctxs := rfl
@[simp] theorem State.putCons_dbg (s : State) (k : Cons) : (s.putCons k).dbg = s.dbg := rfl
@[simp] theorem State.putCons_ms (s : State) (k : Cons) : (s.putCons k).ms = s.ms := rfl
@[simp] theorem State.putCons_ops (s : State) (k : Cons) : (s.putCons k).ops = s.ops := rfl
@[simp] theorem State.putCons_fails (s : State) (k : Cons) : (s.putCons k).fails = s.fails := rfl
@[simp] theorem State.putCons_courier (s : State) (k : Cons) : (s.putCons k).courier = s.courier := rfl
@[simp] theorem State.putCons_passes (s : State) (k : Cons) : (s.putCons k).passes = s.passes := rfl
@[simp] theorem State.putCons_contests (s : State) (k : Cons) : (s.putCons k).contests = s.contests := rfl
@[simp] theorem State.putCons_rounds (s : State) (k : Cons) : (s.putCons k).rounds = s.rounds := rfl
@[simp] theorem State.putCons_parks (s : State) (k : Cons) : (s.putCons k).parks = s.parks := rfl
@[simp] theorem State.putCons_routes (s : State) (k : Cons) : (s.putCons k).routes = s.routes := rfl
@[simp] theorem State.putCons_tries (s : State) (k : Cons) : (s.putCons k).tries = s.tries := rfl
@[simp] theorem State.putCons_regPend (s : State) (k : Cons) : (s.putCons k).regPend = s.regPend := rfl
@[simp] theorem State.putCons_cavs (s : State) (k : Cons) : (s.putCons k).cavs = s.cavs := rfl
@[simp] theorem State.putCons_nextH (s : State) (k : Cons) : (s.putCons k).nextH = s.nextH := rfl
@[simp] theorem State.putCons_fns (s : State) (k : Cons) : (s.putCons k).fns = s.fns := rfl
@[simp] theorem State.putCons_outbox (s : State) (k : Cons) : (s.putCons k).outbox = s.outbox := rfl
@[simp] theorem State.putCons_pkg (s : State) (k : Cons) : (s.putCons k).pkg = s.pkg := rfl
@[simp] theorem State.putStore_steps (s : State) (p : PStore) : (s.putStore p).steps = s.steps := rfl
@[simp] theorem State.putStore_agenda (s : State) (p : PStore) : (s.putStore p).agenda = s.agenda := rfl
@[simp] theorem State.putStore_sel (s : State) (p : PStore) : (s.putStore p).sel = s.sel := rfl
@[simp] theorem State.putStore_badPa (s : State) (p : PStore) : (s.putStore p).badPa = s.badPa := rfl
@[simp] theorem State.putStore_ptime (s : State) (p : PStore) : (s.putStore p).ptime = s.ptime := rfl
@[simp] theorem State.putStore_stop (s : State) (p : PStore) : (s.putStore p).stop = s.stop := rfl
@[simp] theorem State.putStore_stopped (s : State) (p : PStore) : (s.putStore p).stopped = s.stopped := rfl
@[simp] theorem State.putStore_waves (s : State) (p : PStore) : (s.putStore p).waves = s.waves := rfl
@[simp] theorem State.putStore_crews (s : State) (p : PStore) : (s.putStore p).crews = s.crews := rfl
@[simp] theorem State.putStore_ctxs (s : State) (p : PStore) : (s.putStore p).ctxs = s.ctxs := rfl
@[simp] theorem State.putStore_dbg (s : State) (p : PStore) : (s.putStore p).dbg = s.dbg := rfl
@[simp] theorem State.putStore_ops (s : State) (p : PStore) : (s.putStore p).ops = s.ops := rfl
@[simp] theorem State.putStore_fails (s : State) (p : PStore) : (s.putStore p).fails = s.fails := rfl
@[simp] theorem State.putStore_courier (s : State) (p : PStore) : (s.putStore p).courier = s.courier := rfl
@[simp] theorem State.putStore_passes (s : State) (p : PStore) : (s.putStore p).passes = s.passes := rfl
@[simp] theorem State.putStore_contests (s : State) (p : PStore) : (s.putStore p).contests = s.contests := rfl
@[simp] theorem State.putStore_rounds (s : State) (p : PStore) : (s.putStore p).rounds = s.rounds := rfl
@[simp] theorem State.putStore_parks (s : State) (p : PStore) : (s.putStore p).parks = s.parks := rfl
@[simp] theorem State.putStore_routes (s : State) (p : PStore) : (s.putStore p).routes = s.routes := rfl
@[simp] theorem State.putStore_tries (s : State) (p : PStore) : (s.putStore p).tries = s.tries := rfl
@[simp] theorem State.putStore_regPend (s : State) (p : PStore) : (s.putStore p).regPend = s.regPend := rfl
@[simp] theorem State.putStore_cons (s : State) (p : PStore) : (s.putStore p).cons = s.cons := rfl
@[simp] theorem State.putStore_cavs (s : State) (p : PStore) : (s.putStore p).cavs = s.cavs := rfl
@[simp] theorem State.putStore_nextH (s : State) (p : PStore) : (s.putStore p).nextH = s.nextH := rfl
@[simp] theorem State.putStore_fns (s : State) (p : PStore) : (s.putStore p).fns = s.fns := rfl
@[simp] theorem State.putStore_outbox (s : State) (p : PStore) : (s.putStore p).outbox = s.outbox := rfl
@[simp] theorem State.putStore_pkg (s : State) (p : PStore) : (s.putStore p).pkg = s.pkg := rfl
@[simp] theorem State.putStore_ms_phys (s : State) (p : PStore) : (s.putStore p).ms.phys = s.ms.phys := rfl
@[simp] theorem State.putStore_ms_dsc (s : State) (p : PStore) : (s.putStore p).ms.dsc = s.ms.dsc := rfl
@[simp] theorem State.putStore_ms_pbits (s : State) (p : PStore) : (s.putStore p).ms.pbits = s.ms.pbits := rfl
@[simp] theorem State.putStore_ms_nextSid (s : State) (p : PStore) : (s.putStore p).ms.nextSid = s.ms.nextSid := rfl
@[simp] theorem State.putStore_ms_l1d (s : State) (p : PStore) : (s.putStore p).ms.l1d = s.ms.l1d := rfl
@[simp] theorem State.putStore_ms_way (s : State) (p : PStore) : (s.putStore p).ms.way = s.ms.way := rfl
@[simp] theorem State.putStore_ms_dir (s : State) (p : PStore) : (s.putStore p).ms.dir = s.ms.dir := rfl
@[simp] theorem State.putStore_ms_locks (s : State) (p : PStore) : (s.putStore p).ms.locks = s.ms.locks := rfl
@[simp] theorem State.putStore_ms_lost (s : State) (p : PStore) : (s.putStore p).ms.lost = s.ms.lost := rfl
@[simp] theorem State.putStore_ms_tlb (s : State) (p : PStore) : (s.putStore p).ms.tlb = s.ms.tlb := rfl
@[simp] theorem State.putStore_ms_lrc (s : State) (p : PStore) : (s.putStore p).ms.lrc = s.ms.lrc := rfl
@[simp] theorem State.putStore_ms_ilines (s : State) (p : PStore) : (s.putStore p).ms.ilines = s.ms.ilines := rfl
@[simp] theorem State.putStore_ms_syncs (s : State) (p : PStore) : (s.putStore p).ms.syncs = s.ms.syncs := rfl
@[simp] theorem State.dropPark_steps (s : State) (h : Nat) : (s.dropPark h).steps = s.steps := rfl
@[simp] theorem State.dropPark_agenda (s : State) (h : Nat) : (s.dropPark h).agenda = s.agenda := rfl
@[simp] theorem State.dropPark_sel (s : State) (h : Nat) : (s.dropPark h).sel = s.sel := rfl
@[simp] theorem State.dropPark_badPa (s : State) (h : Nat) : (s.dropPark h).badPa = s.badPa := rfl
@[simp] theorem State.dropPark_ptime (s : State) (h : Nat) : (s.dropPark h).ptime = s.ptime := rfl
@[simp] theorem State.dropPark_stop (s : State) (h : Nat) : (s.dropPark h).stop = s.stop := rfl
@[simp] theorem State.dropPark_stopped (s : State) (h : Nat) : (s.dropPark h).stopped = s.stopped := rfl
@[simp] theorem State.dropPark_waves (s : State) (h : Nat) : (s.dropPark h).waves = s.waves := rfl
@[simp] theorem State.dropPark_crews (s : State) (h : Nat) : (s.dropPark h).crews = s.crews := rfl
@[simp] theorem State.dropPark_ctxs (s : State) (h : Nat) : (s.dropPark h).ctxs = s.ctxs := rfl
@[simp] theorem State.dropPark_dbg (s : State) (h : Nat) : (s.dropPark h).dbg = s.dbg := rfl
@[simp] theorem State.dropPark_ms (s : State) (h : Nat) : (s.dropPark h).ms = s.ms := rfl
@[simp] theorem State.dropPark_ops (s : State) (h : Nat) : (s.dropPark h).ops = s.ops := rfl
@[simp] theorem State.dropPark_fails (s : State) (h : Nat) : (s.dropPark h).fails = s.fails := rfl
@[simp] theorem State.dropPark_courier (s : State) (h : Nat) : (s.dropPark h).courier = s.courier := rfl
@[simp] theorem State.dropPark_passes (s : State) (h : Nat) : (s.dropPark h).passes = s.passes := rfl
@[simp] theorem State.dropPark_contests (s : State) (h : Nat) : (s.dropPark h).contests = s.contests := rfl
@[simp] theorem State.dropPark_rounds (s : State) (h : Nat) : (s.dropPark h).rounds = s.rounds := rfl
@[simp] theorem State.dropPark_routes (s : State) (h : Nat) : (s.dropPark h).routes = s.routes := rfl
@[simp] theorem State.dropPark_tries (s : State) (h : Nat) : (s.dropPark h).tries = s.tries := rfl
@[simp] theorem State.dropPark_regPend (s : State) (h : Nat) : (s.dropPark h).regPend = s.regPend := rfl
@[simp] theorem State.dropPark_cons (s : State) (h : Nat) : (s.dropPark h).cons = s.cons := rfl
@[simp] theorem State.dropPark_cavs (s : State) (h : Nat) : (s.dropPark h).cavs = s.cavs := rfl
@[simp] theorem State.dropPark_nextH (s : State) (h : Nat) : (s.dropPark h).nextH = s.nextH := rfl
@[simp] theorem State.dropPark_fns (s : State) (h : Nat) : (s.dropPark h).fns = s.fns := rfl
@[simp] theorem State.dropPark_outbox (s : State) (h : Nat) : (s.dropPark h).outbox = s.outbox := rfl
@[simp] theorem State.dropPark_pkg (s : State) (h : Nat) : (s.dropPark h).pkg = s.pkg := rfl
@[simp] theorem Wave.putPath_die (s : Wave) (p : Path) : (s.putPath p).die = s.die := rfl
@[simp] theorem Wave.putPath_core (s : Wave) (p : Path) : (s.putPath p).core = s.core := rfl
@[simp] theorem Wave.putPath_slot (s : Wave) (p : Path) : (s.putPath p).slot = s.slot := rfl
@[simp] theorem Wave.putPath_half (s : Wave) (p : Path) : (s.putPath p).half = s.half := rfl
@[simp] theorem Wave.putPath_w32 (s : Wave) (p : Path) : (s.putPath p).w32 = s.w32 := rfl
@[simp] theorem Wave.putPath_pasid (s : Wave) (p : Path) : (s.putPath p).pasid = s.pasid := rfl
@[simp] theorem Wave.putPath_crew (s : Wave) (p : Path) : (s.putPath p).crew = s.crew := rfl
@[simp] theorem Wave.putPath_wid (s : Wave) (p : Path) : (s.putPath p).wid = s.wid := rfl
@[simp] theorem Wave.putPath_role (s : Wave) (p : Path) : (s.putPath p).role = s.role := rfl
@[simp] theorem Wave.putPath_vregs (s : Wave) (p : Path) : (s.putPath p).vregs = s.vregs := rfl
@[simp] theorem Wave.putPath_acc (s : Wave) (p : Path) : (s.putPath p).acc = s.acc := rfl
@[simp] theorem Wave.putPath_stkidx (s : Wave) (p : Path) : (s.putPath p).stkidx = s.stkidx := rfl
@[simp] theorem Wave.putPath_ended (s : Wave) (p : Path) : (s.putPath p).ended = s.ended := rfl
@[simp] theorem Wave.putPath_spilled (s : Wave) (p : Path) : (s.putPath p).spilled = s.spilled := rfl
@[simp] theorem Wave.putPath_nextEid (s : Wave) (p : Path) : (s.putPath p).nextEid = s.nextEid := rfl
@[simp] theorem Wave.putPath_sreg (s : Wave) (p : Path) : (s.putPath p).sreg = s.sreg := rfl
@[simp] theorem Wave.putPath_p (s : Wave) (p : Path) : (s.putPath p).p = s.p := rfl
@[simp] theorem Wave.putPath_d (s : Wave) (p : Path) : (s.putPath p).d = s.d := rfl
@[simp] theorem Wave.putPath_lc (s : Wave) (p : Path) : (s.putPath p).lc = s.lc := rfl
@[simp] theorem Wave.putPath_v (s : Wave) (p : Path) : (s.putPath p).v = s.v := rfl
@[simp] theorem Wave.putPath_gen (s : Wave) (p : Path) : (s.putPath p).gen = s.gen := rfl
@[simp] theorem Wave.putPath_lid (s : Wave) (p : Path) : (s.putPath p).lid = s.lid := rfl
@[simp] theorem Wave.putPath_q (s : Wave) (p : Path) : (s.putPath p).q = s.q := rfl
@[simp] theorem Wave.putPath_tiles (s : Wave) (p : Path) : (s.putPath p).tiles = s.tiles := rfl
@[simp] theorem Wave.putPath_chkctl (s : Wave) (p : Path) : (s.putPath p).chkctl = s.chkctl := rfl
@[simp] theorem Wave.putPath_inj (s : Wave) (p : Path) : (s.putPath p).inj = s.inj := rfl
@[simp] theorem Wave.putPath_tcause (s : Wave) (p : Path) : (s.putPath p).tcause = s.tcause := rfl
@[simp] theorem Wave.putPath_tia (s : Wave) (p : Path) : (s.putPath p).tia = s.tia := rfl
@[simp] theorem Wave.putPath_tlanes (s : Wave) (p : Path) : (s.putPath p).tlanes = s.tlanes := rfl
@[simp] theorem Wave.putPath_tpath (s : Wave) (p : Path) : (s.putPath p).tpath = s.tpath := rfl
@[simp] theorem Wave.putPath_taddr (s : Wave) (p : Path) : (s.putPath p).taddr = s.taddr := rfl
@[simp] theorem Wave.putPath_tinfo (s : Wave) (p : Path) : (s.putPath p).tinfo = s.tinfo := rfl
@[simp] theorem Wave.putPath_tvec (s : Wave) (p : Path) : (s.putPath p).tvec = s.tvec := rfl
@[simp] theorem Wave.putPath_tscr (s : Wave) (p : Path) : (s.putPath p).tscr = s.tscr := rfl
@[simp] theorem Wave.putPath_subcnt (s : Wave) (p : Path) : (s.putPath p).subcnt = s.subcnt := rfl
@[simp] theorem Wave.putPath_hmode (s : Wave) (p : Path) : (s.putPath p).hmode = s.hmode := rfl
@[simp] theorem Wave.putPath_hpath (s : Wave) (p : Path) : (s.putPath p).hpath = s.hpath := rfl
@[simp] theorem Wave.putPath_hsave (s : Wave) (p : Path) : (s.putPath p).hsave = s.hsave := rfl
@[simp] theorem Wave.putPath_prio (s : Wave) (p : Path) : (s.putPath p).prio = s.prio := rfl
@[simp] theorem Wave.putPath_tokwait (s : Wave) (p : Path) : (s.putPath p).tokwait = s.tokwait := rfl
@[simp] theorem Wave.putPath_corr (s : Wave) (p : Path) : (s.putPath p).corr = s.corr := rfl
@[simp] theorem Wave.putPath_rpl (s : Wave) (p : Path) : (s.putPath p).rpl = s.rpl := rfl
@[simp] theorem Wave.putPath_mcheck (s : Wave) (p : Path) : (s.putPath p).mcheck = s.mcheck := rfl
@[simp] theorem Wave.putPath_wdog (s : Wave) (p : Path) : (s.putPath p).wdog = s.wdog := rfl
@[simp] theorem Wave.putPath_logIdx (s : Wave) (p : Path) : (s.putPath p).logIdx = s.logIdx := rfl
@[simp] theorem Wave.putPath_latch (s : Wave) (p : Path) : (s.putPath p).latch = s.latch := rfl
@[simp] theorem Wave.setTile_die (s : Wave) (n : Nat) (x : Tile) : (s.setTile n x).die = s.die := rfl
@[simp] theorem Wave.setTile_core (s : Wave) (n : Nat) (x : Tile) : (s.setTile n x).core = s.core := rfl
@[simp] theorem Wave.setTile_slot (s : Wave) (n : Nat) (x : Tile) : (s.setTile n x).slot = s.slot := rfl
@[simp] theorem Wave.setTile_half (s : Wave) (n : Nat) (x : Tile) : (s.setTile n x).half = s.half := rfl
@[simp] theorem Wave.setTile_w32 (s : Wave) (n : Nat) (x : Tile) : (s.setTile n x).w32 = s.w32 := rfl
@[simp] theorem Wave.setTile_pasid (s : Wave) (n : Nat) (x : Tile) : (s.setTile n x).pasid = s.pasid := rfl
@[simp] theorem Wave.setTile_crew (s : Wave) (n : Nat) (x : Tile) : (s.setTile n x).crew = s.crew := rfl
@[simp] theorem Wave.setTile_wid (s : Wave) (n : Nat) (x : Tile) : (s.setTile n x).wid = s.wid := rfl
@[simp] theorem Wave.setTile_role (s : Wave) (n : Nat) (x : Tile) : (s.setTile n x).role = s.role := rfl
@[simp] theorem Wave.setTile_vregs (s : Wave) (n : Nat) (x : Tile) : (s.setTile n x).vregs = s.vregs := rfl
@[simp] theorem Wave.setTile_acc (s : Wave) (n : Nat) (x : Tile) : (s.setTile n x).acc = s.acc := rfl
@[simp] theorem Wave.setTile_stkidx (s : Wave) (n : Nat) (x : Tile) : (s.setTile n x).stkidx = s.stkidx := rfl
@[simp] theorem Wave.setTile_ended (s : Wave) (n : Nat) (x : Tile) : (s.setTile n x).ended = s.ended := rfl
@[simp] theorem Wave.setTile_paths (s : Wave) (n : Nat) (x : Tile) : (s.setTile n x).paths = s.paths := rfl
@[simp] theorem Wave.setTile_spilled (s : Wave) (n : Nat) (x : Tile) : (s.setTile n x).spilled = s.spilled := rfl
@[simp] theorem Wave.setTile_nextEid (s : Wave) (n : Nat) (x : Tile) : (s.setTile n x).nextEid = s.nextEid := rfl
@[simp] theorem Wave.setTile_sreg (s : Wave) (n : Nat) (x : Tile) : (s.setTile n x).sreg = s.sreg := rfl
@[simp] theorem Wave.setTile_p (s : Wave) (n : Nat) (x : Tile) : (s.setTile n x).p = s.p := rfl
@[simp] theorem Wave.setTile_d (s : Wave) (n : Nat) (x : Tile) : (s.setTile n x).d = s.d := rfl
@[simp] theorem Wave.setTile_lc (s : Wave) (n : Nat) (x : Tile) : (s.setTile n x).lc = s.lc := rfl
@[simp] theorem Wave.setTile_v (s : Wave) (n : Nat) (x : Tile) : (s.setTile n x).v = s.v := rfl
@[simp] theorem Wave.setTile_gen (s : Wave) (n : Nat) (x : Tile) : (s.setTile n x).gen = s.gen := rfl
@[simp] theorem Wave.setTile_lid (s : Wave) (n : Nat) (x : Tile) : (s.setTile n x).lid = s.lid := rfl
@[simp] theorem Wave.setTile_q (s : Wave) (n : Nat) (x : Tile) : (s.setTile n x).q = s.q := rfl
@[simp] theorem Wave.setTile_chkctl (s : Wave) (n : Nat) (x : Tile) : (s.setTile n x).chkctl = s.chkctl := rfl
@[simp] theorem Wave.setTile_inj (s : Wave) (n : Nat) (x : Tile) : (s.setTile n x).inj = s.inj := rfl
@[simp] theorem Wave.setTile_tcause (s : Wave) (n : Nat) (x : Tile) : (s.setTile n x).tcause = s.tcause := rfl
@[simp] theorem Wave.setTile_tia (s : Wave) (n : Nat) (x : Tile) : (s.setTile n x).tia = s.tia := rfl
@[simp] theorem Wave.setTile_tlanes (s : Wave) (n : Nat) (x : Tile) : (s.setTile n x).tlanes = s.tlanes := rfl
@[simp] theorem Wave.setTile_tpath (s : Wave) (n : Nat) (x : Tile) : (s.setTile n x).tpath = s.tpath := rfl
@[simp] theorem Wave.setTile_taddr (s : Wave) (n : Nat) (x : Tile) : (s.setTile n x).taddr = s.taddr := rfl
@[simp] theorem Wave.setTile_tinfo (s : Wave) (n : Nat) (x : Tile) : (s.setTile n x).tinfo = s.tinfo := rfl
@[simp] theorem Wave.setTile_tvec (s : Wave) (n : Nat) (x : Tile) : (s.setTile n x).tvec = s.tvec := rfl
@[simp] theorem Wave.setTile_tscr (s : Wave) (n : Nat) (x : Tile) : (s.setTile n x).tscr = s.tscr := rfl
@[simp] theorem Wave.setTile_subcnt (s : Wave) (n : Nat) (x : Tile) : (s.setTile n x).subcnt = s.subcnt := rfl
@[simp] theorem Wave.setTile_hmode (s : Wave) (n : Nat) (x : Tile) : (s.setTile n x).hmode = s.hmode := rfl
@[simp] theorem Wave.setTile_hpath (s : Wave) (n : Nat) (x : Tile) : (s.setTile n x).hpath = s.hpath := rfl
@[simp] theorem Wave.setTile_hsave (s : Wave) (n : Nat) (x : Tile) : (s.setTile n x).hsave = s.hsave := rfl
@[simp] theorem Wave.setTile_prio (s : Wave) (n : Nat) (x : Tile) : (s.setTile n x).prio = s.prio := rfl
@[simp] theorem Wave.setTile_tokwait (s : Wave) (n : Nat) (x : Tile) : (s.setTile n x).tokwait = s.tokwait := rfl
@[simp] theorem Wave.setTile_corr (s : Wave) (n : Nat) (x : Tile) : (s.setTile n x).corr = s.corr := rfl
@[simp] theorem Wave.setTile_rpl (s : Wave) (n : Nat) (x : Tile) : (s.setTile n x).rpl = s.rpl := rfl
@[simp] theorem Wave.setTile_mcheck (s : Wave) (n : Nat) (x : Tile) : (s.setTile n x).mcheck = s.mcheck := rfl
@[simp] theorem Wave.setTile_wdog (s : Wave) (n : Nat) (x : Tile) : (s.setTile n x).wdog = s.wdog := rfl
@[simp] theorem Wave.setTile_logIdx (s : Wave) (n : Nat) (x : Tile) : (s.setTile n x).logIdx = s.logIdx := rfl
@[simp] theorem Wave.setTile_latch (s : Wave) (n : Nat) (x : Tile) : (s.setTile n x).latch = s.latch := rfl
@[simp] theorem Wave.setLevel_die (s : Wave) (n : Nat) (x : LoopLevel) : (s.setLevel n x).die = s.die := rfl
@[simp] theorem Wave.setLevel_core (s : Wave) (n : Nat) (x : LoopLevel) : (s.setLevel n x).core = s.core := rfl
@[simp] theorem Wave.setLevel_slot (s : Wave) (n : Nat) (x : LoopLevel) : (s.setLevel n x).slot = s.slot := rfl
@[simp] theorem Wave.setLevel_half (s : Wave) (n : Nat) (x : LoopLevel) : (s.setLevel n x).half = s.half := rfl
@[simp] theorem Wave.setLevel_w32 (s : Wave) (n : Nat) (x : LoopLevel) : (s.setLevel n x).w32 = s.w32 := rfl
@[simp] theorem Wave.setLevel_pasid (s : Wave) (n : Nat) (x : LoopLevel) : (s.setLevel n x).pasid = s.pasid := rfl
@[simp] theorem Wave.setLevel_crew (s : Wave) (n : Nat) (x : LoopLevel) : (s.setLevel n x).crew = s.crew := rfl
@[simp] theorem Wave.setLevel_wid (s : Wave) (n : Nat) (x : LoopLevel) : (s.setLevel n x).wid = s.wid := rfl
@[simp] theorem Wave.setLevel_role (s : Wave) (n : Nat) (x : LoopLevel) : (s.setLevel n x).role = s.role := rfl
@[simp] theorem Wave.setLevel_vregs (s : Wave) (n : Nat) (x : LoopLevel) : (s.setLevel n x).vregs = s.vregs := rfl
@[simp] theorem Wave.setLevel_acc (s : Wave) (n : Nat) (x : LoopLevel) : (s.setLevel n x).acc = s.acc := rfl
@[simp] theorem Wave.setLevel_stkidx (s : Wave) (n : Nat) (x : LoopLevel) : (s.setLevel n x).stkidx = s.stkidx := rfl
@[simp] theorem Wave.setLevel_ended (s : Wave) (n : Nat) (x : LoopLevel) : (s.setLevel n x).ended = s.ended := rfl
@[simp] theorem Wave.setLevel_paths (s : Wave) (n : Nat) (x : LoopLevel) : (s.setLevel n x).paths = s.paths := rfl
@[simp] theorem Wave.setLevel_spilled (s : Wave) (n : Nat) (x : LoopLevel) : (s.setLevel n x).spilled = s.spilled := rfl
@[simp] theorem Wave.setLevel_nextEid (s : Wave) (n : Nat) (x : LoopLevel) : (s.setLevel n x).nextEid = s.nextEid := rfl
@[simp] theorem Wave.setLevel_sreg (s : Wave) (n : Nat) (x : LoopLevel) : (s.setLevel n x).sreg = s.sreg := rfl
@[simp] theorem Wave.setLevel_p (s : Wave) (n : Nat) (x : LoopLevel) : (s.setLevel n x).p = s.p := rfl
@[simp] theorem Wave.setLevel_d (s : Wave) (n : Nat) (x : LoopLevel) : (s.setLevel n x).d = s.d := rfl
@[simp] theorem Wave.setLevel_v (s : Wave) (n : Nat) (x : LoopLevel) : (s.setLevel n x).v = s.v := rfl
@[simp] theorem Wave.setLevel_gen (s : Wave) (n : Nat) (x : LoopLevel) : (s.setLevel n x).gen = s.gen := rfl
@[simp] theorem Wave.setLevel_lid (s : Wave) (n : Nat) (x : LoopLevel) : (s.setLevel n x).lid = s.lid := rfl
@[simp] theorem Wave.setLevel_q (s : Wave) (n : Nat) (x : LoopLevel) : (s.setLevel n x).q = s.q := rfl
@[simp] theorem Wave.setLevel_tiles (s : Wave) (n : Nat) (x : LoopLevel) : (s.setLevel n x).tiles = s.tiles := rfl
@[simp] theorem Wave.setLevel_chkctl (s : Wave) (n : Nat) (x : LoopLevel) : (s.setLevel n x).chkctl = s.chkctl := rfl
@[simp] theorem Wave.setLevel_inj (s : Wave) (n : Nat) (x : LoopLevel) : (s.setLevel n x).inj = s.inj := rfl
@[simp] theorem Wave.setLevel_tcause (s : Wave) (n : Nat) (x : LoopLevel) : (s.setLevel n x).tcause = s.tcause := rfl
@[simp] theorem Wave.setLevel_tia (s : Wave) (n : Nat) (x : LoopLevel) : (s.setLevel n x).tia = s.tia := rfl
@[simp] theorem Wave.setLevel_tlanes (s : Wave) (n : Nat) (x : LoopLevel) : (s.setLevel n x).tlanes = s.tlanes := rfl
@[simp] theorem Wave.setLevel_tpath (s : Wave) (n : Nat) (x : LoopLevel) : (s.setLevel n x).tpath = s.tpath := rfl
@[simp] theorem Wave.setLevel_taddr (s : Wave) (n : Nat) (x : LoopLevel) : (s.setLevel n x).taddr = s.taddr := rfl
@[simp] theorem Wave.setLevel_tinfo (s : Wave) (n : Nat) (x : LoopLevel) : (s.setLevel n x).tinfo = s.tinfo := rfl
@[simp] theorem Wave.setLevel_tvec (s : Wave) (n : Nat) (x : LoopLevel) : (s.setLevel n x).tvec = s.tvec := rfl
@[simp] theorem Wave.setLevel_tscr (s : Wave) (n : Nat) (x : LoopLevel) : (s.setLevel n x).tscr = s.tscr := rfl
@[simp] theorem Wave.setLevel_subcnt (s : Wave) (n : Nat) (x : LoopLevel) : (s.setLevel n x).subcnt = s.subcnt := rfl
@[simp] theorem Wave.setLevel_hmode (s : Wave) (n : Nat) (x : LoopLevel) : (s.setLevel n x).hmode = s.hmode := rfl
@[simp] theorem Wave.setLevel_hpath (s : Wave) (n : Nat) (x : LoopLevel) : (s.setLevel n x).hpath = s.hpath := rfl
@[simp] theorem Wave.setLevel_hsave (s : Wave) (n : Nat) (x : LoopLevel) : (s.setLevel n x).hsave = s.hsave := rfl
@[simp] theorem Wave.setLevel_prio (s : Wave) (n : Nat) (x : LoopLevel) : (s.setLevel n x).prio = s.prio := rfl
@[simp] theorem Wave.setLevel_tokwait (s : Wave) (n : Nat) (x : LoopLevel) : (s.setLevel n x).tokwait = s.tokwait := rfl
@[simp] theorem Wave.setLevel_corr (s : Wave) (n : Nat) (x : LoopLevel) : (s.setLevel n x).corr = s.corr := rfl
@[simp] theorem Wave.setLevel_rpl (s : Wave) (n : Nat) (x : LoopLevel) : (s.setLevel n x).rpl = s.rpl := rfl
@[simp] theorem Wave.setLevel_mcheck (s : Wave) (n : Nat) (x : LoopLevel) : (s.setLevel n x).mcheck = s.mcheck := rfl
@[simp] theorem Wave.setLevel_wdog (s : Wave) (n : Nat) (x : LoopLevel) : (s.setLevel n x).wdog = s.wdog := rfl
@[simp] theorem Wave.setLevel_logIdx (s : Wave) (n : Nat) (x : LoopLevel) : (s.setLevel n x).logIdx = s.logIdx := rfl
@[simp] theorem Wave.setLevel_latch (s : Wave) (n : Nat) (x : LoopLevel) : (s.setLevel n x).latch = s.latch := rfl
@[simp] theorem Wave.dropHeld_die (s : Wave) (e : Nat) : (s.dropHeld e).die = s.die := rfl
@[simp] theorem Wave.dropHeld_core (s : Wave) (e : Nat) : (s.dropHeld e).core = s.core := rfl
@[simp] theorem Wave.dropHeld_slot (s : Wave) (e : Nat) : (s.dropHeld e).slot = s.slot := rfl
@[simp] theorem Wave.dropHeld_half (s : Wave) (e : Nat) : (s.dropHeld e).half = s.half := rfl
@[simp] theorem Wave.dropHeld_w32 (s : Wave) (e : Nat) : (s.dropHeld e).w32 = s.w32 := rfl
@[simp] theorem Wave.dropHeld_pasid (s : Wave) (e : Nat) : (s.dropHeld e).pasid = s.pasid := rfl
@[simp] theorem Wave.dropHeld_crew (s : Wave) (e : Nat) : (s.dropHeld e).crew = s.crew := rfl
@[simp] theorem Wave.dropHeld_wid (s : Wave) (e : Nat) : (s.dropHeld e).wid = s.wid := rfl
@[simp] theorem Wave.dropHeld_role (s : Wave) (e : Nat) : (s.dropHeld e).role = s.role := rfl
@[simp] theorem Wave.dropHeld_vregs (s : Wave) (e : Nat) : (s.dropHeld e).vregs = s.vregs := rfl
@[simp] theorem Wave.dropHeld_acc (s : Wave) (e : Nat) : (s.dropHeld e).acc = s.acc := rfl
@[simp] theorem Wave.dropHeld_stkidx (s : Wave) (e : Nat) : (s.dropHeld e).stkidx = s.stkidx := rfl
@[simp] theorem Wave.dropHeld_ended (s : Wave) (e : Nat) : (s.dropHeld e).ended = s.ended := rfl
@[simp] theorem Wave.dropHeld_paths (s : Wave) (e : Nat) : (s.dropHeld e).paths = s.paths := rfl
@[simp] theorem Wave.dropHeld_spilled (s : Wave) (e : Nat) : (s.dropHeld e).spilled = s.spilled := rfl
@[simp] theorem Wave.dropHeld_nextEid (s : Wave) (e : Nat) : (s.dropHeld e).nextEid = s.nextEid := rfl
@[simp] theorem Wave.dropHeld_sreg (s : Wave) (e : Nat) : (s.dropHeld e).sreg = s.sreg := rfl
@[simp] theorem Wave.dropHeld_p (s : Wave) (e : Nat) : (s.dropHeld e).p = s.p := rfl
@[simp] theorem Wave.dropHeld_d (s : Wave) (e : Nat) : (s.dropHeld e).d = s.d := rfl
@[simp] theorem Wave.dropHeld_lc (s : Wave) (e : Nat) : (s.dropHeld e).lc = s.lc := rfl
@[simp] theorem Wave.dropHeld_v (s : Wave) (e : Nat) : (s.dropHeld e).v = s.v := rfl
@[simp] theorem Wave.dropHeld_gen (s : Wave) (e : Nat) : (s.dropHeld e).gen = s.gen := rfl
@[simp] theorem Wave.dropHeld_lid (s : Wave) (e : Nat) : (s.dropHeld e).lid = s.lid := rfl
@[simp] theorem Wave.dropHeld_q (s : Wave) (e : Nat) : (s.dropHeld e).q = s.q := rfl
@[simp] theorem Wave.dropHeld_tiles (s : Wave) (e : Nat) : (s.dropHeld e).tiles = s.tiles := rfl
@[simp] theorem Wave.dropHeld_chkctl (s : Wave) (e : Nat) : (s.dropHeld e).chkctl = s.chkctl := rfl
@[simp] theorem Wave.dropHeld_inj (s : Wave) (e : Nat) : (s.dropHeld e).inj = s.inj := rfl
@[simp] theorem Wave.dropHeld_tcause (s : Wave) (e : Nat) : (s.dropHeld e).tcause = s.tcause := rfl
@[simp] theorem Wave.dropHeld_tia (s : Wave) (e : Nat) : (s.dropHeld e).tia = s.tia := rfl
@[simp] theorem Wave.dropHeld_tlanes (s : Wave) (e : Nat) : (s.dropHeld e).tlanes = s.tlanes := rfl
@[simp] theorem Wave.dropHeld_tpath (s : Wave) (e : Nat) : (s.dropHeld e).tpath = s.tpath := rfl
@[simp] theorem Wave.dropHeld_taddr (s : Wave) (e : Nat) : (s.dropHeld e).taddr = s.taddr := rfl
@[simp] theorem Wave.dropHeld_tinfo (s : Wave) (e : Nat) : (s.dropHeld e).tinfo = s.tinfo := rfl
@[simp] theorem Wave.dropHeld_tvec (s : Wave) (e : Nat) : (s.dropHeld e).tvec = s.tvec := rfl
@[simp] theorem Wave.dropHeld_tscr (s : Wave) (e : Nat) : (s.dropHeld e).tscr = s.tscr := rfl
@[simp] theorem Wave.dropHeld_subcnt (s : Wave) (e : Nat) : (s.dropHeld e).subcnt = s.subcnt := rfl
@[simp] theorem Wave.dropHeld_hmode (s : Wave) (e : Nat) : (s.dropHeld e).hmode = s.hmode := rfl
@[simp] theorem Wave.dropHeld_hpath (s : Wave) (e : Nat) : (s.dropHeld e).hpath = s.hpath := rfl
@[simp] theorem Wave.dropHeld_hsave (s : Wave) (e : Nat) : (s.dropHeld e).hsave = s.hsave := rfl
@[simp] theorem Wave.dropHeld_prio (s : Wave) (e : Nat) : (s.dropHeld e).prio = s.prio := rfl
@[simp] theorem Wave.dropHeld_tokwait (s : Wave) (e : Nat) : (s.dropHeld e).tokwait = s.tokwait := rfl
@[simp] theorem Wave.dropHeld_corr (s : Wave) (e : Nat) : (s.dropHeld e).corr = s.corr := rfl
@[simp] theorem Wave.dropHeld_rpl (s : Wave) (e : Nat) : (s.dropHeld e).rpl = s.rpl := rfl
@[simp] theorem Wave.dropHeld_mcheck (s : Wave) (e : Nat) : (s.dropHeld e).mcheck = s.mcheck := rfl
@[simp] theorem Wave.dropHeld_wdog (s : Wave) (e : Nat) : (s.dropHeld e).wdog = s.wdog := rfl
@[simp] theorem Wave.dropHeld_logIdx (s : Wave) (e : Nat) : (s.dropHeld e).logIdx = s.logIdx := rfl
@[simp] theorem Wave.agedHeld_die (s : Wave) (e : Nat) : (s.agedHeld e).die = s.die := rfl
@[simp] theorem Wave.agedHeld_core (s : Wave) (e : Nat) : (s.agedHeld e).core = s.core := rfl
@[simp] theorem Wave.agedHeld_slot (s : Wave) (e : Nat) : (s.agedHeld e).slot = s.slot := rfl
@[simp] theorem Wave.agedHeld_half (s : Wave) (e : Nat) : (s.agedHeld e).half = s.half := rfl
@[simp] theorem Wave.agedHeld_w32 (s : Wave) (e : Nat) : (s.agedHeld e).w32 = s.w32 := rfl
@[simp] theorem Wave.agedHeld_pasid (s : Wave) (e : Nat) : (s.agedHeld e).pasid = s.pasid := rfl
@[simp] theorem Wave.agedHeld_crew (s : Wave) (e : Nat) : (s.agedHeld e).crew = s.crew := rfl
@[simp] theorem Wave.agedHeld_wid (s : Wave) (e : Nat) : (s.agedHeld e).wid = s.wid := rfl
@[simp] theorem Wave.agedHeld_role (s : Wave) (e : Nat) : (s.agedHeld e).role = s.role := rfl
@[simp] theorem Wave.agedHeld_vregs (s : Wave) (e : Nat) : (s.agedHeld e).vregs = s.vregs := rfl
@[simp] theorem Wave.agedHeld_acc (s : Wave) (e : Nat) : (s.agedHeld e).acc = s.acc := rfl
@[simp] theorem Wave.agedHeld_stkidx (s : Wave) (e : Nat) : (s.agedHeld e).stkidx = s.stkidx := rfl
@[simp] theorem Wave.agedHeld_ended (s : Wave) (e : Nat) : (s.agedHeld e).ended = s.ended := rfl
@[simp] theorem Wave.agedHeld_paths (s : Wave) (e : Nat) : (s.agedHeld e).paths = s.paths := rfl
@[simp] theorem Wave.agedHeld_spilled (s : Wave) (e : Nat) : (s.agedHeld e).spilled = s.spilled := rfl
@[simp] theorem Wave.agedHeld_nextEid (s : Wave) (e : Nat) : (s.agedHeld e).nextEid = s.nextEid := rfl
@[simp] theorem Wave.agedHeld_sreg (s : Wave) (e : Nat) : (s.agedHeld e).sreg = s.sreg := rfl
@[simp] theorem Wave.agedHeld_p (s : Wave) (e : Nat) : (s.agedHeld e).p = s.p := rfl
@[simp] theorem Wave.agedHeld_d (s : Wave) (e : Nat) : (s.agedHeld e).d = s.d := rfl
@[simp] theorem Wave.agedHeld_lc (s : Wave) (e : Nat) : (s.agedHeld e).lc = s.lc := rfl
@[simp] theorem Wave.agedHeld_v (s : Wave) (e : Nat) : (s.agedHeld e).v = s.v := rfl
@[simp] theorem Wave.agedHeld_gen (s : Wave) (e : Nat) : (s.agedHeld e).gen = s.gen := rfl
@[simp] theorem Wave.agedHeld_lid (s : Wave) (e : Nat) : (s.agedHeld e).lid = s.lid := rfl
@[simp] theorem Wave.agedHeld_q (s : Wave) (e : Nat) : (s.agedHeld e).q = s.q := rfl
@[simp] theorem Wave.agedHeld_tiles (s : Wave) (e : Nat) : (s.agedHeld e).tiles = s.tiles := rfl
@[simp] theorem Wave.agedHeld_chkctl (s : Wave) (e : Nat) : (s.agedHeld e).chkctl = s.chkctl := rfl
@[simp] theorem Wave.agedHeld_inj (s : Wave) (e : Nat) : (s.agedHeld e).inj = s.inj := rfl
@[simp] theorem Wave.agedHeld_tcause (s : Wave) (e : Nat) : (s.agedHeld e).tcause = s.tcause := rfl
@[simp] theorem Wave.agedHeld_tia (s : Wave) (e : Nat) : (s.agedHeld e).tia = s.tia := rfl
@[simp] theorem Wave.agedHeld_tlanes (s : Wave) (e : Nat) : (s.agedHeld e).tlanes = s.tlanes := rfl
@[simp] theorem Wave.agedHeld_tpath (s : Wave) (e : Nat) : (s.agedHeld e).tpath = s.tpath := rfl
@[simp] theorem Wave.agedHeld_taddr (s : Wave) (e : Nat) : (s.agedHeld e).taddr = s.taddr := rfl
@[simp] theorem Wave.agedHeld_tinfo (s : Wave) (e : Nat) : (s.agedHeld e).tinfo = s.tinfo := rfl
@[simp] theorem Wave.agedHeld_tvec (s : Wave) (e : Nat) : (s.agedHeld e).tvec = s.tvec := rfl
@[simp] theorem Wave.agedHeld_tscr (s : Wave) (e : Nat) : (s.agedHeld e).tscr = s.tscr := rfl
@[simp] theorem Wave.agedHeld_subcnt (s : Wave) (e : Nat) : (s.agedHeld e).subcnt = s.subcnt := rfl
@[simp] theorem Wave.agedHeld_hmode (s : Wave) (e : Nat) : (s.agedHeld e).hmode = s.hmode := rfl
@[simp] theorem Wave.agedHeld_hpath (s : Wave) (e : Nat) : (s.agedHeld e).hpath = s.hpath := rfl
@[simp] theorem Wave.agedHeld_hsave (s : Wave) (e : Nat) : (s.agedHeld e).hsave = s.hsave := rfl
@[simp] theorem Wave.agedHeld_prio (s : Wave) (e : Nat) : (s.agedHeld e).prio = s.prio := rfl
@[simp] theorem Wave.agedHeld_tokwait (s : Wave) (e : Nat) : (s.agedHeld e).tokwait = s.tokwait := rfl
@[simp] theorem Wave.agedHeld_corr (s : Wave) (e : Nat) : (s.agedHeld e).corr = s.corr := rfl
@[simp] theorem Wave.agedHeld_rpl (s : Wave) (e : Nat) : (s.agedHeld e).rpl = s.rpl := rfl
@[simp] theorem Wave.agedHeld_mcheck (s : Wave) (e : Nat) : (s.agedHeld e).mcheck = s.mcheck := rfl
@[simp] theorem Wave.agedHeld_wdog (s : Wave) (e : Nat) : (s.agedHeld e).wdog = s.wdog := rfl
@[simp] theorem Wave.agedHeld_logIdx (s : Wave) (e : Nat) : (s.agedHeld e).logIdx = s.logIdx := rfl
@[simp] theorem Th.vecIssued_wk (s : Th) (x : BitVec 64) : (s.vecIssued x).wk = s.wk := rfl
@[simp] theorem Th.vecIssued_w (s : Th) (x : BitVec 64) : (s.vecIssued x).w = s.w := rfl
@[simp] theorem Th.vecIssued_p (s : Th) (x : BitVec 64) : (s.vecIssued x).p = s.p := rfl
@[simp] theorem Th.setB_s (s : Th) (n : Nat) (x : RWord 1) : (s.setB n x).s = s.s := rfl
@[simp] theorem Th.setB_wk (s : Th) (n : Nat) (x : RWord 1) : (s.setB n x).wk = s.wk := rfl
@[simp] theorem Th.setB_w (s : Th) (n : Nat) (x : RWord 1) : (s.setB n x).w = s.w := rfl
@[simp] theorem Th.setB_p_idx (s : Th) (n : Nat) (x : RWord 1) : (s.setB n x).p.idx = s.p.idx := rfl
@[simp] theorem Th.setB_p_eid (s : Th) (n : Nat) (x : RWord 1) : (s.setB n x).p.eid = s.p.eid := rfl
@[simp] theorem Th.setB_p_parent (s : Th) (n : Nat) (x : RWord 1) : (s.setB n x).p.parent = s.p.parent := rfl
@[simp] theorem Th.setB_p_taken (s : Th) (n : Nat) (x : RWord 1) : (s.setB n x).p.taken = s.p.taken := rfl
@[simp] theorem Th.setB_p_st (s : Th) (n : Nat) (x : RWord 1) : (s.setB n x).p.st = s.p.st := rfl
@[simp] theorem Th.setB_p_pia (s : Th) (n : Nat) (x : RWord 1) : (s.setB n x).p.pia = s.p.pia := rfl
@[simp] theorem Th.setB_p_mask (s : Th) (n : Nat) (x : RWord 1) : (s.setB n x).p.mask = s.p.mask := rfl
@[simp] theorem Th.setB_p_exm (s : Th) (n : Nat) (x : RWord 1) : (s.setB n x).p.exm = s.p.exm := rfl
@[simp] theorem Th.setB_p_rca (s : Th) (n : Nat) (x : RWord 1) : (s.setB n x).p.rca = s.p.rca := rfl
@[simp] theorem Th.setB_p_half (s : Th) (n : Nat) (x : RWord 1) : (s.setB n x).p.half = s.p.half := rfl
@[simp] theorem Th.setB_p_level (s : Th) (n : Nat) (x : RWord 1) : (s.setB n x).p.level = s.p.level := rfl
@[simp] theorem Th.setB_p_ldep (s : Th) (n : Nat) (x : RWord 1) : (s.setB n x).p.ldep = s.p.ldep := rfl
@[simp] theorem Th.setB_p_s (s : Th) (n : Nat) (x : RWord 1) : (s.setB n x).p.s = s.p.s := rfl
@[simp] theorem Th.setB_p_ws (s : Th) (n : Nat) (x : RWord 1) : (s.setB n x).p.ws = s.p.ws := rfl
@[simp] theorem Th.setB_p_recs (s : Th) (n : Nat) (x : RWord 1) : (s.setB n x).p.recs = s.p.recs := rfl
@[simp] theorem Th.setB_p_age (s : Th) (n : Nat) (x : RWord 1) : (s.setB n x).p.age = s.p.age := rfl
@[simp] theorem Th.setB_p_yielded (s : Th) (n : Nat) (x : RWord 1) : (s.setB n x).p.yielded = s.p.yielded := rfl
@[simp] theorem Th.setB_p_pc (s : Th) (n : Nat) (x : RWord 1) : (s.setB n x).p.pc = s.p.pc := rfl
@[simp] theorem Th.setB_p_tc (s : Th) (n : Nat) (x : RWord 1) : (s.setB n x).p.tc = s.p.tc := rfl
@[simp] theorem Th.setB_p_epc (s : Th) (n : Nat) (x : RWord 1) : (s.setB n x).p.epc = s.p.epc := rfl
@[simp] theorem Th.setB_p_etc (s : Th) (n : Nat) (x : RWord 1) : (s.setB n x).p.etc = s.p.etc := rfl
@[simp] theorem Th.setB_p_wait (s : Th) (n : Nat) (x : RWord 1) : (s.setB n x).p.wait = s.p.wait := rfl
@[simp] theorem Th.setB_p_held (s : Th) (n : Nat) (x : RWord 1) : (s.setB n x).p.held = s.p.held := rfl
@[simp] theorem Th.setB_p_ibpSkip (s : Th) (n : Nat) (x : RWord 1) : (s.setB n x).p.ibpSkip = s.p.ibpSkip := rfl
@[simp] theorem Th.setB_p_xfer (s : Th) (n : Nat) (x : RWord 1) : (s.setB n x).p.xfer = s.p.xfer := rfl
@[simp] theorem Th.setB_p_line (s : Th) (n : Nat) (x : RWord 1) : (s.setB n x).p.line = s.p.line := rfl
@[simp] theorem Th.setB_p_park (s : Th) (n : Nat) (x : RWord 1) : (s.setB n x).p.park = s.p.park := rfl
@[simp] theorem Th.setB_p_tokWait (s : Th) (n : Nat) (x : RWord 1) : (s.setB n x).p.tokWait = s.p.tokWait := rfl
@[simp] theorem Th.setB_p_owes (s : Th) (n : Nat) (x : RWord 1) : (s.setB n x).p.owes = s.p.owes := rfl
@[simp] theorem Th.setB_p_hexit (s : Th) (n : Nat) (x : RWord 1) : (s.setB n x).p.hexit = s.p.hexit := rfl
@[simp] theorem Th.setB_p_sdep (s : Th) (n : Nat) (x : RWord 1) : (s.setB n x).p.sdep = s.p.sdep := rfl
@[simp] theorem Th.setB_p_obs (s : Th) (n : Nat) (x : RWord 1) : (s.setB n x).p.obs = s.p.obs := rfl
@[simp] theorem Th.setP_s (s : Th) (n : Nat) (x : RWord 64) : (s.setP n x).s = s.s := rfl
@[simp] theorem Th.setP_wk (s : Th) (n : Nat) (x : RWord 64) : (s.setP n x).wk = s.wk := rfl
@[simp] theorem Th.setP_p (s : Th) (n : Nat) (x : RWord 64) : (s.setP n x).p = s.p := rfl
@[simp] theorem Th.setP_w_die (s : Th) (n : Nat) (x : RWord 64) : (s.setP n x).w.die = s.w.die := rfl
@[simp] theorem Th.setP_w_core (s : Th) (n : Nat) (x : RWord 64) : (s.setP n x).w.core = s.w.core := rfl
@[simp] theorem Th.setP_w_slot (s : Th) (n : Nat) (x : RWord 64) : (s.setP n x).w.slot = s.w.slot := rfl
@[simp] theorem Th.setP_w_half (s : Th) (n : Nat) (x : RWord 64) : (s.setP n x).w.half = s.w.half := rfl
@[simp] theorem Th.setP_w_w32 (s : Th) (n : Nat) (x : RWord 64) : (s.setP n x).w.w32 = s.w.w32 := rfl
@[simp] theorem Th.setP_w_pasid (s : Th) (n : Nat) (x : RWord 64) : (s.setP n x).w.pasid = s.w.pasid := rfl
@[simp] theorem Th.setP_w_crew (s : Th) (n : Nat) (x : RWord 64) : (s.setP n x).w.crew = s.w.crew := rfl
@[simp] theorem Th.setP_w_wid (s : Th) (n : Nat) (x : RWord 64) : (s.setP n x).w.wid = s.w.wid := rfl
@[simp] theorem Th.setP_w_role (s : Th) (n : Nat) (x : RWord 64) : (s.setP n x).w.role = s.w.role := rfl
@[simp] theorem Th.setP_w_vregs (s : Th) (n : Nat) (x : RWord 64) : (s.setP n x).w.vregs = s.w.vregs := rfl
@[simp] theorem Th.setP_w_acc (s : Th) (n : Nat) (x : RWord 64) : (s.setP n x).w.acc = s.w.acc := rfl
@[simp] theorem Th.setP_w_stkidx (s : Th) (n : Nat) (x : RWord 64) : (s.setP n x).w.stkidx = s.w.stkidx := rfl
@[simp] theorem Th.setP_w_ended (s : Th) (n : Nat) (x : RWord 64) : (s.setP n x).w.ended = s.w.ended := rfl
@[simp] theorem Th.setP_w_paths (s : Th) (n : Nat) (x : RWord 64) : (s.setP n x).w.paths = s.w.paths := rfl
@[simp] theorem Th.setP_w_spilled (s : Th) (n : Nat) (x : RWord 64) : (s.setP n x).w.spilled = s.w.spilled := rfl
@[simp] theorem Th.setP_w_nextEid (s : Th) (n : Nat) (x : RWord 64) : (s.setP n x).w.nextEid = s.w.nextEid := rfl
@[simp] theorem Th.setP_w_sreg (s : Th) (n : Nat) (x : RWord 64) : (s.setP n x).w.sreg = s.w.sreg := rfl
@[simp] theorem Th.setP_w_d (s : Th) (n : Nat) (x : RWord 64) : (s.setP n x).w.d = s.w.d := rfl
@[simp] theorem Th.setP_w_lc (s : Th) (n : Nat) (x : RWord 64) : (s.setP n x).w.lc = s.w.lc := rfl
@[simp] theorem Th.setP_w_v (s : Th) (n : Nat) (x : RWord 64) : (s.setP n x).w.v = s.w.v := rfl
@[simp] theorem Th.setP_w_gen (s : Th) (n : Nat) (x : RWord 64) : (s.setP n x).w.gen = s.w.gen := rfl
@[simp] theorem Th.setP_w_lid (s : Th) (n : Nat) (x : RWord 64) : (s.setP n x).w.lid = s.w.lid := rfl
@[simp] theorem Th.setP_w_q (s : Th) (n : Nat) (x : RWord 64) : (s.setP n x).w.q = s.w.q := rfl
@[simp] theorem Th.setP_w_tiles (s : Th) (n : Nat) (x : RWord 64) : (s.setP n x).w.tiles = s.w.tiles := rfl
@[simp] theorem Th.setP_w_chkctl (s : Th) (n : Nat) (x : RWord 64) : (s.setP n x).w.chkctl = s.w.chkctl := rfl
@[simp] theorem Th.setP_w_inj (s : Th) (n : Nat) (x : RWord 64) : (s.setP n x).w.inj = s.w.inj := rfl
@[simp] theorem Th.setP_w_tcause (s : Th) (n : Nat) (x : RWord 64) : (s.setP n x).w.tcause = s.w.tcause := rfl
@[simp] theorem Th.setP_w_tia (s : Th) (n : Nat) (x : RWord 64) : (s.setP n x).w.tia = s.w.tia := rfl
@[simp] theorem Th.setP_w_tlanes (s : Th) (n : Nat) (x : RWord 64) : (s.setP n x).w.tlanes = s.w.tlanes := rfl
@[simp] theorem Th.setP_w_tpath (s : Th) (n : Nat) (x : RWord 64) : (s.setP n x).w.tpath = s.w.tpath := rfl
@[simp] theorem Th.setP_w_taddr (s : Th) (n : Nat) (x : RWord 64) : (s.setP n x).w.taddr = s.w.taddr := rfl
@[simp] theorem Th.setP_w_tinfo (s : Th) (n : Nat) (x : RWord 64) : (s.setP n x).w.tinfo = s.w.tinfo := rfl
@[simp] theorem Th.setP_w_tvec (s : Th) (n : Nat) (x : RWord 64) : (s.setP n x).w.tvec = s.w.tvec := rfl
@[simp] theorem Th.setP_w_tscr (s : Th) (n : Nat) (x : RWord 64) : (s.setP n x).w.tscr = s.w.tscr := rfl
@[simp] theorem Th.setP_w_subcnt (s : Th) (n : Nat) (x : RWord 64) : (s.setP n x).w.subcnt = s.w.subcnt := rfl
@[simp] theorem Th.setP_w_hmode (s : Th) (n : Nat) (x : RWord 64) : (s.setP n x).w.hmode = s.w.hmode := rfl
@[simp] theorem Th.setP_w_hpath (s : Th) (n : Nat) (x : RWord 64) : (s.setP n x).w.hpath = s.w.hpath := rfl
@[simp] theorem Th.setP_w_hsave (s : Th) (n : Nat) (x : RWord 64) : (s.setP n x).w.hsave = s.w.hsave := rfl
@[simp] theorem Th.setP_w_prio (s : Th) (n : Nat) (x : RWord 64) : (s.setP n x).w.prio = s.w.prio := rfl
@[simp] theorem Th.setP_w_tokwait (s : Th) (n : Nat) (x : RWord 64) : (s.setP n x).w.tokwait = s.w.tokwait := rfl
@[simp] theorem Th.setP_w_corr (s : Th) (n : Nat) (x : RWord 64) : (s.setP n x).w.corr = s.w.corr := rfl
@[simp] theorem Th.setP_w_rpl (s : Th) (n : Nat) (x : RWord 64) : (s.setP n x).w.rpl = s.w.rpl := rfl
@[simp] theorem Th.setP_w_mcheck (s : Th) (n : Nat) (x : RWord 64) : (s.setP n x).w.mcheck = s.w.mcheck := rfl
@[simp] theorem Th.setP_w_wdog (s : Th) (n : Nat) (x : RWord 64) : (s.setP n x).w.wdog = s.w.wdog := rfl
@[simp] theorem Th.setP_w_logIdx (s : Th) (n : Nat) (x : RWord 64) : (s.setP n x).w.logIdx = s.w.logIdx := rfl
@[simp] theorem Th.setP_w_latch (s : Th) (n : Nat) (x : RWord 64) : (s.setP n x).w.latch = s.w.latch := rfl
@[simp] theorem Th.setV_s (s : Th) (n l : Nat) (x : RWord 32) : (s.setV n l x).s = s.s := rfl
@[simp] theorem Th.setV_wk (s : Th) (n l : Nat) (x : RWord 32) : (s.setV n l x).wk = s.wk := rfl
@[simp] theorem Th.setV_p (s : Th) (n l : Nat) (x : RWord 32) : (s.setV n l x).p = s.p := rfl
@[simp] theorem Th.setV_w_die (s : Th) (n l : Nat) (x : RWord 32) : (s.setV n l x).w.die = s.w.die := rfl
@[simp] theorem Th.setV_w_core (s : Th) (n l : Nat) (x : RWord 32) : (s.setV n l x).w.core = s.w.core := rfl
@[simp] theorem Th.setV_w_slot (s : Th) (n l : Nat) (x : RWord 32) : (s.setV n l x).w.slot = s.w.slot := rfl
@[simp] theorem Th.setV_w_half (s : Th) (n l : Nat) (x : RWord 32) : (s.setV n l x).w.half = s.w.half := rfl
@[simp] theorem Th.setV_w_w32 (s : Th) (n l : Nat) (x : RWord 32) : (s.setV n l x).w.w32 = s.w.w32 := rfl
@[simp] theorem Th.setV_w_pasid (s : Th) (n l : Nat) (x : RWord 32) : (s.setV n l x).w.pasid = s.w.pasid := rfl
@[simp] theorem Th.setV_w_crew (s : Th) (n l : Nat) (x : RWord 32) : (s.setV n l x).w.crew = s.w.crew := rfl
@[simp] theorem Th.setV_w_wid (s : Th) (n l : Nat) (x : RWord 32) : (s.setV n l x).w.wid = s.w.wid := rfl
@[simp] theorem Th.setV_w_role (s : Th) (n l : Nat) (x : RWord 32) : (s.setV n l x).w.role = s.w.role := rfl
@[simp] theorem Th.setV_w_vregs (s : Th) (n l : Nat) (x : RWord 32) : (s.setV n l x).w.vregs = s.w.vregs := rfl
@[simp] theorem Th.setV_w_acc (s : Th) (n l : Nat) (x : RWord 32) : (s.setV n l x).w.acc = s.w.acc := rfl
@[simp] theorem Th.setV_w_stkidx (s : Th) (n l : Nat) (x : RWord 32) : (s.setV n l x).w.stkidx = s.w.stkidx := rfl
@[simp] theorem Th.setV_w_ended (s : Th) (n l : Nat) (x : RWord 32) : (s.setV n l x).w.ended = s.w.ended := rfl
@[simp] theorem Th.setV_w_paths (s : Th) (n l : Nat) (x : RWord 32) : (s.setV n l x).w.paths = s.w.paths := rfl
@[simp] theorem Th.setV_w_spilled (s : Th) (n l : Nat) (x : RWord 32) : (s.setV n l x).w.spilled = s.w.spilled := rfl
@[simp] theorem Th.setV_w_nextEid (s : Th) (n l : Nat) (x : RWord 32) : (s.setV n l x).w.nextEid = s.w.nextEid := rfl
@[simp] theorem Th.setV_w_sreg (s : Th) (n l : Nat) (x : RWord 32) : (s.setV n l x).w.sreg = s.w.sreg := rfl
@[simp] theorem Th.setV_w_p (s : Th) (n l : Nat) (x : RWord 32) : (s.setV n l x).w.p = s.w.p := rfl
@[simp] theorem Th.setV_w_d (s : Th) (n l : Nat) (x : RWord 32) : (s.setV n l x).w.d = s.w.d := rfl
@[simp] theorem Th.setV_w_lc (s : Th) (n l : Nat) (x : RWord 32) : (s.setV n l x).w.lc = s.w.lc := rfl
@[simp] theorem Th.setV_w_gen (s : Th) (n l : Nat) (x : RWord 32) : (s.setV n l x).w.gen = s.w.gen := rfl
@[simp] theorem Th.setV_w_lid (s : Th) (n l : Nat) (x : RWord 32) : (s.setV n l x).w.lid = s.w.lid := rfl
@[simp] theorem Th.setV_w_q (s : Th) (n l : Nat) (x : RWord 32) : (s.setV n l x).w.q = s.w.q := rfl
@[simp] theorem Th.setV_w_tiles (s : Th) (n l : Nat) (x : RWord 32) : (s.setV n l x).w.tiles = s.w.tiles := rfl
@[simp] theorem Th.setV_w_chkctl (s : Th) (n l : Nat) (x : RWord 32) : (s.setV n l x).w.chkctl = s.w.chkctl := rfl
@[simp] theorem Th.setV_w_inj (s : Th) (n l : Nat) (x : RWord 32) : (s.setV n l x).w.inj = s.w.inj := rfl
@[simp] theorem Th.setV_w_tcause (s : Th) (n l : Nat) (x : RWord 32) : (s.setV n l x).w.tcause = s.w.tcause := rfl
@[simp] theorem Th.setV_w_tia (s : Th) (n l : Nat) (x : RWord 32) : (s.setV n l x).w.tia = s.w.tia := rfl
@[simp] theorem Th.setV_w_tlanes (s : Th) (n l : Nat) (x : RWord 32) : (s.setV n l x).w.tlanes = s.w.tlanes := rfl
@[simp] theorem Th.setV_w_tpath (s : Th) (n l : Nat) (x : RWord 32) : (s.setV n l x).w.tpath = s.w.tpath := rfl
@[simp] theorem Th.setV_w_taddr (s : Th) (n l : Nat) (x : RWord 32) : (s.setV n l x).w.taddr = s.w.taddr := rfl
@[simp] theorem Th.setV_w_tinfo (s : Th) (n l : Nat) (x : RWord 32) : (s.setV n l x).w.tinfo = s.w.tinfo := rfl
@[simp] theorem Th.setV_w_tvec (s : Th) (n l : Nat) (x : RWord 32) : (s.setV n l x).w.tvec = s.w.tvec := rfl
@[simp] theorem Th.setV_w_tscr (s : Th) (n l : Nat) (x : RWord 32) : (s.setV n l x).w.tscr = s.w.tscr := rfl
@[simp] theorem Th.setV_w_subcnt (s : Th) (n l : Nat) (x : RWord 32) : (s.setV n l x).w.subcnt = s.w.subcnt := rfl
@[simp] theorem Th.setV_w_hmode (s : Th) (n l : Nat) (x : RWord 32) : (s.setV n l x).w.hmode = s.w.hmode := rfl
@[simp] theorem Th.setV_w_hpath (s : Th) (n l : Nat) (x : RWord 32) : (s.setV n l x).w.hpath = s.w.hpath := rfl
@[simp] theorem Th.setV_w_hsave (s : Th) (n l : Nat) (x : RWord 32) : (s.setV n l x).w.hsave = s.w.hsave := rfl
@[simp] theorem Th.setV_w_prio (s : Th) (n l : Nat) (x : RWord 32) : (s.setV n l x).w.prio = s.w.prio := rfl
@[simp] theorem Th.setV_w_tokwait (s : Th) (n l : Nat) (x : RWord 32) : (s.setV n l x).w.tokwait = s.w.tokwait := rfl
@[simp] theorem Th.setV_w_corr (s : Th) (n l : Nat) (x : RWord 32) : (s.setV n l x).w.corr = s.w.corr := rfl
@[simp] theorem Th.setV_w_rpl (s : Th) (n l : Nat) (x : RWord 32) : (s.setV n l x).w.rpl = s.w.rpl := rfl
@[simp] theorem Th.setV_w_mcheck (s : Th) (n l : Nat) (x : RWord 32) : (s.setV n l x).w.mcheck = s.w.mcheck := rfl
@[simp] theorem Th.setV_w_wdog (s : Th) (n l : Nat) (x : RWord 32) : (s.setV n l x).w.wdog = s.w.wdog := rfl
@[simp] theorem Th.setV_w_logIdx (s : Th) (n l : Nat) (x : RWord 32) : (s.setV n l x).w.logIdx = s.w.logIdx := rfl
@[simp] theorem Th.setQ_s (s : Th) (n i : Nat) (x : RWord 32) : (s.setQ n i x).s = s.s := rfl
@[simp] theorem Th.setQ_wk (s : Th) (n i : Nat) (x : RWord 32) : (s.setQ n i x).wk = s.wk := rfl
@[simp] theorem Th.setQ_p (s : Th) (n i : Nat) (x : RWord 32) : (s.setQ n i x).p = s.p := rfl
@[simp] theorem Th.setQ_w_die (s : Th) (n i : Nat) (x : RWord 32) : (s.setQ n i x).w.die = s.w.die := rfl
@[simp] theorem Th.setQ_w_core (s : Th) (n i : Nat) (x : RWord 32) : (s.setQ n i x).w.core = s.w.core := rfl
@[simp] theorem Th.setQ_w_slot (s : Th) (n i : Nat) (x : RWord 32) : (s.setQ n i x).w.slot = s.w.slot := rfl
@[simp] theorem Th.setQ_w_half (s : Th) (n i : Nat) (x : RWord 32) : (s.setQ n i x).w.half = s.w.half := rfl
@[simp] theorem Th.setQ_w_w32 (s : Th) (n i : Nat) (x : RWord 32) : (s.setQ n i x).w.w32 = s.w.w32 := rfl
@[simp] theorem Th.setQ_w_pasid (s : Th) (n i : Nat) (x : RWord 32) : (s.setQ n i x).w.pasid = s.w.pasid := rfl
@[simp] theorem Th.setQ_w_crew (s : Th) (n i : Nat) (x : RWord 32) : (s.setQ n i x).w.crew = s.w.crew := rfl
@[simp] theorem Th.setQ_w_wid (s : Th) (n i : Nat) (x : RWord 32) : (s.setQ n i x).w.wid = s.w.wid := rfl
@[simp] theorem Th.setQ_w_role (s : Th) (n i : Nat) (x : RWord 32) : (s.setQ n i x).w.role = s.w.role := rfl
@[simp] theorem Th.setQ_w_vregs (s : Th) (n i : Nat) (x : RWord 32) : (s.setQ n i x).w.vregs = s.w.vregs := rfl
@[simp] theorem Th.setQ_w_acc (s : Th) (n i : Nat) (x : RWord 32) : (s.setQ n i x).w.acc = s.w.acc := rfl
@[simp] theorem Th.setQ_w_stkidx (s : Th) (n i : Nat) (x : RWord 32) : (s.setQ n i x).w.stkidx = s.w.stkidx := rfl
@[simp] theorem Th.setQ_w_ended (s : Th) (n i : Nat) (x : RWord 32) : (s.setQ n i x).w.ended = s.w.ended := rfl
@[simp] theorem Th.setQ_w_paths (s : Th) (n i : Nat) (x : RWord 32) : (s.setQ n i x).w.paths = s.w.paths := rfl
@[simp] theorem Th.setQ_w_spilled (s : Th) (n i : Nat) (x : RWord 32) : (s.setQ n i x).w.spilled = s.w.spilled := rfl
@[simp] theorem Th.setQ_w_nextEid (s : Th) (n i : Nat) (x : RWord 32) : (s.setQ n i x).w.nextEid = s.w.nextEid := rfl
@[simp] theorem Th.setQ_w_sreg (s : Th) (n i : Nat) (x : RWord 32) : (s.setQ n i x).w.sreg = s.w.sreg := rfl
@[simp] theorem Th.setQ_w_p (s : Th) (n i : Nat) (x : RWord 32) : (s.setQ n i x).w.p = s.w.p := rfl
@[simp] theorem Th.setQ_w_d (s : Th) (n i : Nat) (x : RWord 32) : (s.setQ n i x).w.d = s.w.d := rfl
@[simp] theorem Th.setQ_w_lc (s : Th) (n i : Nat) (x : RWord 32) : (s.setQ n i x).w.lc = s.w.lc := rfl
@[simp] theorem Th.setQ_w_v (s : Th) (n i : Nat) (x : RWord 32) : (s.setQ n i x).w.v = s.w.v := rfl
@[simp] theorem Th.setQ_w_gen (s : Th) (n i : Nat) (x : RWord 32) : (s.setQ n i x).w.gen = s.w.gen := rfl
@[simp] theorem Th.setQ_w_lid (s : Th) (n i : Nat) (x : RWord 32) : (s.setQ n i x).w.lid = s.w.lid := rfl
@[simp] theorem Th.setQ_w_tiles (s : Th) (n i : Nat) (x : RWord 32) : (s.setQ n i x).w.tiles = s.w.tiles := rfl
@[simp] theorem Th.setQ_w_chkctl (s : Th) (n i : Nat) (x : RWord 32) : (s.setQ n i x).w.chkctl = s.w.chkctl := rfl
@[simp] theorem Th.setQ_w_inj (s : Th) (n i : Nat) (x : RWord 32) : (s.setQ n i x).w.inj = s.w.inj := rfl
@[simp] theorem Th.setQ_w_tcause (s : Th) (n i : Nat) (x : RWord 32) : (s.setQ n i x).w.tcause = s.w.tcause := rfl
@[simp] theorem Th.setQ_w_tia (s : Th) (n i : Nat) (x : RWord 32) : (s.setQ n i x).w.tia = s.w.tia := rfl
@[simp] theorem Th.setQ_w_tlanes (s : Th) (n i : Nat) (x : RWord 32) : (s.setQ n i x).w.tlanes = s.w.tlanes := rfl
@[simp] theorem Th.setQ_w_tpath (s : Th) (n i : Nat) (x : RWord 32) : (s.setQ n i x).w.tpath = s.w.tpath := rfl
@[simp] theorem Th.setQ_w_taddr (s : Th) (n i : Nat) (x : RWord 32) : (s.setQ n i x).w.taddr = s.w.taddr := rfl
@[simp] theorem Th.setQ_w_tinfo (s : Th) (n i : Nat) (x : RWord 32) : (s.setQ n i x).w.tinfo = s.w.tinfo := rfl
@[simp] theorem Th.setQ_w_tvec (s : Th) (n i : Nat) (x : RWord 32) : (s.setQ n i x).w.tvec = s.w.tvec := rfl
@[simp] theorem Th.setQ_w_tscr (s : Th) (n i : Nat) (x : RWord 32) : (s.setQ n i x).w.tscr = s.w.tscr := rfl
@[simp] theorem Th.setQ_w_subcnt (s : Th) (n i : Nat) (x : RWord 32) : (s.setQ n i x).w.subcnt = s.w.subcnt := rfl
@[simp] theorem Th.setQ_w_hmode (s : Th) (n i : Nat) (x : RWord 32) : (s.setQ n i x).w.hmode = s.w.hmode := rfl
@[simp] theorem Th.setQ_w_hpath (s : Th) (n i : Nat) (x : RWord 32) : (s.setQ n i x).w.hpath = s.w.hpath := rfl
@[simp] theorem Th.setQ_w_hsave (s : Th) (n i : Nat) (x : RWord 32) : (s.setQ n i x).w.hsave = s.w.hsave := rfl
@[simp] theorem Th.setQ_w_prio (s : Th) (n i : Nat) (x : RWord 32) : (s.setQ n i x).w.prio = s.w.prio := rfl
@[simp] theorem Th.setQ_w_tokwait (s : Th) (n i : Nat) (x : RWord 32) : (s.setQ n i x).w.tokwait = s.w.tokwait := rfl
@[simp] theorem Th.setQ_w_corr (s : Th) (n i : Nat) (x : RWord 32) : (s.setQ n i x).w.corr = s.w.corr := rfl
@[simp] theorem Th.setQ_w_rpl (s : Th) (n i : Nat) (x : RWord 32) : (s.setQ n i x).w.rpl = s.w.rpl := rfl
@[simp] theorem Th.setQ_w_mcheck (s : Th) (n i : Nat) (x : RWord 32) : (s.setQ n i x).w.mcheck = s.w.mcheck := rfl
@[simp] theorem Th.setQ_w_wdog (s : Th) (n i : Nat) (x : RWord 32) : (s.setQ n i x).w.wdog = s.w.wdog := rfl
@[simp] theorem Th.setQ_w_logIdx (s : Th) (n i : Nat) (x : RWord 32) : (s.setQ n i x).w.logIdx = s.w.logIdx := rfl
@[simp] theorem Th.setQ_w_latch (s : Th) (n i : Nat) (x : RWord 32) : (s.setQ n i x).w.latch = s.w.latch := rfl
@[simp] theorem Th.setGen_s (s : Th) (l : Nat) (x : RWord 32) : (s.setGen l x).s = s.s := rfl
@[simp] theorem Th.setGen_wk (s : Th) (l : Nat) (x : RWord 32) : (s.setGen l x).wk = s.wk := rfl
@[simp] theorem Th.setGen_p (s : Th) (l : Nat) (x : RWord 32) : (s.setGen l x).p = s.p := rfl
@[simp] theorem Th.setGen_w_die (s : Th) (l : Nat) (x : RWord 32) : (s.setGen l x).w.die = s.w.die := rfl
@[simp] theorem Th.setGen_w_core (s : Th) (l : Nat) (x : RWord 32) : (s.setGen l x).w.core = s.w.core := rfl
@[simp] theorem Th.setGen_w_slot (s : Th) (l : Nat) (x : RWord 32) : (s.setGen l x).w.slot = s.w.slot := rfl
@[simp] theorem Th.setGen_w_half (s : Th) (l : Nat) (x : RWord 32) : (s.setGen l x).w.half = s.w.half := rfl
@[simp] theorem Th.setGen_w_w32 (s : Th) (l : Nat) (x : RWord 32) : (s.setGen l x).w.w32 = s.w.w32 := rfl
@[simp] theorem Th.setGen_w_pasid (s : Th) (l : Nat) (x : RWord 32) : (s.setGen l x).w.pasid = s.w.pasid := rfl
@[simp] theorem Th.setGen_w_crew (s : Th) (l : Nat) (x : RWord 32) : (s.setGen l x).w.crew = s.w.crew := rfl
@[simp] theorem Th.setGen_w_wid (s : Th) (l : Nat) (x : RWord 32) : (s.setGen l x).w.wid = s.w.wid := rfl
@[simp] theorem Th.setGen_w_role (s : Th) (l : Nat) (x : RWord 32) : (s.setGen l x).w.role = s.w.role := rfl
@[simp] theorem Th.setGen_w_vregs (s : Th) (l : Nat) (x : RWord 32) : (s.setGen l x).w.vregs = s.w.vregs := rfl
@[simp] theorem Th.setGen_w_acc (s : Th) (l : Nat) (x : RWord 32) : (s.setGen l x).w.acc = s.w.acc := rfl
@[simp] theorem Th.setGen_w_stkidx (s : Th) (l : Nat) (x : RWord 32) : (s.setGen l x).w.stkidx = s.w.stkidx := rfl
@[simp] theorem Th.setGen_w_ended (s : Th) (l : Nat) (x : RWord 32) : (s.setGen l x).w.ended = s.w.ended := rfl
@[simp] theorem Th.setGen_w_paths (s : Th) (l : Nat) (x : RWord 32) : (s.setGen l x).w.paths = s.w.paths := rfl
@[simp] theorem Th.setGen_w_spilled (s : Th) (l : Nat) (x : RWord 32) : (s.setGen l x).w.spilled = s.w.spilled := rfl
@[simp] theorem Th.setGen_w_nextEid (s : Th) (l : Nat) (x : RWord 32) : (s.setGen l x).w.nextEid = s.w.nextEid := rfl
@[simp] theorem Th.setGen_w_sreg (s : Th) (l : Nat) (x : RWord 32) : (s.setGen l x).w.sreg = s.w.sreg := rfl
@[simp] theorem Th.setGen_w_p (s : Th) (l : Nat) (x : RWord 32) : (s.setGen l x).w.p = s.w.p := rfl
@[simp] theorem Th.setGen_w_d (s : Th) (l : Nat) (x : RWord 32) : (s.setGen l x).w.d = s.w.d := rfl
@[simp] theorem Th.setGen_w_lc (s : Th) (l : Nat) (x : RWord 32) : (s.setGen l x).w.lc = s.w.lc := rfl
@[simp] theorem Th.setGen_w_v (s : Th) (l : Nat) (x : RWord 32) : (s.setGen l x).w.v = s.w.v := rfl
@[simp] theorem Th.setGen_w_lid (s : Th) (l : Nat) (x : RWord 32) : (s.setGen l x).w.lid = s.w.lid := rfl
@[simp] theorem Th.setGen_w_q (s : Th) (l : Nat) (x : RWord 32) : (s.setGen l x).w.q = s.w.q := rfl
@[simp] theorem Th.setGen_w_tiles (s : Th) (l : Nat) (x : RWord 32) : (s.setGen l x).w.tiles = s.w.tiles := rfl
@[simp] theorem Th.setGen_w_chkctl (s : Th) (l : Nat) (x : RWord 32) : (s.setGen l x).w.chkctl = s.w.chkctl := rfl
@[simp] theorem Th.setGen_w_inj (s : Th) (l : Nat) (x : RWord 32) : (s.setGen l x).w.inj = s.w.inj := rfl
@[simp] theorem Th.setGen_w_tcause (s : Th) (l : Nat) (x : RWord 32) : (s.setGen l x).w.tcause = s.w.tcause := rfl
@[simp] theorem Th.setGen_w_tia (s : Th) (l : Nat) (x : RWord 32) : (s.setGen l x).w.tia = s.w.tia := rfl
@[simp] theorem Th.setGen_w_tlanes (s : Th) (l : Nat) (x : RWord 32) : (s.setGen l x).w.tlanes = s.w.tlanes := rfl
@[simp] theorem Th.setGen_w_tpath (s : Th) (l : Nat) (x : RWord 32) : (s.setGen l x).w.tpath = s.w.tpath := rfl
@[simp] theorem Th.setGen_w_taddr (s : Th) (l : Nat) (x : RWord 32) : (s.setGen l x).w.taddr = s.w.taddr := rfl
@[simp] theorem Th.setGen_w_tinfo (s : Th) (l : Nat) (x : RWord 32) : (s.setGen l x).w.tinfo = s.w.tinfo := rfl
@[simp] theorem Th.setGen_w_tvec (s : Th) (l : Nat) (x : RWord 32) : (s.setGen l x).w.tvec = s.w.tvec := rfl
@[simp] theorem Th.setGen_w_tscr (s : Th) (l : Nat) (x : RWord 32) : (s.setGen l x).w.tscr = s.w.tscr := rfl
@[simp] theorem Th.setGen_w_subcnt (s : Th) (l : Nat) (x : RWord 32) : (s.setGen l x).w.subcnt = s.w.subcnt := rfl
@[simp] theorem Th.setGen_w_hmode (s : Th) (l : Nat) (x : RWord 32) : (s.setGen l x).w.hmode = s.w.hmode := rfl
@[simp] theorem Th.setGen_w_hpath (s : Th) (l : Nat) (x : RWord 32) : (s.setGen l x).w.hpath = s.w.hpath := rfl
@[simp] theorem Th.setGen_w_hsave (s : Th) (l : Nat) (x : RWord 32) : (s.setGen l x).w.hsave = s.w.hsave := rfl
@[simp] theorem Th.setGen_w_prio (s : Th) (l : Nat) (x : RWord 32) : (s.setGen l x).w.prio = s.w.prio := rfl
@[simp] theorem Th.setGen_w_tokwait (s : Th) (l : Nat) (x : RWord 32) : (s.setGen l x).w.tokwait = s.w.tokwait := rfl
@[simp] theorem Th.setGen_w_corr (s : Th) (l : Nat) (x : RWord 32) : (s.setGen l x).w.corr = s.w.corr := rfl
@[simp] theorem Th.setGen_w_rpl (s : Th) (l : Nat) (x : RWord 32) : (s.setGen l x).w.rpl = s.w.rpl := rfl
@[simp] theorem Th.setGen_w_mcheck (s : Th) (l : Nat) (x : RWord 32) : (s.setGen l x).w.mcheck = s.w.mcheck := rfl
@[simp] theorem Th.setGen_w_wdog (s : Th) (l : Nat) (x : RWord 32) : (s.setGen l x).w.wdog = s.w.wdog := rfl
@[simp] theorem Th.setGen_w_logIdx (s : Th) (l : Nat) (x : RWord 32) : (s.setGen l x).w.logIdx = s.w.logIdx := rfl
@[simp] theorem Th.setGen_w_latch (s : Th) (l : Nat) (x : RWord 32) : (s.setGen l x).w.latch = s.w.latch := rfl
@[simp] theorem Mem.putPair_cells (s : Mem) (b : Nat) (p : Pair) : (s.putPair b p).cells = s.cells := rfl
@[simp] theorem Mem.putPair_resx (s : Mem) (b : Nat) (p : Pair) : (s.putPair b p).resx = s.resx := rfl
@[simp] theorem Mem.putPair_marks (s : Mem) (b : Nat) (p : Pair) : (s.putPair b p).marks = s.marks := rfl
@[simp] theorem Mem.putWord_pairs (s : Mem) (n : Nat) (x : RWord 32) : (s.putWord n x).pairs = s.pairs := rfl
@[simp] theorem Mem.putWord_marks (s : Mem) (n : Nat) (x : RWord 32) : (s.putWord n x).marks = s.marks := rfl
@[simp] theorem Mem.mark_cells (s : Mem) (b : Nat) (on : Bool) : (s.mark b on).cells = s.cells := rfl
@[simp] theorem Mem.mark_resx (s : Mem) (b : Nat) (on : Bool) : (s.mark b on).resx = s.resx := rfl
@[simp] theorem Mem.mark_pairs (s : Mem) (b : Nat) (on : Bool) : (s.mark b on).pairs = s.pairs := rfl

/-- What a write of a V register leaves in the operand latch (R111). -/
@[simp] theorem Th.setV_w_latch (s : Th) (n l : Nat) (x : RWord 32) :
    (s.setV n l x).w.latch = s.w.latch.filter fun h => h.reg != s.w.vname n := rfl

end Sys2Proof.Machine
end

