-- ==== Sys2Proof/Safety.lean ====
section
/-!
DEFINITION. What counts as a safe run, in the terms statements use.
-/
namespace Sys2Proof.Machine

/-- The outcome is a next state. -/
def goesOn : Host.Outcome State Fault Refusal → Bool
  | .next _ => true
  | _ => false

/-- The memories of a state are in canonical form: physical memory, every die scratch and every crew's scratchpad. -/
def State.memWf (s : State) : Bool :=
  Memory.wf s.ms.phys && s.ms.dsc.all (fun x => Memory.wf x.2) && s.crews.all fun c => Memory.wf c.scr

/-- Path `t` is selected to issue and nothing but its instruction is at work: nothing is traced or counted (R364, R369), no
failed MMA is unreported, no lanes wait at a loop exit, and its crew records no replay. The registers, the memories and the
mode are arbitrary. -/
structure Quiet (s : State) (t : Th) : Prop where
  issuer   : s.issuer = some t
  real     : s.badPa = none
  untraced : s.dbg = []
  noCheck  : t.w.mcheck = []
  noExit   : ((t.w.paths ++ t.w.spilled).all fun q => q.st != .loopExit) = true
  noRegion : t.crew.bind (·.region) = none

/-- A quiet path that is no arm of a split and has no loop level open. -/
structure Plain (s : State) (t : Th) : Prop extends Quiet s t where
  noLoop   : t.w.d = 0
  noJoin   : t.p.parent = none

/-- The path as its instruction of class `cls` executes in the lanes `ex`: for class L the source that HOLD names stands in the
operand latch, and the governor has counted it (R96, R111). Nothing else differs from the selected path. -/
def Th.entered (t : Th) (cls : Cls) (f : Fields) (ex : BitVec 64) : Th := if cls == .l then (t.latched f).vecIssued ex else t

/-- The path has met an event whose trace record is dropped, for no record type is enabled (R364). -/
def Th.dropped (t : Th) : Th := { t with s := t.s.spdrop t.w.pasid 1 }

/-- Instruction `i` with fields `f` of class `cls` issues on a plain path, is `t` as it executes, and executes in the lanes
`ex`: its fields are legal and its guard is readable (R109, R120), and for class C true. -/
def Runs (s : State) (t : Th) (i : Instr) (f : Fields) (cls : Cls) (ex : BitVec 64) : Prop :=
  (∃ t0, Plain s t0 ∧ t = t0.entered cls f ex) ∧ fieldErr t.lim i = none ∧ ∃ g, guardOf t cls f = .ok g ∧ (cls = .c → g ≠ 0) ∧ ex = t.p.exm &&& g

/-- The path with the retirement of its instruction recorded: its key counts it outside handler mode (R373), a watchdog's
measure begins anew (R356), and its held copies have one instruction less to stay (R111). -/
def Th.counted (t : Th) (xfer : Bool) : Th :=
  let p := if t.w.hmode then t.p else { t.p with pc := t.p.pc + 1, tc := if xfer then t.p.tc + 1 else t.p.tc }
  { t with
    w := { (t.w.agedHeld t.p.eid) with wdog := t.s.ptime },
    p := { p with age := 0, wait := .none, ibpSkip := false, tokWait := false } }

/-- The state after the path has retired its instruction and stands at address `a`, which it reached by a checked transfer
or not (R100), and by a transfer of its key or not (R373). -/
def Th.retiredAt (t : Th) (a : BitVec 64) (chk xfer : Bool) : State :=
  ((t.counted xfer).goto a chk t.p.pia).commit

/-- The state after the path has retired its instruction and stands at the next slot (R102). -/
def Th.retired (t : Th) : State := t.retiredAt (nextAddr t.p.pia) false false

end Sys2Proof.Machine
end

