-- ==== Sys2Proof/Laws/Issue.lean ====
section
/-!
SUPPORT. What issuing and retiring an instruction does on a plain state: the shared operation of every instruction word,
said once.
-/
namespace Sys2Proof.Machine

theorem normPc_nextAddr (a : BitVec 64) : normPc (nextAddr a) = nextAddr a := by
  apply BitVec.eq_of_toNat_eq
  simp only [normPc, nextAddr, addrOf, BitVec.toNat_ofNat]
  have e : ∀ n : Nat, ((n : Int) / 5 * 64 + (n : Int) % 5) = ((n / 5 * 64 + n % 5 : Nat) : Int) := by intro n; push_cast; rfl
  have : ((linear a : Int) + 1) = ((linear a + 1 : Nat) : Int) := by push_cast; rfl
  rw [this, e, BitVec.ofInt_natCast, BitVec.toNat_ofNat]
  omega

theorem dbgReg_untraced {s : State} (h : s.dbg = []) {pasid core num : Nat} (hp : perCore num = true) :
    s.dbgReg pasid core num = 0 := by
  simp [State.dbgReg, hp, h, sget, slook]

/-- Nothing is counted where no counter is set up. -/
theorem count_untraced {s : State} (h : s.dbg = []) (w : Wave) (code n : Nat) : s.count w code n = s := by
  have sel : ∀ num, perCore num = true → s.dbgReg w.pasid w.coreN num = 0 := fun _ => dbgReg_untraced h
  simp only [State.count, State.countAt]
  split
  · rfl
  · simp [List.range_succ, sel 368 rfl, sel 369 rfl, sel 370 rfl, sel 371 rfl]

/-- Where no record type is enabled a record is dropped, which SPDROP counts. -/
theorem trace_untraced {s : State} (h : s.dbg = []) (pasid core : Nat) (who : Option (Wave × Path)) (ty data : Nat)
    (pia : BitVec 64) : s.trace pasid core who ty data pia = s.spdrop pasid 1 := by
  simp [State.trace, State.traceRec, dbgReg_untraced h (show perCore 0x161 = true from rfl)]

theorem th_trace_untraced {t : Th} (h : t.s.dbg = []) (ty data : Nat) (pia : BitVec 64) : t.trace ty data pia = t.dropped := by
  simp [Th.trace, trace_untraced h, Th.dropped]

/-- Nothing freezes where no trace is set up. -/
theorem freeze_untraced {s : State} (h : s.dbg = []) (pasid core code : Nat) : s.freeze pasid core code = s := by
  simp [State.freeze, dbgReg_untraced h (show perCore 0x161 = true from rfl)]

theorem freezeAll_untraced {s : State} (h : s.dbg = []) (q : Nat → Nat → Bool) (code : Nat) : s.freezeAll q code = s := by
  simp [State.freezeAll, State.traced, h, uniq]

theorem freezeDies_untraced {s : State} (h : s.dbg = []) (dies : List Nat) (code : Nat) : s.freezeDies dies code = s :=
  freezeAll_untraced h _ _

theorem freezeCtx_untraced {s : State} (h : s.dbg = []) (pasid code : Nat) : s.freezeCtx pasid code = s :=
  freezeAll_untraced h _ _

theorem exitAt_none {w : Wave} {p : Path} (h : ((w.paths ++ w.spilled).all fun q => q.st != .loopExit) = true) :
    exitAt w p = none := by
  rw [exitAt, List.find?_eq_none]
  intro q hq
  have := List.all_eq_true.1 h q hq
  simp_all

theorem settle_plain {t : Th} (hj : t.p.parent = none)
    (hx : ((t.w.paths ++ t.w.spilled).all fun q => q.st != .loopExit) = true) : settle t = t.commit := by
  simp [settle, exitAt_none hx, Th.land, hj]

/-- What a body may leave of the plain state for its instruction to retire plainly. -/
structure Calm (t : Th) : Prop where
  untraced : t.s.dbg = []
  noJoin   : t.p.parent = none
  noExit   : ((t.w.paths ++ t.w.spilled).all fun q => q.st != .loopExit) = true
  noRegion : t.crew.bind (·.region) = none

theorem Plain.calm {s : State} {t : Th} (h : Plain s t) : Calm t where
  untraced := by
    have e := h.issuer
    simp only [State.issuer, Option.bind_eq_some_iff, State.view] at e
    obtain ⟨x, -, e⟩ := e
    have u := h.untraced
    split at e
    · cases e
    · split at e
      · cases e
      · cases e; exact u
  noJoin := h.noJoin
  noExit := h.noExit
  noRegion := h.noRegion

theorem Plain.state {s : State} {t : Th} (h : Plain s t) : t.s = s := by
  have e := h.issuer
  simp only [State.issuer, Option.bind_eq_some_iff, State.view] at e
  obtain ⟨x, -, e⟩ := e
  split at e
  · cases e
  · split at e
    · cases e
    · cases e; rfl

theorem countRetire_untraced {t : Th} (h : t.s.dbg = []) (k : Fin) (xfer : Bool) : countRetire t k xfer = t.counted xfer := by
  simp only [countRetire, count_untraced h, ite_self, Th.counted]

theorem counted_latch (t : Th) (x : Bool) : (t.counted x).w.latch = (t.w.agedHeld t.p.eid).latch := rfl

theorem logKey_none {t : Th} (h : t.crew.bind (·.region) = none) : logKey t = (t, none) := by
  simp [logKey, h]

theorem counted_crew (t : Th) (x : Bool) : (t.counted x).crew = t.crew := rfl

/-- The tail of a retirement on a calm path. -/
theorem retire_tail {t : Th} {k : Fin} {a : BitVec 64} {chk xf : Bool} (h : Calm t) (back : Option MErr → Th → State) :
    (match (if k.sync then logKey (t.counted xf) else (t.counted xf, none)) with
      | (t', some e) => back (some e) t'
      | (t', none) =>
        settle ((if k.sync then t'.trace 7 n t.p.pia else t').goto a chk t.p.pia)) =
      (if k.sync then t.dropped else t).retiredAt a chk xf := by
  have e1 : (if k.sync = true then logKey (t.counted xf) else (t.counted xf, none)) = (t.counted xf, none) := by
    split
    · exact logKey_none ((counted_crew t xf) ▸ h.noRegion)
    · rfl
  rw [e1]
  have e2 : (if k.sync = true then (t.counted xf).trace 7 n t.p.pia else t.counted xf) =
      (if k.sync then t.dropped else t).counted xf := by
    split
    · exact th_trace_untraced (show (t.counted xf).s.dbg = [] from h.untraced) _ _ _
    · rfl
  show settle _ = _
  rw [e2, settle_plain]
  · cases k.sync <;> rfl
  · have j : (t.counted xf).p.parent = none := by simp only [Th.counted]; split <;> exact h.noJoin
    cases k.sync <;> exact j
  · cases k.sync <;> exact h.noExit

/-- An instruction whose body is done retires to the next slot; the record of a synchronising one is dropped. -/
theorem finish_done {t0 t : Th} {k : Fin} (h1 : t.w.d = 0) (h : Calm t) :
    finish t0 k (.done t) = (if k.sync then t.dropped else t).retired := by
  have e : edgeWords t t.w.d = [] := by rw [h1]; rfl
  have eb : backEdge t t.w.d = (t, nextAddr t.p.pia) := by rw [h1]; rfl
  simp only [finish, Option.isNone_none, if_true, e, List.any_nil, Bool.false_eq_true, if_false, eb,
    countRetire_untraced h.untraced, normPc_nextAddr]
  refine (retire_tail h fun e t' => match e with | some e => parkPath { t0 with s := t'.s, p := { t0.p with age := 0 } } 15 e | none => t'.commit).trans ?_
  split <;> rfl

/-- An instruction whose body transfers retires to its target. -/
theorem finish_jump {t0 t : Th} {k : Fin} {a : BitVec 64} {chk xf : Bool} (h : Calm t) :
    finish t0 k (.jump t a chk xf) = (if k.sync then t.dropped else t).retiredAt (if chk then a else normPc a) chk xf := by
  simp only [finish, Option.isNone_some, Bool.false_eq_true, if_false, List.any_nil, countRetire_untraced h.untraced]
  exact retire_tail h fun e t' => match e with | some e => parkPath { t0 with s := t'.s, p := { t0.p with age := 0 } } 15 e | none => t'.commit

/-- What entering leaves of a path: everything but the latch of its wave, and what the governor counts. -/
theorem entered_eq (t : Th) (cls : Cls) (f : Fields) (ex : BitVec 64) : ∃ l n,
    t.entered cls f ex = { t with w := { t.w with latch := l }, s := { t.s with pkg := { t.s.pkg with vecs := n } } } := by
  simp only [Th.entered, Th.latched]
  split
  · split <;> exact ⟨_, _, rfl⟩
  · exact ⟨t.w.latch, t.s.pkg.vecs, rfl⟩

theorem Plain.entered_calm {s : State} {t : Th} (h : Plain s t) (cls : Cls) (f : Fields) (ex : BitVec 64) :
    Calm (t.entered cls f ex) := by
  obtain ⟨l, n, e⟩ := entered_eq t cls f ex
  exact e ▸ ⟨h.calm.untraced, h.calm.noJoin, h.calm.noExit, h.calm.noRegion⟩

/-- Nothing that issue asks of an instruction looks at what the governor counts. -/
theorem vecIssued_lim (t : Th) (ex : BitVec 64) : (t.vecIssued ex).lim = t.lim := rfl

theorem vecIssued_guard (t : Th) (ex : BitVec 64) (cls : Cls) (f : Fields) : guardOf (t.vecIssued ex) cls f = guardOf t cls f := rfl

/-- The path with another count of its core's vector instructions. -/
def Th.withVecs (t : Th) (n : SMap (Nat × Nat)) : Th := { t with s := { t.s with pkg := { t.s.pkg with vecs := n } } }

/-- Issue on a plain state: the mode and the fields are legal and the guard lets it execute. -/
theorem issue_plain {s : State} {t0 t : Th} {i : Instr} {f : Fields} {k : Kind} {body : Th → BitVec 64 → Res} {g : BitVec 64}
    (h : Plain s t0) (e : t = t0.entered k.cls f (t.p.exm &&& g)) (hp : k.priv = true → t.w.hmode = true)
    (hd : ∀ n, k.dec (t.withVecs n) = none) (hf : fieldErr t.lim i = none)
    (hg : guardOf t k.cls f = .ok g) (hx : k.cls = .c → g ≠ 0) :
    ∃ n, issue i f k body s = answer (finish t
      { vec := k.cls == .l, exec := if k.cls == .l then t.p.exm &&& g else 0, sync := k.sync, extra := n }
      (body t (t.p.exm &&& g))) := by
  have hm : t.w.mcheck = [] := by
    obtain ⟨l, n, el⟩ := entered_eq t0 k.cls f (t.p.exm &&& g)
    rw [e, el]; exact h.noCheck
  generalize hex : t.p.exm &&& g = ex at e ⊢
  -- `u` is the path before the governor counts it
  obtain ⟨u, hu, n, hn⟩ : ∃ u, u = (if k.cls == .l then t0.latched f else t0) ∧ ∃ n, u = t.withVecs n := by
    refine ⟨_, rfl, t0.s.pkg.vecs, ?_⟩
    rw [e, Th.entered]; split
    · rename_i hl
      simp only [Th.latched]; split <;> rfl
    · rfl
  have et : (if k.cls == .l then u.vecIssued ex else u) = t := by
    rw [e, Th.entered, hu]; cases (k.cls == Cls.l) <;> rfl
  have hp' : (k.priv && !u.w.hmode) = false := by
    subst hn
    cases hk : k.priv
    · rfl
    · exact congrArg (fun b => true && !b) (hp hk)
  have hx' : (k.cls == .c && g == 0) = false := by
    clear hu et hn e
    cases hk : k.cls <;> simp_all
  have hd' : k.dec u = none := hn ▸ hd n
  have hf' : fieldErr u.lim i = none := by subst hn; exact hf
  have hg' : guardOf u k.cls f = .ok g := by subst hn; exact hg
  have hm' : pendingCheck u k.tiles k.drain = none := by
    have m : u.w.mcheck = [] := by subst hn; exact hm
    unfold pendingCheck; rw [m]; rfl
  have hex' : u.p.exm &&& g = ex := by subst hn; exact hex
  refine ⟨t0.bankExtra (vSources t0.lim i), ?_⟩
  simp only [issue, h.issuer]
  unfold issueOn
  rw [← hu]
  simp only [hp', hd', hf', hg', hx', hm', hex', Bool.false_eq_true, if_false]
  rw [et]

theorem retiredAt_badPa (t : Th) (a : BitVec 64) (chk xf : Bool) : (t.retiredAt a chk xf).badPa = t.s.badPa := rfl

theorem answer_real {s : State} (h : s.badPa = none) : answer s = .next s := by simp [answer, h]

/-- An instruction whose body is done completes; the record of a synchronising one is dropped. -/
theorem issue_done {s : State} {t u : Th} {i : Instr} {f : Fields} {k : Kind} {body : Th → BitVec 64 → Res} {ex : BitVec 64}
    (h : Runs s t i f k.cls ex) (hp : k.priv = true → t.w.hmode = true) (hd : ∀ n, k.dec (t.withVecs n) = none)
    (hb : body t ex = .done u) (hc : Calm u) (hl : u.w.d = 0) (hr : u.s.badPa = none) :
    issue i f k body s = .next (if k.sync then u.dropped else u).retired := by
  obtain ⟨⟨t0, hs, e⟩, hf, g, hg, hx, rfl⟩ := h
  obtain ⟨n, eq⟩ := issue_plain (body := body) hs e hp hd hf hg hx
  rw [eq, hb, finish_done hl hc]
  refine answer_real ?_
  cases k.sync <;> exact hr

/-- An instruction whose body transfers completes at its target. -/
theorem issue_jump {s : State} {t u : Th} {i : Instr} {f : Fields} {k : Kind} {body : Th → BitVec 64 → Res} {ex : BitVec 64}
    {a : BitVec 64} {chk xf : Bool} (h : Runs s t i f k.cls ex) (hp : k.priv = true → t.w.hmode = true)
    (hd : ∀ n, k.dec (t.withVecs n) = none) (hb : body t ex = .jump u a chk xf) (hc : Calm u) (hr : u.s.badPa = none) :
    issue i f k body s = .next ((if k.sync then u.dropped else u).retiredAt (if chk then a else normPc a) chk xf) := by
  obtain ⟨⟨t0, hs, e⟩, hf, g, hg, hx, rfl⟩ := h
  obtain ⟨n, eq⟩ := issue_plain (body := body) hs e hp hd hf hg hx
  rw [eq, hb, finish_jump hc]
  refine answer_real ?_
  cases k.sync <;> exact hr

/-- An instruction whose body raises a trap takes it. -/
theorem issue_trap {s : State} {t u : Th} {i : Instr} {f : Fields} {k : Kind} {body : Th → BitVec 64 → Res} {ex : BitVec 64}
    {x : Trap} (h : Runs s t i f k.cls ex) (hp : k.priv = true → t.w.hmode = true) (hd : ∀ n, k.dec (t.withVecs n) = none)
    (hb : body t ex = .trap u x) : issue i f k body s = answer (enterTrap u x) := by
  obtain ⟨⟨t0, hs, e⟩, hf, g, hg, hx, rfl⟩ := h
  obtain ⟨n, eq⟩ := issue_plain (body := body) hs e hp hd hf hg hx
  rw [eq, hb]; rfl

theorem Plain.th_real {s : State} {t : Th} (h : Plain s t) : t.s.badPa = none := h.state ▸ h.real

/-! Register writes leave a path calm. -/

theorem Calm.setS {t : Th} (h : Calm t) (n : Nat) (x : RWord 64) : Calm (t.setS n x) := by
  simp only [Th.setS]; split
  · exact h
  · split <;> exact ⟨h.untraced, h.noJoin, h.noExit, h.noRegion⟩

theorem Calm.setB {t : Th} (h : Calm t) (n : Nat) (x : RWord 1) : Calm (t.setB n x) :=
  ⟨h.untraced, h.noJoin, h.noExit, h.noRegion⟩

theorem Calm.setP {t : Th} (h : Calm t) (n : Nat) (x : RWord 64) : Calm (t.setP n x) :=
  ⟨h.untraced, h.noJoin, h.noExit, h.noRegion⟩

theorem Calm.setV {t : Th} (h : Calm t) (n L : Nat) (x : RWord 32) : Calm (t.setV n L x) :=
  ⟨h.untraced, h.noJoin, h.noExit, h.noRegion⟩

theorem Calm.setGen {t : Th} (h : Calm t) (L : Nat) (x : RWord 32) : Calm (t.setGen L x) :=
  ⟨h.untraced, h.noJoin, h.noExit, h.noRegion⟩

theorem Calm.setQ {t : Th} (h : Calm t) (n i : Nat) (x : RWord 32) : Calm (t.setQ n i x) :=
  ⟨h.untraced, h.noJoin, h.noExit, h.noRegion⟩

theorem setS_d (t : Th) (n : Nat) (x : RWord 64) : (t.setS n x).w.d = t.w.d := by
  simp only [Th.setS]; split
  · rfl
  · split <;> rfl

theorem setS_s (t : Th) (n : Nat) (x : RWord 64) : (t.setS n x).s = t.s := by
  simp only [Th.setS]; split
  · rfl
  · split <;> rfl

end Sys2Proof.Machine
end

