-- ==== Sys2Proof/Laws/Maps.lean ====
section
/-!
SUPPORT. Sparse maps: reading after writing, and the canonical form under writing.
-/
namespace Sys2Proof.Machine

/-- The canonical form of a map: keys rising from `lo`, no entry equal to the default. -/
def SMap.wf (d : α) (lo : Nat) [DecidableEq α] (m : SMap α) : Bool := sorted lo m && m.all fun x => x.2 != d

theorem sorted_weaken {lo lo' : Nat} (h : lo' ≤ lo) : ∀ {m : SMap α}, sorted lo m = true → sorted lo' m = true
  | [], _ => rfl
  | (j, _) :: m, hs => by
    simp only [sorted, Bool.and_eq_true, decide_eq_true_eq] at hs ⊢
    exact ⟨by omega, hs.2⟩

theorem sorted_sput : ∀ {lo : Nat} {m : SMap α} {k : Nat} {x : α}, lo ≤ k → sorted lo m = true → sorted lo (sput m k x) = true
  | lo, [], k, x, hk, _ => by simp [sput, sorted, hk]
  | lo, (j, y) :: m, k, x, hk, hs => by
    simp only [sorted, Bool.and_eq_true, decide_eq_true_eq] at hs
    simp only [sput]
    split
    · next h => subst h; simp [sorted, hk, hs.2]
    · split
      · next h => simp [sorted, hk, hs.2]; omega
      · next h h' => simp [sorted, hs.1, sorted_sput (by omega : j + 1 ≤ k) hs.2]

theorem sorted_sdel : ∀ {lo : Nat} {m : SMap α} {k : Nat}, sorted lo m = true → sorted lo (sdel m k) = true
  | _, [], _, _ => rfl
  | lo, (j, y) :: m, k, hs => by
    simp only [sorted, Bool.and_eq_true, decide_eq_true_eq] at hs
    simp only [sdel]
    split
    · exact sorted_sdel (sorted_weaken (by omega) hs.2)
    · simp [sorted, hs.1, sorted_sdel hs.2]

theorem mem_sput : ∀ {m : SMap α} {k : Nat} {x : α} {y : Nat × α}, y ∈ sput m k x → y = (k, x) ∨ y ∈ m
  | [], k, x, y, h => by simpa [sput] using h
  | (j, z) :: m, k, x, y, h => by
    simp only [sput] at h
    split at h
    · simp only [List.mem_cons] at h ⊢; grind
    · split at h
      · simp only [List.mem_cons] at h ⊢; grind
      · simp only [List.mem_cons] at h ⊢
        rcases h with h | h
        · grind
        · have := mem_sput h; grind

theorem mem_sdel : ∀ {m : SMap α} {k : Nat} {y : Nat × α}, y ∈ sdel m k → y ∈ m
  | [], _, _, h => h
  | (j, z) :: m, k, y, h => by
    simp only [sdel] at h
    split at h
    · exact List.mem_cons_of_mem _ (mem_sdel h)
    · simp only [List.mem_cons] at h ⊢
      exact h.imp id fun h => mem_sdel h

theorem mem_sset [DecidableEq α] {d : α} {m : SMap α} {k : Nat} {x : α} {y : Nat × α} (h : y ∈ sset d m k x) :
    (y = (k, x) ∧ x ≠ d) ∨ y ∈ m := by
  simp only [sset] at h
  split at h
  · exact .inr (mem_sdel h)
  · exact (mem_sput h).imp (fun e => ⟨e, ‹_›⟩) id

theorem sorted_sset [DecidableEq α] {d : α} {m : SMap α} {k lo : Nat} {x : α} (hk : lo ≤ k) (h : sorted lo m = true) :
    sorted lo (sset d m k x) = true := by
  simp only [sset]; split
  · exact sorted_sdel h
  · exact sorted_sput hk h

/-- Writing keeps the canonical form. -/
theorem wf_sset [DecidableEq α] {d : α} {m : SMap α} {k : Nat} {x : α} (h : SMap.wf d 0 m = true) :
    SMap.wf d 0 (sset d m k x) = true := by
  simp only [SMap.wf, Bool.and_eq_true, List.all_eq_true] at h ⊢
  refine ⟨sorted_sset (Nat.zero_le _) h.1, fun y hy => ?_⟩
  rcases mem_sset hy with ⟨rfl, hx⟩ | hy
  · simpa using hx
  · exact h.2 y hy

theorem slook_sput_same : ∀ {m : SMap α} {k : Nat} {x : α}, slook (sput m k x) k = some x
  | [], k, x => by simp [sput, slook]
  | (j, y) :: m, k, x => by
    simp only [sput]
    split
    · simp [slook]
    · split
      · simp [slook]
      · next h _ => simp [slook, h, slook_sput_same]

theorem slook_sput_ne : ∀ {m : SMap α} {k l : Nat} {x : α}, l ≠ k → slook (sput m k x) l = slook m l
  | [], k, l, x, h => by simp [sput, slook, Ne.symm h]
  | (j, y) :: m, k, l, x, h => by
    simp only [sput]
    split
    · next e => subst e; simp [slook, Ne.symm h]
    · split
      · simp [slook, Ne.symm h]
      · simp only [slook, slook_sput_ne h]

theorem slook_sdel_same : ∀ {m : SMap α} {k : Nat}, slook (sdel m k) k = none
  | [], _ => rfl
  | (j, y) :: m, k => by
    simp only [sdel]
    split
    · exact slook_sdel_same
    · next e => simp [slook, e, slook_sdel_same]

theorem slook_sdel_ne : ∀ {m : SMap α} {k l : Nat}, l ≠ k → slook (sdel m k) l = slook m l
  | [], _, _, _ => rfl
  | (j, y) :: m, k, l, h => by
    simp only [sdel]
    split
    · next e => subst e; simp [slook, Ne.symm h, slook_sdel_ne h]
    · simp only [slook, slook_sdel_ne h]

theorem slook_low : ∀ {m : SMap α} {k lo : Nat}, sorted lo m = true → k < lo → slook m k = none
  | [], _, _, _, _ => rfl
  | (j, y) :: m, k, lo, hs, hk => by
    simp only [sorted, Bool.and_eq_true, decide_eq_true_eq] at hs
    have : ¬ j = k := by omega
    simp [slook, this, slook_low hs.2 (by omega : k < j + 1)]

/-- A listed entry is what a lookup finds. -/
theorem slook_of_mem : ∀ {m : SMap α} {y : Nat × α} {lo : Nat}, sorted lo m = true → y ∈ m → slook m y.1 = some y.2
  | (j, v) :: m, y, lo, hs, hy => by
    simp only [sorted, Bool.and_eq_true, decide_eq_true_eq] at hs
    rcases List.mem_cons.1 hy with rfl | hy
    · simp [slook]
    · have hl := slook_of_mem hs.2 hy
      have low := fun h => @slook_low _ m y.1 (j + 1) hs.2 h
      simp only [slook]
      split
      · rw [low (by omega)] at hl; cases hl
      · exact hl

/-- A read of the place just written gives the value written. -/
theorem sget_sset_same [DecidableEq α] {d : α} {m : SMap α} {k : Nat} {x : α} : sget d (sset d m k x) k = x := by
  simp only [sget, sset]; split
  · next e => simp [slook_sdel_same, e]
  · simp [slook_sput_same]

/-- A write leaves every other place alone. -/
theorem sget_sset_ne [DecidableEq α] {d : α} {m : SMap α} {k l : Nat} {x : α} (n : l ≠ k) :
    sget d (sset d m k x) l = sget d m l := by
  simp only [sget, sset]; split
  · simp [slook_sdel_ne n]
  · simp [slook_sput_ne n]

theorem nsorted_weaken {lo lo' : Nat} (h : lo' ≤ lo) : ∀ {m : List Nat}, nsorted lo m = true → nsorted lo' m = true
  | [], _ => rfl
  | j :: m, hs => by
    simp only [nsorted, Bool.and_eq_true, decide_eq_true_eq] at hs ⊢
    exact ⟨by omega, hs.2⟩

theorem nsorted_ninsert : ∀ {lo : Nat} {m : List Nat} {k : Nat}, lo ≤ k → nsorted lo m = true → nsorted lo (ninsert m k) = true
  | lo, [], k, hk, _ => by simp [ninsert, nsorted, hk]
  | lo, j :: m, k, hk, hs => by
    have h0 := hs
    simp only [nsorted, Bool.and_eq_true, decide_eq_true_eq] at hs
    simp only [ninsert]
    split
    · exact h0
    · split
      · next h => simp [nsorted, hk, hs.2]; omega
      · next h h' => simp [nsorted, hs.1, nsorted_ninsert (by omega : j + 1 ≤ k) hs.2]

theorem nsorted_nerase : ∀ {lo : Nat} {m : List Nat} {k : Nat}, nsorted lo m = true → nsorted lo (nerase m k) = true
  | _, [], _, _ => rfl
  | lo, j :: m, k, hs => by
    have h0 := hs
    simp only [nsorted, Bool.and_eq_true, decide_eq_true_eq] at hs
    simp only [nerase]
    split
    · exact nsorted_weaken (by omega) hs.2
    · split
      · exact h0
      · simp [nsorted, hs.1, nsorted_nerase hs.2]

end Sys2Proof.Machine
end

