-- ==== Sys2Proof/Laws/Memory.lean ====
section
/-!
SUPPORT. Memory: reading after writing, and that every memory operation keeps the canonical form.
-/
namespace Sys2Proof.Machine

/-- The canonical form without the residues of words: what byte writes keep. -/
theorem memWf_iff {m : Mem} : Memory.wf m = true ↔
    SMap.wf unwritten 0 m.cells = true ∧ (sorted 0 m.resx = true ∧ ∀ x ∈ m.resx, x.2 ≠ res (m.bits x.1).toNat) ∧
      SMap.wf rawPair 0 m.pairs = true ∧ nsorted 0 m.marks = true := by
  simp only [Memory.wf, SMap.wf, Bool.and_eq_true, List.all_eq_true, bne_iff_ne, ne_eq]
  constructor
  · rintro ⟨⟨⟨⟨⟨⟨a, b⟩, c⟩, d⟩, e⟩, f⟩, g⟩; exact ⟨⟨a, b⟩, ⟨c, d⟩, ⟨e, f⟩, g⟩
  · rintro ⟨⟨a, b⟩, ⟨c, d⟩, ⟨e, f⟩, g⟩; exact ⟨⟨⟨⟨⟨⟨a, b⟩, c⟩, d⟩, e⟩, f⟩, g⟩

theorem empty_memWf : Memory.wf Mem.empty = true := rfl

theorem reset_memWf : Memory.wf State.reset.ms.phys = true := rfl

/-- The cells after four byte writes of a word. -/
theorem putWord_cells_wf {m : Mem} {w : Nat} {x : RWord 32} (h : SMap.wf unwritten 0 m.cells = true) :
    SMap.wf unwritten 0 (m.putWord w x).cells = true := wf_sset (wf_sset (wf_sset (wf_sset h)))

/-- Byte `a` after writing word `w`. -/
theorem putWord_byte {m : Mem} {w : Nat} {x : RWord 32} (a : Nat) :
    (m.putWord w x).byte a = if a = 4 * w then x.v.extractLsb' 0 8 else if a = 4 * w + 1 then x.v.extractLsb' 8 8
      else if a = 4 * w + 2 then x.v.extractLsb' 16 8 else if a = 4 * w + 3 then x.v.extractLsb' 24 8 else m.byte a := by
  simp only [Mem.byte, Mem.putWord]
  by_cases h3 : a = 4 * w + 3
  · subst h3; rw [sget_sset_same]; simp
  rw [sget_sset_ne h3]
  by_cases h2 : a = 4 * w + 2
  · subst h2; rw [sget_sset_same]; simp
  rw [sget_sset_ne h2]
  by_cases h1 : a = 4 * w + 1
  · subst h1; rw [sget_sset_same]; simp
  rw [sget_sset_ne h1]
  by_cases h0 : a = 4 * w
  · subst h0; rw [sget_sset_same]; simp
  rw [sget_sset_ne h0]; simp [*]

theorem putWord_bits_same {m : Mem} {w : Nat} {x : RWord 32} :
    (m.putWord w x).bits w = x.v := by
  simp only [Mem.bits, putWord_byte]
  have e1 : 4 * w + 1 ≠ 4 * w := by omega
  have e2 : 4 * w + 2 ≠ 4 * w := by omega
  have e3 : 4 * w + 3 ≠ 4 * w := by omega
  simp only [e1, e2, e3, if_false, if_true, Nat.add_left_cancel_iff, show (2 : Nat) ≠ 1 by omega, show (3 : Nat) ≠ 1 by omega,
    show (3 : Nat) ≠ 2 by omega]
  rw [BitVec.extractLsb'_append_extractLsb'_eq_extractLsb' (show 24 = 16 + 8 from rfl),
    BitVec.extractLsb'_append_extractLsb'_eq_extractLsb' (show 16 = 8 + 8 from rfl),
    BitVec.extractLsb'_append_extractLsb'_eq_extractLsb' (show 8 = 0 + 8 from rfl)]
  exact BitVec.extractLsb'_eq_self

theorem putWord_bits_ne {m : Mem} {w w' : Nat} {x : RWord 32} (n : w' ≠ w) :
    (m.putWord w x).bits w' = m.bits w' := by
  have e0 : ∀ a, (a ≠ 4 * w ∧ a ≠ 4 * w + 1 ∧ a ≠ 4 * w + 2 ∧ a ≠ 4 * w + 3) → (m.putWord w x).byte a = m.byte a := by
    intro a ⟨h0, h1, h2, h3⟩; rw [putWord_byte, if_neg h0, if_neg h1, if_neg h2, if_neg h3]
  simp only [Mem.bits]
  rw [e0 _ (by omega), e0 _ (by omega), e0 _ (by omega), e0 _ (by omega)]

/-- Writing a word keeps the canonical form. -/
theorem putWord_memWf {m : Mem} {w : Nat} {x : RWord 32} (h : Memory.wf m = true) : Memory.wf (m.putWord w x) = true := by
  rw [memWf_iff] at h ⊢
  obtain ⟨hc, ⟨hs, hr⟩, hp, hm⟩ := h
  refine ⟨putWord_cells_wf hc, ⟨sorted_sset (Nat.zero_le _) hs, fun y hy => ?_⟩, hp, hm⟩
  by_cases e : y.1 = w
  · -- the entry of word w that stays listed is the new one
    have hk := slook_of_mem (sorted_sset (Nat.zero_le _) hs) hy
    rw [e, putWord_bits_same]
    rw [e] at hk
    simp only [sset] at hk
    split at hk
    · rw [slook_sdel_same] at hk; cases hk
    · next hx =>
      rw [slook_sput_same] at hk
      simp only [Option.some.injEq] at hk
      exact hk ▸ hx
  · rcases mem_sset hy with ⟨rfl, _⟩ | hy'
    · exact absurd rfl e
    · rw [putWord_bits_ne e]; exact hr y hy'

theorem putPair_memWf {m : Mem} {b : Nat} {p : Pair} (h : Memory.wf m = true) : Memory.wf (m.putPair b p) = true := by
  rw [memWf_iff] at h ⊢
  exact ⟨h.1, h.2.1, wf_sset h.2.2.1, h.2.2.2⟩

theorem mark_memWf {m : Mem} {b : Nat} {on : Bool} (h : Memory.wf m = true) : Memory.wf (m.mark b on) = true := by
  rw [memWf_iff] at h ⊢
  refine ⟨h.1, h.2.1, h.2.2.1, ?_⟩
  simp only [Mem.mark]; split
  · exact nsorted_ninsert (Nat.zero_le _) h.2.2.2
  · exact nsorted_nerase h.2.2.2

theorem putWords_memWf {l : List (RWord 32)} {m : Mem} {w : Nat} (h : Memory.wf m = true) :
    Memory.wf (m.putWords w l) = true := by
  induction l generalizing m w with
  | nil => exact h
  | cons x l ih => exact ih (putWord_memWf h)

/-- A block write keeps the canonical form. -/
theorem putBlk_memWf {m : Mem} {b : Nat} {x : Blk} (h : Memory.wf m = true) : Memory.wf (m.putBlk b x) = true :=
  putPair_memWf (putWords_memWf h)

/-- A fold of steps that keep the canonical form keeps it. -/
theorem foldl_memWf {f : Mem → β → Mem} (hf : ∀ m x, Memory.wf m = true → Memory.wf (f m x) = true) :
    ∀ {l : List β} {m : Mem}, Memory.wf m = true → Memory.wf (l.foldl f m) = true := by
  intro l
  induction l with
  | nil => exact fun h => h
  | cons x l ih => exact fun h => ih (hf _ _ h)

/-- A store into an on-chip memory keeps the canonical form. -/
theorem storeBlk_memWf {m : Mem} {b : Nat} {mask : BitVec 64} {data : BitVec 512} {poison : BitVec 16} {pair : Pair}
    (h : Memory.wf m = true) : Memory.wf (m.storeBlk b mask data poison pair) = true := by
  refine putPair_memWf (foldl_memWf (fun m i h => ?_) h)
  split
  · exact h
  · exact putWord_memWf h

/-- A word read after it is written is the word written. -/
theorem putWord_word_same {m : Mem} {w : Nat} {x : RWord 32} : (m.putWord w x).word w = x := by
  have hb := @putWord_bits_same m w x
  simp only [Mem.word, hb]
  simp only [Mem.putWord]
  rw [sget_sset_same]

/-- A write of a word leaves every other word alone. -/
theorem putWord_word_ne {m : Mem} {w w' : Nat} {x : RWord 32} (n : w' ≠ w) :
    (m.putWord w x).word w' = m.word w' := by
  have hb := @putWord_bits_ne m w w' x n
  have hr : sget (res (m.bits w').toNat) (sset (res x.v.toNat) m.resx w x.r) w' = sget (res (m.bits w').toNat) m.resx w' := by
    simp only [sget, sset]; split
    · rw [slook_sdel_ne n]
    · rw [slook_sput_ne n]
  simp only [Mem.word, hb]
  simp only [Mem.putWord]
  rw [hr]

end Sys2Proof.Machine
end

