-- ==== Sys2Proof/Laws/Encoding.lean ====
section
/-!
SUPPORT. The layout of a word: every field of a packed word reads back, and a word is packed from its own fields (R105).
-/
namespace Sys2Proof

theorem extract_append_high {m k : Nat} (x : BitVec m) (y : BitVec k) (lo n : Nat) (h : k ≤ lo) :
    (x ++ y).extractLsb' lo n = x.extractLsb' (lo - k) n := by
  ext i hi
  simp only [BitVec.getElem_extractLsb', BitVec.getLsbD_append]
  rw [if_neg (by omega)]; congr 1; omega

theorem extract_append_low {m k : Nat} (x : BitVec m) (y : BitVec k) (n : Nat) (h : n = k) :
    (x ++ y).extractLsb' 0 n = y.cast h.symm := by
  subst h
  ext i hi
  simp [BitVec.getLsbD_append, hi]

theorem getLsbD_append_high {m k : Nat} (x : BitVec m) (y : BitVec k) (i : Nat) (h : k ≤ i) :
    (x ++ y).getLsbD i = x.getLsbD (i - k) := by
  rw [BitVec.getLsbD_append, if_neg (by omega)]

theorem getLsbD_append_bool {m : Nat} (x : BitVec m) (b : Bool) : (x ++ BitVec.ofBool b).getLsbD 0 = b := by
  rw [BitVec.getLsbD_append, if_pos (by omega)]; simp

theorem ofBool_getLsbD {n : Nat} (x : BitVec n) (i : Nat) : BitVec.ofBool (x.getLsbD i) = x.extractLsb' i 1 := by
  ext j hj
  have : j = 0 := by omega
  subst this
  simp

/-- Two fields that meet are one. -/
theorem extract_join {n : Nat} (x : BitVec n) (lo a hi b : Nat) (h : hi = lo + a) :
    x.extractLsb' hi b ++ x.extractLsb' lo a = (x.extractLsb' lo (b + a)) := by
  subst h
  ext i hi
  simp only [BitVec.getElem_append, BitVec.getElem_extractLsb']
  split
  · rfl
  · congr 1; omega

theorem opAt_pack (op : BitVec 8) (f : Fields) : opAt (packWord op f) = op :=
  (extract_append_low _ _ 8 rfl).trans rfl

theorem pack_sub (op : BitVec 8) (f : Fields) : (packWord op f).extractLsb' 8 4 = f.sub :=
  (extract_append_high _ _ 8 4 (by decide)).trans <| (extract_append_low _ _ 4 rfl).trans rfl

theorem pack_gsel (op : BitVec 8) (f : Fields) : (packWord op f).extractLsb' 12 5 = f.gsel :=
  (extract_append_high _ _ 12 5 (by decide)).trans <| (extract_append_high _ _ 4 5 (by decide)).trans <|
  (extract_append_low _ _ 5 rfl).trans rfl

theorem pack_gneg (op : BitVec 8) (f : Fields) : (packWord op f).getLsbD 17 = f.gneg :=
  (getLsbD_append_high _ _ 17 (by decide)).trans <| (getLsbD_append_high _ _ 9 (by decide)).trans <|
  (getLsbD_append_high _ _ 5 (by decide)).trans <| getLsbD_append_bool _ _

theorem pack_hold (op : BitVec 8) (f : Fields) : (packWord op f).extractLsb' 18 2 = f.hold :=
  (extract_append_high _ _ 18 2 (by decide)).trans <| (extract_append_high _ _ 10 2 (by decide)).trans <|
  (extract_append_high _ _ 6 2 (by decide)).trans <| (extract_append_high _ _ 1 2 (by decide)).trans <|
  (extract_append_low _ _ 2 rfl).trans rfl

theorem pack_dst (op : BitVec 8) (f : Fields) : (packWord op f).extractLsb' 20 8 = f.dst :=
  (extract_append_high _ _ 20 8 (by decide)).trans <| (extract_append_high _ _ 12 8 (by decide)).trans <|
  (extract_append_high _ _ 8 8 (by decide)).trans <| (extract_append_high _ _ 3 8 (by decide)).trans <|
  (extract_append_high _ _ 2 8 (by decide)).trans <| (extract_append_low _ _ 8 rfl).trans rfl

theorem pack_sa (op : BitVec 8) (f : Fields) : (packWord op f).extractLsb' 28 8 = f.sa :=
  (extract_append_high _ _ 28 8 (by decide)).trans <| (extract_append_high _ _ 20 8 (by decide)).trans <|
  (extract_append_high _ _ 16 8 (by decide)).trans <| (extract_append_high _ _ 11 8 (by decide)).trans <|
  (extract_append_high _ _ 10 8 (by decide)).trans <| (extract_append_high _ _ 8 8 (by decide)).trans <|
  (extract_append_low _ _ 8 rfl).trans rfl

theorem pack_sb (op : BitVec 8) (f : Fields) : (packWord op f).extractLsb' 36 8 = f.sb :=
  (extract_append_high _ _ 36 8 (by decide)).trans <| (extract_append_high _ _ 28 8 (by decide)).trans <|
  (extract_append_high _ _ 24 8 (by decide)).trans <| (extract_append_high _ _ 19 8 (by decide)).trans <|
  (extract_append_high _ _ 18 8 (by decide)).trans <| (extract_append_high _ _ 16 8 (by decide)).trans <|
  (extract_append_high _ _ 8 8 (by decide)).trans <| (extract_append_low _ _ 8 rfl).trans rfl

theorem pack_sc (op : BitVec 8) (f : Fields) : (packWord op f).extractLsb' 44 8 = f.sc :=
  (extract_append_high _ _ 44 8 (by decide)).trans <| (extract_append_high _ _ 36 8 (by decide)).trans <|
  (extract_append_high _ _ 32 8 (by decide)).trans <| (extract_append_high _ _ 27 8 (by decide)).trans <|
  (extract_append_high _ _ 26 8 (by decide)).trans <| (extract_append_high _ _ 24 8 (by decide)).trans <|
  (extract_append_high _ _ 16 8 (by decide)).trans <| (extract_append_high _ _ 8 8 (by decide)).trans <|
  (extract_append_low _ _ 8 rfl).trans rfl

theorem pack_ty (op : BitVec 8) (f : Fields) : (packWord op f).extractLsb' 52 5 = f.ty :=
  (extract_append_high _ _ 52 5 (by decide)).trans <| (extract_append_high _ _ 44 5 (by decide)).trans <|
  (extract_append_high _ _ 40 5 (by decide)).trans <| (extract_append_high _ _ 35 5 (by decide)).trans <|
  (extract_append_high _ _ 34 5 (by decide)).trans <| (extract_append_high _ _ 32 5 (by decide)).trans <|
  (extract_append_high _ _ 24 5 (by decide)).trans <| (extract_append_high _ _ 16 5 (by decide)).trans <|
  (extract_append_high _ _ 8 5 (by decide)).trans <| (extract_append_low _ _ 5 rfl).trans rfl

theorem pack_rm (op : BitVec 8) (f : Fields) : (packWord op f).extractLsb' 57 3 = f.rm :=
  (extract_append_high _ _ 57 3 (by decide)).trans <| (extract_append_high _ _ 49 3 (by decide)).trans <|
  (extract_append_high _ _ 45 3 (by decide)).trans <| (extract_append_high _ _ 40 3 (by decide)).trans <|
  (extract_append_high _ _ 39 3 (by decide)).trans <| (extract_append_high _ _ 37 3 (by decide)).trans <|
  (extract_append_high _ _ 29 3 (by decide)).trans <| (extract_append_high _ _ 21 3 (by decide)).trans <|
  (extract_append_high _ _ 13 3 (by decide)).trans <| (extract_append_high _ _ 5 3 (by decide)).trans <|
  (extract_append_low _ _ 3 rfl).trans rfl

theorem pack_sat (op : BitVec 8) (f : Fields) : (packWord op f).getLsbD 60 = f.sat :=
  (getLsbD_append_high _ _ 60 (by decide)).trans <| (getLsbD_append_high _ _ 52 (by decide)).trans <|
  (getLsbD_append_high _ _ 48 (by decide)).trans <| (getLsbD_append_high _ _ 43 (by decide)).trans <|
  (getLsbD_append_high _ _ 42 (by decide)).trans <| (getLsbD_append_high _ _ 40 (by decide)).trans <|
  (getLsbD_append_high _ _ 32 (by decide)).trans <| (getLsbD_append_high _ _ 24 (by decide)).trans <|
  (getLsbD_append_high _ _ 16 (by decide)).trans <| (getLsbD_append_high _ _ 8 (by decide)).trans <|
  (getLsbD_append_high _ _ 3 (by decide)).trans <| getLsbD_append_bool _ _

theorem pack_immf (op : BitVec 8) (f : Fields) : (packWord op f).getLsbD 61 = f.immf :=
  (getLsbD_append_high _ _ 61 (by decide)).trans <| (getLsbD_append_high _ _ 53 (by decide)).trans <|
  (getLsbD_append_high _ _ 49 (by decide)).trans <| (getLsbD_append_high _ _ 44 (by decide)).trans <|
  (getLsbD_append_high _ _ 43 (by decide)).trans <| (getLsbD_append_high _ _ 41 (by decide)).trans <|
  (getLsbD_append_high _ _ 33 (by decide)).trans <| (getLsbD_append_high _ _ 25 (by decide)).trans <|
  (getLsbD_append_high _ _ 17 (by decide)).trans <| (getLsbD_append_high _ _ 9 (by decide)).trans <|
  (getLsbD_append_high _ _ 4 (by decide)).trans <| (getLsbD_append_high _ _ 1 (by decide)).trans <|
  getLsbD_append_bool _ _

theorem pack_scls (op : BitVec 8) (f : Fields) : (packWord op f).extractLsb' 62 2 = f.scls :=
  (extract_append_high _ _ 62 2 (by decide)).trans <| (extract_append_high _ _ 54 2 (by decide)).trans <|
  (extract_append_high _ _ 50 2 (by decide)).trans <| (extract_append_high _ _ 45 2 (by decide)).trans <|
  (extract_append_high _ _ 44 2 (by decide)).trans <| (extract_append_high _ _ 42 2 (by decide)).trans <|
  (extract_append_high _ _ 34 2 (by decide)).trans <| (extract_append_high _ _ 26 2 (by decide)).trans <|
  (extract_append_high _ _ 18 2 (by decide)).trans <| (extract_append_high _ _ 10 2 (by decide)).trans <|
  (extract_append_high _ _ 5 2 (by decide)).trans <| (extract_append_high _ _ 2 2 (by decide)).trans <|
  (extract_append_high _ _ 1 2 (by decide)).trans <| (extract_append_low _ _ 2 rfl).trans rfl

theorem pack_hi (op : BitVec 8) (f : Fields) : (packWord op f).extractLsb' 64 32 = f.hi :=
  (extract_append_high _ _ 64 32 (by decide)).trans <| (extract_append_high _ _ 56 32 (by decide)).trans <|
  (extract_append_high _ _ 52 32 (by decide)).trans <| (extract_append_high _ _ 47 32 (by decide)).trans <|
  (extract_append_high _ _ 46 32 (by decide)).trans <| (extract_append_high _ _ 44 32 (by decide)).trans <|
  (extract_append_high _ _ 36 32 (by decide)).trans <| (extract_append_high _ _ 28 32 (by decide)).trans <|
  (extract_append_high _ _ 20 32 (by decide)).trans <| (extract_append_high _ _ 12 32 (by decide)).trans <|
  (extract_append_high _ _ 7 32 (by decide)).trans <| (extract_append_high _ _ 4 32 (by decide)).trans <|
  (extract_append_high _ _ 3 32 (by decide)).trans <| (extract_append_high _ _ 2 32 (by decide)).trans <|
  BitVec.extractLsb'_eq_self

/-- Every field of a packed word reads back. -/
theorem fieldsAt_pack (op : BitVec 8) (f : Fields) : fieldsAt (packWord op f) = f := by
  obtain ⟨sub, gsel, gneg, hold, dst, sa, sb, sc, ty, rm, sat, immf, scls, hi⟩ := f
  simp only [fieldsAt, pack_sub, pack_gsel, pack_gneg, pack_hold, pack_dst, pack_sa, pack_sb, pack_sc, pack_ty, pack_rm,
    pack_sat, pack_immf, pack_scls, pack_hi]

/-- A word is packed from its own opcode and fields: no bit of it is dropped. -/
theorem pack_fieldsAt (w : BitVec 96) : packWord (opAt w) (fieldsAt w) = w := by
  simp only [packWord, opAt, fieldsAt, ofBool_getLsbD]
  rw [extract_join w 62 2 64 32 rfl]
  rw [extract_join w 61 1 62 34 rfl]
  rw [extract_join w 60 1 61 35 rfl]
  rw [extract_join w 57 3 60 36 rfl]
  rw [extract_join w 52 5 57 39 rfl]
  rw [extract_join w 44 8 52 44 rfl]
  rw [extract_join w 36 8 44 52 rfl]
  rw [extract_join w 28 8 36 60 rfl]
  rw [extract_join w 20 8 28 68 rfl]
  rw [extract_join w 18 2 20 76 rfl]
  rw [extract_join w 17 1 18 78 rfl]
  rw [extract_join w 12 5 17 79 rfl]
  rw [extract_join w 8 4 12 84 rfl]
  rw [extract_join w 0 8 8 88 rfl]
  exact BitVec.extractLsb'_eq_self

end Sys2Proof
end

