-- ==== Sys2Proof/Laws/PerInstr.lean ====
section
/-!
SUPPORT. For every instruction: a well-formed instruction that has a word is what the decoder reads from that word.
-/
namespace Sys2Proof

open Machine

/-- The decoder gives back a well-formed instruction from its word (R105, R118 to R120). -/
def Laws.RoundTrip.Statement (i : Instr) : Prop :=
  ∀ w, i.WellFormed → encode i = some w → decodeWord w = .ok i

theorem decodeRaw_pack {i : Instr} {op : BitVec 8} {f : Fields} (h : opInstr op.toNat f = some i) :
    decodeRaw (packWord op f) = i := by
  rw [decodeRaw, opAt_pack, fieldsAt_pack, h]; rfl

theorem decodeWord_of_raw {i : Instr} {w : BitVec 96} (hw : i.WellFormed) (h : decodeRaw w = i) : decodeWord w = .ok i := by
  rw [decodeWord, h, show fieldErr limMax i = none from hw]

theorem roundTrip_of {i : Instr} {op : BitVec 8} {f : Fields} (he : encode i = some (packWord op f))
    (ho : i.WellFormed → opInstr op.toNat f = some i) : Laws.RoundTrip.Statement i := by
  intro w hw e
  rw [he] at e
  cases e
  exact decodeWord_of_raw hw (decodeRaw_pack (ho hw))

theorem roundTrip_event {i : Instr} (he : encode i = none) : Laws.RoundTrip.Statement i := by
  intro w _ e
  rw [he] at e
  cases e

/-- The first check of a list without an offence holds. -/
theorem firstBad_need {bit : Nat} {ok : Bool} {l : List (Option Nat)} (h : firstBad (need bit ok :: l) = none) : ok = true := by
  cases ok
  · cases h
  · rfl

theorem firstBad_mem : ∀ {l : List (Option Nat)}, firstBad l = none → ∀ x ∈ l, x = none
  | none :: l, h, x, hx => by
    rcases List.mem_cons.1 hx with rfl | hx
    · rfl
    · exact firstBad_mem (l := l) h x hx

theorem bit_of_num {n : Nat} (x : BitVec n) (h : x.getLsbD 0 = b) : (x.extractLsb' 0 1).toNat = b.toNat := by
  rw [← ofBool_getLsbD, h]; cases b <;> rfl

theorem num_bit (f : Fields) : (yNum f).getLsbD 0 = f.hi.getLsbD 0 := by
  simp [yNum]

set_option maxRecDepth 4000 in
/-- Opcodes that are no instruction (R119). -/
theorem opInstr_none {op : Nat} (f : Fields) (hn : op < 256) (h : isOpcode op = false) : opInstr op f = none := by
  have all : ((List.range 256).all fun n => isOpcode n || (opInstr n f).isNone) = true := Eq.refl true
  have := List.all_eq_true.1 all op (List.mem_range.2 hn)
  simpa [h] using this

theorem Laws.RoundTrip.nop (f : Fields) : Laws.RoundTrip.Statement (.nop f) := roundTrip_of rfl fun _ => rfl
theorem Laws.RoundTrip.sadd (f : Fields) : Laws.RoundTrip.Statement (.sadd f) := roundTrip_of rfl fun _ => rfl
theorem Laws.RoundTrip.ssub (f : Fields) : Laws.RoundTrip.Statement (.ssub f) := roundTrip_of rfl fun _ => rfl
theorem Laws.RoundTrip.smul (f : Fields) : Laws.RoundTrip.Statement (.smul f) := roundTrip_of rfl fun _ => rfl
theorem Laws.RoundTrip.smulh (f : Fields) : Laws.RoundTrip.Statement (.smulh f) := roundTrip_of rfl fun _ => rfl
theorem Laws.RoundTrip.sdiv (f : Fields) : Laws.RoundTrip.Statement (.sdiv f) := roundTrip_of rfl fun _ => rfl
theorem Laws.RoundTrip.srem (f : Fields) : Laws.RoundTrip.Statement (.srem f) := roundTrip_of rfl fun _ => rfl
theorem Laws.RoundTrip.sand (f : Fields) : Laws.RoundTrip.Statement (.sand f) := roundTrip_of rfl fun _ => rfl
theorem Laws.RoundTrip.sor (f : Fields) : Laws.RoundTrip.Statement (.sor f) := roundTrip_of rfl fun _ => rfl
theorem Laws.RoundTrip.sxor (f : Fields) : Laws.RoundTrip.Statement (.sxor f) := roundTrip_of rfl fun _ => rfl
theorem Laws.RoundTrip.sshl (f : Fields) : Laws.RoundTrip.Statement (.sshl f) := roundTrip_of rfl fun _ => rfl
theorem Laws.RoundTrip.sshr (f : Fields) : Laws.RoundTrip.Statement (.sshr f) := roundTrip_of rfl fun _ => rfl
theorem Laws.RoundTrip.ssra (f : Fields) : Laws.RoundTrip.Statement (.ssra f) := roundTrip_of rfl fun _ => rfl
theorem Laws.RoundTrip.smin (f : Fields) : Laws.RoundTrip.Statement (.smin f) := roundTrip_of rfl fun _ => rfl
theorem Laws.RoundTrip.smax (f : Fields) : Laws.RoundTrip.Statement (.smax f) := roundTrip_of rfl fun _ => rfl
theorem Laws.RoundTrip.smov (f : Fields) : Laws.RoundTrip.Statement (.smov f) := roundTrip_of rfl fun _ => rfl
theorem Laws.RoundTrip.ssel (f : Fields) : Laws.RoundTrip.Statement (.ssel f) := roundTrip_of rfl fun _ => rfl
theorem Laws.RoundTrip.scmp (f : Fields) : Laws.RoundTrip.Statement (.scmp f) := roundTrip_of rfl fun _ => rfl
theorem Laws.RoundTrip.slea (f : Fields) : Laws.RoundTrip.Statement (.slea f) := roundTrip_of rfl fun _ => rfl
theorem Laws.RoundTrip.sclz (f : Fields) : Laws.RoundTrip.Statement (.sclz f) := roundTrip_of rfl fun _ => rfl
theorem Laws.RoundTrip.spopc (f : Fields) : Laws.RoundTrip.Statement (.spopc f) := roundTrip_of rfl fun _ => rfl
theorem Laws.RoundTrip.sbfx (f : Fields) : Laws.RoundTrip.Statement (.sbfx f) := roundTrip_of rfl fun _ => rfl
theorem Laws.RoundTrip.sbfi (f : Fields) : Laws.RoundTrip.Statement (.sbfi f) := roundTrip_of rfl fun _ => rfl
theorem Laws.RoundTrip.sread (f : Fields) : Laws.RoundTrip.Statement (.sread f) := roundTrip_of rfl fun _ => rfl
theorem Laws.RoundTrip.swrite (f : Fields) : Laws.RoundTrip.Statement (.swrite f) := roundTrip_of rfl fun _ => rfl
theorem Laws.RoundTrip.blop (f : Fields) : Laws.RoundTrip.Statement (.blop f) := roundTrip_of rfl fun _ => rfl
theorem Laws.RoundTrip.bra (f : Fields) : Laws.RoundTrip.Statement (.bra f) := roundTrip_of rfl fun _ => rfl
theorem Laws.RoundTrip.brx (f : Fields) : Laws.RoundTrip.Statement (.brx f) := roundTrip_of rfl fun _ => rfl
theorem Laws.RoundTrip.call (f : Fields) : Laws.RoundTrip.Statement (.call f) := roundTrip_of rfl fun _ => rfl
theorem Laws.RoundTrip.callx (f : Fields) : Laws.RoundTrip.Statement (.callx f) := roundTrip_of rfl fun _ => rfl
theorem Laws.RoundTrip.ret (f : Fields) : Laws.RoundTrip.Statement (.ret f) := roundTrip_of rfl fun _ => rfl
theorem Laws.RoundTrip.brv (f : Fields) : Laws.RoundTrip.Statement (.brv f) := roundTrip_of rfl fun _ => rfl
theorem Laws.RoundTrip.rcv (f : Fields) : Laws.RoundTrip.Statement (.rcv f) := roundTrip_of rfl fun _ => rfl
theorem Laws.RoundTrip.loop (f : Fields) : Laws.RoundTrip.Statement (.loop f) := roundTrip_of rfl fun _ => rfl
theorem Laws.RoundTrip.lbrk (f : Fields) : Laws.RoundTrip.Statement (.lbrk f) := roundTrip_of rfl fun _ => rfl
theorem Laws.RoundTrip.lsave (f : Fields) : Laws.RoundTrip.Statement (.lsave f) := roundTrip_of rfl fun _ => rfl
theorem Laws.RoundTrip.lrest (f : Fields) : Laws.RoundTrip.Statement (.lrest f) := roundTrip_of rfl fun _ => rfl
theorem Laws.RoundTrip.exit (f : Fields) : Laws.RoundTrip.Statement (.exit f) := roundTrip_of rfl fun _ => rfl
theorem Laws.RoundTrip.yield (f : Fields) : Laws.RoundTrip.Statement (.yield f) := roundTrip_of rfl fun _ => rfl
theorem Laws.RoundTrip.sleep (f : Fields) : Laws.RoundTrip.Statement (.sleep f) := roundTrip_of rfl fun _ => rfl
theorem Laws.RoundTrip.trap (f : Fields) : Laws.RoundTrip.Statement (.trap f) := roundTrip_of rfl fun _ => rfl
theorem Laws.RoundTrip.tretRetry (f : Fields) : Laws.RoundTrip.Statement (.tretRetry f) := roundTrip_of (op := 0x31) rfl fun h => by
  have hb : f.hi.getLsbD 0 = false := by
    have hm := firstBad_mem h (need 64 (!(yNum f).getLsbD 0)) (by simp)
    rw [num_bit] at hm
    revert hm; cases f.hi.getLsbD 0 <;> simp [need]
  show (match (f.hi.extractLsb' 0 1).toNat with | 1 => some (Instr.tretSkip f) | _ => some (Instr.tretRetry f)) = _
  rw [bit_of_num _ hb]; rfl
theorem Laws.RoundTrip.tretSkip (f : Fields) : Laws.RoundTrip.Statement (.tretSkip f) := roundTrip_of (op := 0x31) rfl fun h => by
  have hb : f.hi.getLsbD 0 = true := by
    have hm := firstBad_mem h (need 64 ((yNum f).getLsbD 0)) (by simp)
    rw [num_bit] at hm
    revert hm; cases f.hi.getLsbD 0 <;> simp [need]
  show (match (f.hi.extractLsb' 0 1).toNat with | 1 => some (Instr.tretSkip f) | _ => some (Instr.tretRetry f)) = _
  rw [bit_of_num _ hb]; rfl
theorem Laws.RoundTrip.fence (f : Fields) : Laws.RoundTrip.Statement (.fence f) := roundTrip_of rfl fun _ => rfl
theorem Laws.RoundTrip.fenceq (f : Fields) : Laws.RoundTrip.Statement (.fenceq f) := roundTrip_of rfl fun _ => rfl
theorem Laws.RoundTrip.fencei (f : Fields) : Laws.RoundTrip.Statement (.fencei f) := roundTrip_of rfl fun _ => rfl
theorem Laws.RoundTrip.setpri (f : Fields) : Laws.RoundTrip.Statement (.setpri f) := roundTrip_of rfl fun _ => rfl
theorem Laws.RoundTrip.gensync (f : Fields) : Laws.RoundTrip.Statement (.gensync f) := roundTrip_of rfl fun _ => rfl
theorem Laws.RoundTrip.csrd (f : Fields) : Laws.RoundTrip.Statement (.csrd f) := roundTrip_of rfl fun _ => rfl
theorem Laws.RoundTrip.cswr (f : Fields) : Laws.RoundTrip.Statement (.cswr f) := roundTrip_of rfl fun _ => rfl
theorem Laws.RoundTrip.tlbinv (f : Fields) : Laws.RoundTrip.Statement (.tlbinv f) := roundTrip_of rfl fun _ => rfl
theorem Laws.RoundTrip.probe (f : Fields) : Laws.RoundTrip.Statement (.probe f) := roundTrip_of rfl fun _ => rfl
theorem Laws.RoundTrip.vadd (f : Fields) : Laws.RoundTrip.Statement (.vadd f) := roundTrip_of rfl fun _ => rfl
theorem Laws.RoundTrip.vsub (f : Fields) : Laws.RoundTrip.Statement (.vsub f) := roundTrip_of rfl fun _ => rfl
theorem Laws.RoundTrip.vmul (f : Fields) : Laws.RoundTrip.Statement (.vmul f) := roundTrip_of rfl fun _ => rfl
theorem Laws.RoundTrip.vmulh (f : Fields) : Laws.RoundTrip.Statement (.vmulh f) := roundTrip_of rfl fun _ => rfl
theorem Laws.RoundTrip.vmad (f : Fields) : Laws.RoundTrip.Statement (.vmad f) := roundTrip_of rfl fun _ => rfl
theorem Laws.RoundTrip.vand (f : Fields) : Laws.RoundTrip.Statement (.vand f) := roundTrip_of rfl fun _ => rfl
theorem Laws.RoundTrip.vor (f : Fields) : Laws.RoundTrip.Statement (.vor f) := roundTrip_of rfl fun _ => rfl
theorem Laws.RoundTrip.vxor (f : Fields) : Laws.RoundTrip.Statement (.vxor f) := roundTrip_of rfl fun _ => rfl
theorem Laws.RoundTrip.vandn (f : Fields) : Laws.RoundTrip.Statement (.vandn f) := roundTrip_of rfl fun _ => rfl
theorem Laws.RoundTrip.vshl (f : Fields) : Laws.RoundTrip.Statement (.vshl f) := roundTrip_of rfl fun _ => rfl
theorem Laws.RoundTrip.vshr (f : Fields) : Laws.RoundTrip.Statement (.vshr f) := roundTrip_of rfl fun _ => rfl
theorem Laws.RoundTrip.vsra (f : Fields) : Laws.RoundTrip.Statement (.vsra f) := roundTrip_of rfl fun _ => rfl
theorem Laws.RoundTrip.vmin (f : Fields) : Laws.RoundTrip.Statement (.vmin f) := roundTrip_of rfl fun _ => rfl
theorem Laws.RoundTrip.vmax (f : Fields) : Laws.RoundTrip.Statement (.vmax f) := roundTrip_of rfl fun _ => rfl
theorem Laws.RoundTrip.vabs (f : Fields) : Laws.RoundTrip.Statement (.vabs f) := roundTrip_of rfl fun _ => rfl
theorem Laws.RoundTrip.vneg (f : Fields) : Laws.RoundTrip.Statement (.vneg f) := roundTrip_of rfl fun _ => rfl
theorem Laws.RoundTrip.vcmp (f : Fields) : Laws.RoundTrip.Statement (.vcmp f) := roundTrip_of rfl fun _ => rfl
theorem Laws.RoundTrip.vsel (f : Fields) : Laws.RoundTrip.Statement (.vsel f) := roundTrip_of rfl fun _ => rfl
theorem Laws.RoundTrip.vmov (f : Fields) : Laws.RoundTrip.Statement (.vmov f) := roundTrip_of rfl fun _ => rfl
theorem Laws.RoundTrip.vpopc (f : Fields) : Laws.RoundTrip.Statement (.vpopc f) := roundTrip_of rfl fun _ => rfl
theorem Laws.RoundTrip.vclz (f : Fields) : Laws.RoundTrip.Statement (.vclz f) := roundTrip_of rfl fun _ => rfl
theorem Laws.RoundTrip.vbfx (f : Fields) : Laws.RoundTrip.Statement (.vbfx f) := roundTrip_of rfl fun _ => rfl
theorem Laws.RoundTrip.vbfi (f : Fields) : Laws.RoundTrip.Statement (.vbfi f) := roundTrip_of rfl fun _ => rfl
theorem Laws.RoundTrip.vadds (f : Fields) : Laws.RoundTrip.Statement (.vadds f) := roundTrip_of rfl fun _ => rfl
theorem Laws.RoundTrip.vdot4 (f : Fields) : Laws.RoundTrip.Statement (.vdot4 f) := roundTrip_of rfl fun _ => rfl
theorem Laws.RoundTrip.viota (f : Fields) : Laws.RoundTrip.Statement (.viota f) := roundTrip_of rfl fun _ => rfl
theorem Laws.RoundTrip.vres (f : Fields) : Laws.RoundTrip.Statement (.vres f) := roundTrip_of rfl fun _ => rfl
theorem Laws.RoundTrip.plop (f : Fields) : Laws.RoundTrip.Statement (.plop f) := roundTrip_of rfl fun _ => rfl
theorem Laws.RoundTrip.pmov (f : Fields) : Laws.RoundTrip.Statement (.pmov f) := roundTrip_of rfl fun _ => rfl
theorem Laws.RoundTrip.vcvti (f : Fields) : Laws.RoundTrip.Statement (.vcvti f) := roundTrip_of rfl fun _ => rfl
theorem Laws.RoundTrip.vdymul (f : Fields) : Laws.RoundTrip.Statement (.vdymul f) := roundTrip_of rfl fun _ => rfl
theorem Laws.RoundTrip.vfadd (f : Fields) : Laws.RoundTrip.Statement (.vfadd f) := roundTrip_of rfl fun _ => rfl
theorem Laws.RoundTrip.vfsub (f : Fields) : Laws.RoundTrip.Statement (.vfsub f) := roundTrip_of rfl fun _ => rfl
theorem Laws.RoundTrip.vfmul (f : Fields) : Laws.RoundTrip.Statement (.vfmul f) := roundTrip_of rfl fun _ => rfl
theorem Laws.RoundTrip.vfma (f : Fields) : Laws.RoundTrip.Statement (.vfma f) := roundTrip_of rfl fun _ => rfl
theorem Laws.RoundTrip.vfmin (f : Fields) : Laws.RoundTrip.Statement (.vfmin f) := roundTrip_of rfl fun _ => rfl
theorem Laws.RoundTrip.vfmax (f : Fields) : Laws.RoundTrip.Statement (.vfmax f) := roundTrip_of rfl fun _ => rfl
theorem Laws.RoundTrip.vfcmp (f : Fields) : Laws.RoundTrip.Statement (.vfcmp f) := roundTrip_of rfl fun _ => rfl
theorem Laws.RoundTrip.vfsgn (f : Fields) : Laws.RoundTrip.Statement (.vfsgn f) := roundTrip_of rfl fun _ => rfl
theorem Laws.RoundTrip.vfrcp (f : Fields) : Laws.RoundTrip.Statement (.vfrcp f) := roundTrip_of rfl fun _ => rfl
theorem Laws.RoundTrip.vfrsq (f : Fields) : Laws.RoundTrip.Statement (.vfrsq f) := roundTrip_of rfl fun _ => rfl
theorem Laws.RoundTrip.vfex2 (f : Fields) : Laws.RoundTrip.Statement (.vfex2 f) := roundTrip_of rfl fun _ => rfl
theorem Laws.RoundTrip.vflg2 (f : Fields) : Laws.RoundTrip.Statement (.vflg2 f) := roundTrip_of rfl fun _ => rfl
theorem Laws.RoundTrip.vfcls (f : Fields) : Laws.RoundTrip.Statement (.vfcls f) := roundTrip_of rfl fun _ => rfl
theorem Laws.RoundTrip.vfrnd (f : Fields) : Laws.RoundTrip.Statement (.vfrnd f) := roundTrip_of rfl fun _ => rfl
theorem Laws.RoundTrip.vcvt (f : Fields) : Laws.RoundTrip.Statement (.vcvt f) := roundTrip_of rfl fun _ => rfl
theorem Laws.RoundTrip.vseed (f : Fields) : Laws.RoundTrip.Statement (.vseed f) := roundTrip_of rfl fun _ => rfl
theorem Laws.RoundTrip.vfdot2 (f : Fields) : Laws.RoundTrip.Statement (.vfdot2 f) := roundTrip_of rfl fun _ => rfl
theorem Laws.RoundTrip.vpack (f : Fields) : Laws.RoundTrip.Statement (.vpack f) := roundTrip_of rfl fun _ => rfl
theorem Laws.RoundTrip.vunpk (f : Fields) : Laws.RoundTrip.Statement (.vunpk f) := roundTrip_of rfl fun _ => rfl
theorem Laws.RoundTrip.vqscl (f : Fields) : Laws.RoundTrip.Statement (.vqscl f) := roundTrip_of rfl fun _ => rfl
theorem Laws.RoundTrip.vshfl (f : Fields) : Laws.RoundTrip.Statement (.vshfl f) := roundTrip_of rfl fun _ => rfl
theorem Laws.RoundTrip.vlrot (f : Fields) : Laws.RoundTrip.Statement (.vlrot f) := roundTrip_of rfl fun _ => rfl
theorem Laws.RoundTrip.vreadl (f : Fields) : Laws.RoundTrip.Statement (.vreadl f) := roundTrip_of rfl fun _ => rfl
theorem Laws.RoundTrip.vvote (f : Fields) : Laws.RoundTrip.Statement (.vvote f) := roundTrip_of rfl fun _ => rfl
theorem Laws.RoundTrip.vscan (f : Fields) : Laws.RoundTrip.Statement (.vscan f) := roundTrip_of rfl fun _ => rfl
theorem Laws.RoundTrip.vred (f : Fields) : Laws.RoundTrip.Statement (.vred f) := roundTrip_of rfl fun _ => rfl
theorem Laws.RoundTrip.regroup (f : Fields) : Laws.RoundTrip.Statement (.regroup f) := roundTrip_of rfl fun _ => rfl
theorem Laws.RoundTrip.vcprs (f : Fields) : Laws.RoundTrip.Statement (.vcprs f) := roundTrip_of rfl fun _ => rfl
theorem Laws.RoundTrip.setexm (f : Fields) : Laws.RoundTrip.Statement (.setexm f) := roundTrip_of rfl fun _ => rfl
theorem Laws.RoundTrip.getexm (f : Fields) : Laws.RoundTrip.Statement (.getexm f) := roundTrip_of rfl fun _ => rfl
theorem Laws.RoundTrip.pathinfo (f : Fields) : Laws.RoundTrip.Statement (.pathinfo f) := roundTrip_of rfl fun _ => rfl
theorem Laws.RoundTrip.vld (f : Fields) : Laws.RoundTrip.Statement (.vld f) := roundTrip_of rfl fun _ => rfl
theorem Laws.RoundTrip.vst (f : Fields) : Laws.RoundTrip.Statement (.vst f) := roundTrip_of rfl fun _ => rfl
theorem Laws.RoundTrip.vlds (f : Fields) : Laws.RoundTrip.Statement (.vlds f) := roundTrip_of rfl fun _ => rfl
theorem Laws.RoundTrip.vsts (f : Fields) : Laws.RoundTrip.Statement (.vsts f) := roundTrip_of rfl fun _ => rfl
theorem Laws.RoundTrip.sld (f : Fields) : Laws.RoundTrip.Statement (.sld f) := roundTrip_of rfl fun _ => rfl
theorem Laws.RoundTrip.sst (f : Fields) : Laws.RoundTrip.Statement (.sst f) := roundTrip_of rfl fun _ => rfl
theorem Laws.RoundTrip.vatom (f : Fields) : Laws.RoundTrip.Statement (.vatom f) := roundTrip_of rfl fun _ => rfl
theorem Laws.RoundTrip.satom (f : Fields) : Laws.RoundTrip.Statement (.satom f) := roundTrip_of rfl fun _ => rfl
theorem Laws.RoundTrip.vprf (f : Fields) : Laws.RoundTrip.Statement (.vprf f) := roundTrip_of rfl fun _ => rfl
theorem Laws.RoundTrip.ldq (f : Fields) : Laws.RoundTrip.Statement (.ldq f) := roundTrip_of rfl fun _ => rfl
theorem Laws.RoundTrip.stq (f : Fields) : Laws.RoundTrip.Statement (.stq f) := roundTrip_of rfl fun _ => rfl
theorem Laws.RoundTrip.setq (f : Fields) : Laws.RoundTrip.Statement (.setq f) := roundTrip_of rfl fun _ => rfl
theorem Laws.RoundTrip.getq (f : Fields) : Laws.RoundTrip.Statement (.getq f) := roundTrip_of rfl fun _ => rfl
theorem Laws.RoundTrip.cmaintWb (f : Fields) : Laws.RoundTrip.Statement (.cmaintWb f) := roundTrip_of (op := 0xAD) rfl fun h => by
  have hs : f.sub.toNat = 0 := by have := firstBad_need h; grind
  show (match f.sub.toNat with | 1 => some (Instr.cmaintInv f) | 2 => some (Instr.cmaintWbinv f) | 3 => some (Instr.cmaintZero f) | _ => some (Instr.cmaintWb f)) = _
  rw [hs]; rfl
theorem Laws.RoundTrip.cmaintInv (f : Fields) : Laws.RoundTrip.Statement (.cmaintInv f) := roundTrip_of (op := 0xAD) rfl fun h => by
  have hs : f.sub.toNat = 1 := by have := firstBad_need h; grind
  show (match f.sub.toNat with | 1 => some (Instr.cmaintInv f) | 2 => some (Instr.cmaintWbinv f) | 3 => some (Instr.cmaintZero f) | _ => some (Instr.cmaintWb f)) = _
  rw [hs]; rfl
theorem Laws.RoundTrip.cmaintWbinv (f : Fields) : Laws.RoundTrip.Statement (.cmaintWbinv f) := roundTrip_of (op := 0xAD) rfl fun h => by
  have hs : f.sub.toNat = 2 := by have := firstBad_need h; grind
  show (match f.sub.toNat with | 1 => some (Instr.cmaintInv f) | 2 => some (Instr.cmaintWbinv f) | 3 => some (Instr.cmaintZero f) | _ => some (Instr.cmaintWb f)) = _
  rw [hs]; rfl
theorem Laws.RoundTrip.cmaintZero (f : Fields) : Laws.RoundTrip.Statement (.cmaintZero f) := roundTrip_of (op := 0xAD) rfl fun h => by
  have hs : f.sub.toNat = 3 := by have := firstBad_need h; grind
  show (match f.sub.toNat with | 1 => some (Instr.cmaintInv f) | 2 => some (Instr.cmaintWbinv f) | 3 => some (Instr.cmaintZero f) | _ => some (Instr.cmaintWb f)) = _
  rw [hs]; rfl
theorem Laws.RoundTrip.vldf (f : Fields) : Laws.RoundTrip.Statement (.vldf f) := roundTrip_of rfl fun _ => rfl
theorem Laws.RoundTrip.xcopy (f : Fields) : Laws.RoundTrip.Statement (.xcopy f) := roundTrip_of rfl fun _ => rfl
theorem Laws.RoundTrip.xgath (f : Fields) : Laws.RoundTrip.Statement (.xgath f) := roundTrip_of rfl fun _ => rfl
theorem Laws.RoundTrip.xscat (f : Fields) : Laws.RoundTrip.Statement (.xscat f) := roundTrip_of rfl fun _ => rfl
theorem Laws.RoundTrip.xform (f : Fields) : Laws.RoundTrip.Statement (.xform f) := roundTrip_of rfl fun _ => rfl
theorem Laws.RoundTrip.xfill (f : Fields) : Laws.RoundTrip.Statement (.xfill f) := roundTrip_of rfl fun _ => rfl
theorem Laws.RoundTrip.xcoll (f : Fields) : Laws.RoundTrip.Statement (.xcoll f) := roundTrip_of rfl fun _ => rfl
theorem Laws.RoundTrip.chbind (f : Fields) : Laws.RoundTrip.Statement (.chbind f) := roundTrip_of rfl fun _ => rfl
theorem Laws.RoundTrip.chput (f : Fields) : Laws.RoundTrip.Statement (.chput f) := roundTrip_of rfl fun _ => rfl
theorem Laws.RoundTrip.chtake (f : Fields) : Laws.RoundTrip.Statement (.chtake f) := roundTrip_of rfl fun _ => rfl
theorem Laws.RoundTrip.chwaitData (f : Fields) : Laws.RoundTrip.Statement (.chwaitData f) := roundTrip_of (op := 0xC9) rfl fun h => by
  have hs : f.sub.toNat = 0 := by have := firstBad_need h; grind
  show (match f.sub.toNat with | 1 => some (Instr.chwaitRoom f) | _ => some (Instr.chwaitData f)) = _
  rw [hs]; rfl
theorem Laws.RoundTrip.chwaitRoom (f : Fields) : Laws.RoundTrip.Statement (.chwaitRoom f) := roundTrip_of (op := 0xC9) rfl fun h => by
  have hs : f.sub.toNat = 1 := by have := firstBad_need h; grind
  show (match f.sub.toNat with | 1 => some (Instr.chwaitRoom f) | _ => some (Instr.chwaitData f)) = _
  rw [hs]; rfl
theorem Laws.RoundTrip.xstat (f : Fields) : Laws.RoundTrip.Statement (.xstat f) := roundTrip_of rfl fun _ => rfl
theorem Laws.RoundTrip.mma (f : Fields) : Laws.RoundTrip.Statement (.mma f) := roundTrip_of rfl fun _ => rfl
theorem Laws.RoundTrip.mzero (f : Fields) : Laws.RoundTrip.Statement (.mzero f) := roundTrip_of rfl fun _ => rfl
theorem Laws.RoundTrip.mdrain (f : Fields) : Laws.RoundTrip.Statement (.mdrain f) := roundTrip_of rfl fun _ => rfl
theorem Laws.RoundTrip.mload (f : Fields) : Laws.RoundTrip.Statement (.mload f) := roundTrip_of rfl fun _ => rfl
theorem Laws.RoundTrip.mtoken (f : Fields) : Laws.RoundTrip.Statement (.mtoken f) := roundTrip_of rfl fun _ => rfl
theorem Laws.RoundTrip.mstatTile (f : Fields) : Laws.RoundTrip.Statement (.mstatTile f) := roundTrip_of (op := 0xD5) rfl fun h => by
  have hs : f.sub.toNat = 0 := by have := firstBad_need h; grind
  show (match f.sub.toNat with | 1 => some (Instr.mstatCnt f) | _ => some (Instr.mstatTile f)) = _
  rw [hs]; rfl
theorem Laws.RoundTrip.mstatCnt (f : Fields) : Laws.RoundTrip.Statement (.mstatCnt f) := roundTrip_of (op := 0xD5) rfl fun h => by
  have hs : f.sub.toNat = 1 := by have := firstBad_need h; grind
  show (match f.sub.toNat with | 1 => some (Instr.mstatCnt f) | _ => some (Instr.mstatTile f)) = _
  rw [hs]; rfl
theorem Laws.RoundTrip.binit (f : Fields) : Laws.RoundTrip.Statement (.binit f) := roundTrip_of rfl fun _ => rfl
theorem Laws.RoundTrip.barrive (f : Fields) : Laws.RoundTrip.Statement (.barrive f) := roundTrip_of rfl fun _ => rfl
theorem Laws.RoundTrip.bwait (f : Fields) : Laws.RoundTrip.Statement (.bwait f) := roundTrip_of rfl fun _ => rfl
theorem Laws.RoundTrip.btest (f : Fields) : Laws.RoundTrip.Statement (.btest f) := roundTrip_of rfl fun _ => rfl
theorem Laws.RoundTrip.cbarSync (f : Fields) : Laws.RoundTrip.Statement (.cbarSync f) := roundTrip_of (op := 0xE4) rfl fun h => by
  have hs : f.sub.toNat = 0 := by have := firstBad_need h; grind
  show (match f.sub.toNat with | 1 => some (Instr.cbarArrive f) | 2 => some (Instr.cbarRec f) | _ => some (Instr.cbarSync f)) = _
  rw [hs]; rfl
theorem Laws.RoundTrip.cbarArrive (f : Fields) : Laws.RoundTrip.Statement (.cbarArrive f) := roundTrip_of (op := 0xE4) rfl fun h => by
  have hs : f.sub.toNat = 1 := by have := firstBad_need h; grind
  show (match f.sub.toNat with | 1 => some (Instr.cbarArrive f) | 2 => some (Instr.cbarRec f) | _ => some (Instr.cbarSync f)) = _
  rw [hs]; rfl
theorem Laws.RoundTrip.cbarRec (f : Fields) : Laws.RoundTrip.Statement (.cbarRec f) := roundTrip_of (op := 0xE4) rfl fun h => by
  have hs : f.sub.toNat = 2 := by have := firstBad_need h; grind
  show (match f.sub.toNat with | 1 => some (Instr.cbarArrive f) | 2 => some (Instr.cbarRec f) | _ => some (Instr.cbarSync f)) = _
  rw [hs]; rfl
theorem Laws.RoundTrip.contend (f : Fields) : Laws.RoundTrip.Statement (.contend f) := roundTrip_of rfl fun _ => rfl
theorem Laws.RoundTrip.cresultWait (f : Fields) : Laws.RoundTrip.Statement (.cresultWait f) := roundTrip_of (op := 0xE6) rfl fun h => by
  have hs : f.sub.toNat = 0 := by have := firstBad_need h; grind
  show (match f.sub.toNat with | 1 => some (Instr.cresultTest f) | _ => some (Instr.cresultWait f)) = _
  rw [hs]; rfl
theorem Laws.RoundTrip.cresultTest (f : Fields) : Laws.RoundTrip.Statement (.cresultTest f) := roundTrip_of (op := 0xE6) rfl fun h => by
  have hs : f.sub.toNat = 1 := by have := firstBad_need h; grind
  show (match f.sub.toNat with | 1 => some (Instr.cresultTest f) | _ => some (Instr.cresultWait f)) = _
  rw [hs]; rfl
theorem Laws.RoundTrip.cwithdraw (f : Fields) : Laws.RoundTrip.Statement (.cwithdraw f) := roundTrip_of rfl fun _ => rfl
theorem Laws.RoundTrip.mark (f : Fields) : Laws.RoundTrip.Statement (.mark f) := roundTrip_of rfl fun _ => rfl
theorem Laws.RoundTrip.brkpt (f : Fields) : Laws.RoundTrip.Statement (.brkpt f) := roundTrip_of rfl fun _ => rfl
theorem Laws.RoundTrip.rplbeginRec (f : Fields) : Laws.RoundTrip.Statement (.rplbeginRec f) := roundTrip_of (op := 0xEA) rfl fun h => by
  have hs : f.sub.toNat = 0 := by have := firstBad_need h; grind
  show (match f.sub.toNat with | 1 => some (Instr.rplbeginCmp f) | _ => some (Instr.rplbeginRec f)) = _
  rw [hs]; rfl
theorem Laws.RoundTrip.rplbeginCmp (f : Fields) : Laws.RoundTrip.Statement (.rplbeginCmp f) := roundTrip_of (op := 0xEA) rfl fun h => by
  have hs : f.sub.toNat = 1 := by have := firstBad_need h; grind
  show (match f.sub.toNat with | 1 => some (Instr.rplbeginCmp f) | _ => some (Instr.rplbeginRec f)) = _
  rw [hs]; rfl
theorem Laws.RoundTrip.rplend (f : Fields) : Laws.RoundTrip.Statement (.rplend f) := roundTrip_of rfl fun _ => rfl
theorem Laws.RoundTrip.snap (f : Fields) : Laws.RoundTrip.Statement (.snap f) := roundTrip_of rfl fun _ => rfl
theorem Laws.RoundTrip.illegalOp (w : BitVec 96) : Laws.RoundTrip.Statement (.illegalOp w) := by
  intro v hw e
  cases e
  refine decodeWord_of_raw hw ?_
  have h : isOpcode (opAt w).toNat = false := by
    have : need 0 (!isOpcode (w.extractLsb' 0 8).toNat) = none := hw
    simp only [need] at this
    split at this
    · next h => simpa [opAt] using h
    · cases this
  rw [decodeRaw, opInstr_none _ (opAt w).isLt h]; rfl
theorem Laws.RoundTrip.regroupExchange (wk : Nat) : Laws.RoundTrip.Statement (.regroupExchange wk) := roundTrip_event rfl
theorem Laws.RoundTrip.chwaitWake (wk eid : Nat) : Laws.RoundTrip.Statement (.chwaitWake wk eid) := roundTrip_event rfl
theorem Laws.RoundTrip.bwaitWake (wk eid : Nat) : Laws.RoundTrip.Statement (.bwaitWake wk eid) := roundTrip_event rfl
theorem Laws.RoundTrip.promiseMiss (wk eid : Nat) : Laws.RoundTrip.Statement (.promiseMiss wk eid) := roundTrip_event rfl
theorem Laws.RoundTrip.cbarWake (wk eid : Nat) : Laws.RoundTrip.Statement (.cbarWake wk eid) := roundTrip_event rfl
theorem Laws.RoundTrip.cresultWake (wk eid : Nat) : Laws.RoundTrip.Statement (.cresultWake wk eid) := roundTrip_event rfl
theorem Laws.RoundTrip.ibpHit (wk eid i : Nat) : Laws.RoundTrip.Statement (.ibpHit wk eid i) := roundTrip_event rfl
theorem Laws.RoundTrip.rplbeginGathered (crew : Nat) : Laws.RoundTrip.Statement (.rplbeginGathered crew) := roundTrip_event rfl
theorem Laws.RoundTrip.rplendGathered (crew : Nat) : Laws.RoundTrip.Statement (.rplendGathered crew) := roundTrip_event rfl
theorem Laws.RoundTrip.sleepDeadline (wk eid : Nat) : Laws.RoundTrip.Statement (.sleepDeadline wk eid) := roundTrip_event rfl
theorem Laws.RoundTrip.mtokenReady (wk eid : Nat) : Laws.RoundTrip.Statement (.mtokenReady wk eid) := roundTrip_event rfl
theorem Laws.RoundTrip.quadIssueCycle (quad : Nat) : Laws.RoundTrip.Statement (.quadIssueCycle quad) := roundTrip_event rfl
theorem Laws.RoundTrip.pathPromote (wk eid : Nat) : Laws.RoundTrip.Statement (.pathPromote wk eid) := roundTrip_event rfl
theorem Laws.RoundTrip.lineFetchComplete (wk eid : Nat) : Laws.RoundTrip.Statement (.lineFetchComplete wk eid) := roundTrip_event rfl
theorem Laws.RoundTrip.pageRequestDeferred (fn : Nat) : Laws.RoundTrip.Statement (.pageRequestDeferred fn) := roundTrip_event rfl
theorem Laws.RoundTrip.prgResponseSuccess (fn idx : Nat) : Laws.RoundTrip.Statement (.prgResponseSuccess fn idx) := roundTrip_event rfl
theorem Laws.RoundTrip.prgResponseInvalid (fn idx : Nat) : Laws.RoundTrip.Statement (.prgResponseInvalid fn idx) := roundTrip_event rfl
theorem Laws.RoundTrip.prgResponseFailure (fn idx : Nat) : Laws.RoundTrip.Statement (.prgResponseFailure fn idx) := roundTrip_event rfl
theorem Laws.RoundTrip.atsInvalidate (pasid : Nat) (va : BitVec 64) (size : Nat) : Laws.RoundTrip.Statement (.atsInvalidate pasid va size) := roundTrip_event rfl
theorem Laws.RoundTrip.engineOpRun (h : Nat) : Laws.RoundTrip.Statement (.engineOpRun h) := roundTrip_event rfl
theorem Laws.RoundTrip.engineFiring (h : Nat) : Laws.RoundTrip.Statement (.engineFiring h) := roundTrip_event rfl
theorem Laws.RoundTrip.engineWriteCounted (h : Nat) : Laws.RoundTrip.Statement (.engineWriteCounted h) := roundTrip_event rfl
theorem Laws.RoundTrip.engineOpEnd (h : Nat) : Laws.RoundTrip.Statement (.engineOpEnd h) := roundTrip_event rfl
theorem Laws.RoundTrip.courierBlockReturn (core pasid wk ns : Nat) : Laws.RoundTrip.Statement (.courierBlockReturn core pasid wk ns) := roundTrip_event rfl
theorem Laws.RoundTrip.matrixPass (i : Nat) (flaw : List (Nat × BitVec 128)) : Laws.RoundTrip.Statement (.matrixPass i flaw) := roundTrip_event rfl
theorem Laws.RoundTrip.kick (fn width : Nat) (value : BitVec 64) : Laws.RoundTrip.Statement (.kick fn width value) := roundTrip_event rfl
theorem Laws.RoundTrip.kickReread (fn i : Nat) : Laws.RoundTrip.Statement (.kickReread fn i) := roundTrip_event rfl
theorem Laws.RoundTrip.rcmdRegister (fn route : Nat) : Laws.RoundTrip.Statement (.rcmdRegister fn route) := roundTrip_event rfl
theorem Laws.RoundTrip.rcmdRetire (fn route : Nat) : Laws.RoundTrip.Statement (.rcmdRetire fn route) := roundTrip_event rfl
theorem Laws.RoundTrip.rcmdInvalid (fn : Nat) (value : BitVec 64) : Laws.RoundTrip.Statement (.rcmdInvalid fn value) := roundTrip_event rfl
theorem Laws.RoundTrip.replayStart (fn route : Nat) : Laws.RoundTrip.Statement (.replayStart fn route) := roundTrip_event rfl
theorem Laws.RoundTrip.nodeBegin (fn route node : Nat) : Laws.RoundTrip.Statement (.nodeBegin fn route node) := roundTrip_event rfl
theorem Laws.RoundTrip.dependenceReread (cons : Nat) : Laws.RoundTrip.Statement (.dependenceReread cons) := roundTrip_event rfl
theorem Laws.RoundTrip.consignmentBegin (cons : Nat) : Laws.RoundTrip.Statement (.consignmentBegin cons) := roundTrip_event rfl
theorem Laws.RoundTrip.caravanHandover (cav : Nat) : Laws.RoundTrip.Statement (.caravanHandover cav) := roundTrip_event rfl
theorem Laws.RoundTrip.caravanStart (cav : Nat) : Laws.RoundTrip.Statement (.caravanStart cav) := roundTrip_event rfl
theorem Laws.RoundTrip.caravanHold (cav : Nat) : Laws.RoundTrip.Statement (.caravanHold cav) := roundTrip_event rfl
theorem Laws.RoundTrip.holdPreempt (cav : Nat) : Laws.RoundTrip.Statement (.holdPreempt cav) := roundTrip_event rfl
theorem Laws.RoundTrip.consignmentComplete (cons : Nat) : Laws.RoundTrip.Statement (.consignmentComplete cons) := roundTrip_event rfl
theorem Laws.RoundTrip.purseRefill (drawn : Nat) : Laws.RoundTrip.Statement (.purseRefill drawn) := roundTrip_event rfl
theorem Laws.RoundTrip.governorStep (core live issued : Nat) : Laws.RoundTrip.Statement (.governorStep core live issued) := roundTrip_event rfl
theorem Laws.RoundTrip.parklimExpiry (wk eid : Nat) : Laws.RoundTrip.Statement (.parklimExpiry wk eid) := roundTrip_event rfl
theorem Laws.RoundTrip.crewRequeuePlace (crew : Nat) : Laws.RoundTrip.Statement (.crewRequeuePlace crew) := roundTrip_event rfl
theorem Laws.RoundTrip.waveWatchdogExpiry (wk : Nat) : Laws.RoundTrip.Statement (.waveWatchdogExpiry wk) := roundTrip_event rfl
theorem Laws.RoundTrip.crewWatchdogExpiry (crew : Nat) : Laws.RoundTrip.Statement (.crewWatchdogExpiry crew) := roundTrip_event rfl
theorem Laws.RoundTrip.crewSave (crew : Nat) : Laws.RoundTrip.Statement (.crewSave crew) := roundTrip_event rfl
theorem Laws.RoundTrip.crewRestore (crew : Nat) : Laws.RoundTrip.Statement (.crewRestore crew) := roundTrip_event rfl
theorem Laws.RoundTrip.precmdContext (fn pasid : Nat) : Laws.RoundTrip.Statement (.precmdContext fn pasid) := roundTrip_event rfl
theorem Laws.RoundTrip.precmdConsignment (fn route node : Nat) : Laws.RoundTrip.Statement (.precmdConsignment fn route node) := roundTrip_event rfl
theorem Laws.RoundTrip.bprel (fn : Nat) (value : BitVec 64) : Laws.RoundTrip.Statement (.bprel fn value) := roundTrip_event rfl
theorem Laws.RoundTrip.ctxcmdLoad (fn pasid : Nat) : Laws.RoundTrip.Statement (.ctxcmdLoad fn pasid) := roundTrip_event rfl
theorem Laws.RoundTrip.ctxcmdRetire (fn pasid : Nat) : Laws.RoundTrip.Statement (.ctxcmdRetire fn pasid) := roundTrip_event rfl
theorem Laws.RoundTrip.roundOpen (line : Nat) : Laws.RoundTrip.Statement (.roundOpen line) := roundTrip_event rfl
theorem Laws.RoundTrip.roundClose (line : Nat) : Laws.RoundTrip.Statement (.roundClose line) := roundTrip_event rfl
theorem Laws.RoundTrip.traceSample (core pasid : Nat) : Laws.RoundTrip.Statement (.traceSample core pasid) := roundTrip_event rfl
theorem Laws.RoundTrip.homeWrite (sid : Nat) : Laws.RoundTrip.Statement (.homeWrite sid) := roundTrip_event rfl
theorem Laws.RoundTrip.invalidate (die sid : Nat) : Laws.RoundTrip.Statement (.invalidate die sid) := roundTrip_event rfl
theorem Laws.RoundTrip.invalidateAck (die sid : Nat) : Laws.RoundTrip.Statement (.invalidateAck die sid) := roundTrip_event rfl
theorem Laws.RoundTrip.waystationEvictReport (die region : Nat) : Laws.RoundTrip.Statement (.waystationEvictReport die region) := roundTrip_event rfl
theorem Laws.RoundTrip.replicaLock (die sid : Nat) : Laws.RoundTrip.Statement (.replicaLock die sid) := roundTrip_event rfl
theorem Laws.RoundTrip.replicaUpdate (die sid : Nat) : Laws.RoundTrip.Statement (.replicaUpdate die sid) := roundTrip_event rfl
theorem Laws.RoundTrip.replicaStallTimeout (wk eid : Nat) : Laws.RoundTrip.Statement (.replicaStallTimeout wk eid) := roundTrip_event rfl
theorem Laws.RoundTrip.cachePartialMerge (sid w : Nat) : Laws.RoundTrip.Statement (.cachePartialMerge sid w) := roundTrip_event rfl
theorem Laws.RoundTrip.hbmWrite (blk : Nat) : Laws.RoundTrip.Statement (.hbmWrite blk) := roundTrip_event rfl
theorem Laws.RoundTrip.hbmRead (blk : Nat) (syms : List (Nat × BitVec 8)) : Laws.RoundTrip.Statement (.hbmRead blk syms) := roundTrip_event rfl
theorem Laws.RoundTrip.hostWrite (fn pasid : Nat) (va : BitVec 64) (bytes : List (BitVec 8)) (relaxed : Bool) : Laws.RoundTrip.Statement (.hostWrite fn pasid va bytes relaxed) := roundTrip_event rfl
theorem Laws.RoundTrip.hostRead (fn pasid : Nat) (va : BitVec 64) (len : Nat) : Laws.RoundTrip.Statement (.hostRead fn pasid va len) := roundTrip_event rfl
theorem Laws.RoundTrip.lehrScrub (blk : Nat) (syms : List (Nat × BitVec 8)) (raced : Bool) : Laws.RoundTrip.Statement (.lehrScrub blk syms raced) := roundTrip_event rfl
theorem Laws.RoundTrip.lehrWindow (bank : Nat) : Laws.RoundTrip.Statement (.lehrWindow bank) := roundTrip_event rfl
theorem Laws.RoundTrip.lehrack (fn bank : Nat) : Laws.RoundTrip.Statement (.lehrack fn bank) := roundTrip_event rfl
theorem Laws.RoundTrip.lehrReencodeGroup (bank : Nat) : Laws.RoundTrip.Statement (.lehrReencodeGroup bank) := roundTrip_event rfl
theorem Laws.RoundTrip.histogramStore : Laws.RoundTrip.Statement (.histogramStore) := roundTrip_event rfl
theorem Laws.RoundTrip.linkFail (link : Nat) : Laws.RoundTrip.Statement (.linkFail link) := roundTrip_event rfl
theorem Laws.RoundTrip.linkRetrainDone (link : Nat) : Laws.RoundTrip.Statement (.linkRetrainDone link) := roundTrip_event rfl
theorem Laws.RoundTrip.flitReceive (port : Nat) (ok : Bool) : Laws.RoundTrip.Statement (.flitReceive port ok) := roundTrip_event rfl
theorem Laws.RoundTrip.engineReset (fn seq target : Nat) : Laws.RoundTrip.Statement (.engineReset fn seq target) := roundTrip_event rfl
theorem Laws.RoundTrip.linkReset (fn seq target : Nat) : Laws.RoundTrip.Statement (.linkReset fn seq target) := roundTrip_event rfl
theorem Laws.RoundTrip.dieReset (fn seq target : Nat) : Laws.RoundTrip.Statement (.dieReset fn seq target) := roundTrip_event rfl
theorem Laws.RoundTrip.dieResetComplete (die : Nat) : Laws.RoundTrip.Statement (.dieResetComplete die) := roundTrip_event rfl
theorem Laws.RoundTrip.homeStallTimeout (die sid : Nat) : Laws.RoundTrip.Statement (.homeStallTimeout die sid) := roundTrip_event rfl
theorem Laws.RoundTrip.partitionReset (fn seq : Nat) : Laws.RoundTrip.Statement (.partitionReset fn seq) := roundTrip_event rfl
theorem Laws.RoundTrip.rstcmdRefused (fn : Nat) (value : BitVec 64) : Laws.RoundTrip.Statement (.rstcmdRefused fn value) := roundTrip_event rfl
theorem Laws.RoundTrip.packageReset (image sig1 sig2 : List (BitVec 8)) : Laws.RoundTrip.Statement (.packageReset image sig1 sig2) := roundTrip_event rfl
theorem Laws.RoundTrip.fwload (image sig1 sig2 : List (BitVec 8)) : Laws.RoundTrip.Statement (.fwload image sig1 sig2) := roundTrip_event rfl
theorem Laws.RoundTrip.histread (arg : Nat) : Laws.RoundTrip.Statement (.histread arg) := roundTrip_event rfl
theorem Laws.RoundTrip.histclear : Laws.RoundTrip.Statement (.histclear) := roundTrip_event rfl
theorem Laws.RoundTrip.ptctlStop (fn : Nat) : Laws.RoundTrip.Statement (.ptctlStop fn) := roundTrip_event rfl
theorem Laws.RoundTrip.ptctlResume (fn : Nat) : Laws.RoundTrip.Statement (.ptctlResume fn) := roundTrip_event rfl
theorem Laws.RoundTrip.pwrlimWrite (fn : Nat) (value : BitVec 64) : Laws.RoundTrip.Statement (.pwrlimWrite fn value) := roundTrip_event rfl
theorem Laws.RoundTrip.registerWrite (fn off width : Nat) (value : BitVec 64) : Laws.RoundTrip.Statement (.registerWrite fn off width value) := roundTrip_event rfl
theorem Laws.RoundTrip.waystationFill (die blk : Nat) : Laws.RoundTrip.Statement (.waystationFill die blk) := roundTrip_event rfl
theorem Laws.RoundTrip.acceptDoneReceive (sid : Nat) : Laws.RoundTrip.Statement (.acceptDoneReceive sid) := roundTrip_event rfl
theorem Laws.RoundTrip.replicaLockAck (die sid : Nat) : Laws.RoundTrip.Statement (.replicaLockAck die sid) := roundTrip_event rfl
theorem Laws.RoundTrip.hostLinkCompletion (sid : Nat) : Laws.RoundTrip.Statement (.hostLinkCompletion sid) := roundTrip_event rfl
theorem Laws.RoundTrip.hardwarePrefetch (core wk : Nat) (va : BitVec 64) : Laws.RoundTrip.Statement (.hardwarePrefetch core wk va) := roundTrip_event rfl
theorem Laws.RoundTrip.powerLoss : Laws.RoundTrip.Statement (.powerLoss) := roundTrip_event rfl
theorem Laws.RoundTrip.portTrained (port : Nat) : Laws.RoundTrip.Statement (.portTrained port) := roundTrip_event rfl
theorem Laws.RoundTrip.linkFlitReceive (link : Nat) (ok : Bool) : Laws.RoundTrip.Statement (.linkFlitReceive link ok) := roundTrip_event rfl
theorem Laws.RoundTrip.spdmRequest (fn : Nat) (req : List (BitVec 8)) : Laws.RoundTrip.Statement (.spdmRequest fn req) := roundTrip_event rfl
theorem Laws.RoundTrip.mgmtcmdRefused (value : BitVec 64) : Laws.RoundTrip.Statement (.mgmtcmdRefused value) := roundTrip_event rfl
theorem Laws.RoundTrip.dieResetResume (die : Nat) : Laws.RoundTrip.Statement (.dieResetResume die) := roundTrip_event rfl

end Sys2Proof
end

