-- ==== Sys2Proof/Certificates/Slice0/Obligations.lean ====
section
/-!
DEFINITION. What is stated of the machine, for the provers: one `Obligations.<Name>` per statement, after the few functions
that say a rule's result in the rule's own terms.
-/
open Sys2Proof Sys2Proof.Machine

namespace Sys2Proof.Slice0

/-! ## The rules' own arithmetic -/

/-- Every source word passes its check (R176): its residue is that of its bits, or it is poison. -/
def Sound (l : List Src) : Prop := ∀ x ∈ l, x.ok = true

/-- No fault is injected: INJ is not armed (R181). -/
def Unarmed (t : Th) : Prop := t.w.inj.getLsbD 63 = false

/-- Path `t` waits in its wave for its instruction to end, and nothing else is at work: as `Plain`, but not selected. -/
structure Waiting (s : State) (t : Th) : Prop where
  view     : s.view t.wk t.p.eid = some t
  real     : s.badPa = none
  untraced : s.dbg = []
  noCheck  : t.w.mcheck = []
  noExit   : ((t.w.paths ++ t.w.spilled).all fun q => q.st != .loopExit) = true
  noLoop   : t.w.d = 0
  noJoin   : t.p.parent = none
  running  : t.p.st = .running

/-- The path stays at its instruction, which waits for `w`; it is the youngest to have issued (R90). -/
def waits (t : Th) (w : Wait) : State := ({ t with p := { t.p with wait := w, age := 0 } } : Th).commit

/-- Is the type of the fields signed, and its width (R20)? -/
def sgn (f : Fields) : Bool := tySigned f.ty.toNat
def wid (f : Fields) : Nat := tyW f.ty.toNat

/-- An exact integer narrowed to `w` bits: clamped to the range of the type where `sat`, else taken modulo 2^w (R129, R169). -/
def narrowTo (sat signed : Bool) (w : Nat) (x : Int) : Nat :=
  ofSigned w (if sat then max (tyLo signed w) (min (tyHi signed w) x) else x)

/-- An exact integer narrowed to the type of the fields. -/
def narrow (f : Fields) (x : Int) : Nat := narrowTo f.sat (sgn f) (wid f) x

/-- The integer a pattern stands for in the type. -/
def int (f : Fields) (a : Nat) : Int := rdInt (sgn f) (wid f) a

def addR (f : Fields) (a b : Nat) : Nat := narrow f (int f a + int f b)
def subR (f : Fields) (a b : Nat) : Nat := narrow f (int f a - int f b)
def mulR (f : Fields) (a b : Nat) : Nat := ofSigned (wid f) (int f a * int f b)
def mulhR (f : Fields) (a b : Nat) : Nat := ofSigned (wid f) (int f a * int f b / 2 ^ wid f)
def minR (f : Fields) (a b : Nat) : Nat := ofSigned (wid f) (min (int f a) (int f b))
def maxR (f : Fields) (a b : Nat) : Nat := ofSigned (wid f) (max (int f a) (int f b))
def divR (f : Fields) (a b : Nat) : Nat := if b = 0 then 2 ^ wid f - 1 else ofSigned (wid f) ((int f a).tdiv (int f b))
def remR (f : Fields) (a b : Nat) : Nat := if b = 0 then a else ofSigned (wid f) ((int f a).tmod (int f b))
def leaR (f : Fields) (a b : Nat) : Nat := (a + b * 2 ^ f.sub.toNat) % 2 ^ wid f
def shlR (f : Fields) (a k : Nat) : Nat := if k < wid f then a * 2 ^ k % 2 ^ wid f else 0
def shrR (f : Fields) (a k : Nat) : Nat := if k < wid f then a / 2 ^ k else 0
def sraR (f : Fields) (a k : Nat) : Nat := ofSigned (wid f) (toSigned (wid f) a / 2 ^ min k (wid f))

/-- The bit field of R131 at POS of LEN bits, extended as the type says. -/
def bfxR (f : Fields) (a ctl : Nat) : Nat :=
  let pos := bitsOf ctl 5 0
  let len := min (bitsOf ctl 14 8) 64
  if len = 0 then 0
  else if sgn f && len < wid f then ofSigned (wid f) (toSigned len (a / 2 ^ pos % 2 ^ len))
  else a / 2 ^ pos % 2 ^ len

/-- R131: `a` with its bits POS to POS + LEN − 1 replaced by the low bits of `c`. -/
def bfiR (f : Fields) (a ctl c : Nat) : Nat :=
  let pos := bitsOf ctl 5 0
  let len := min (bitsOf ctl 14 8) 64
  let m := (2 ^ len - 1) * 2 ^ pos % 2 ^ wid f
  (a &&& (2 ^ wid f - 1 - m)) ||| (c * 2 ^ pos &&& m)

def negR (f : Fields) (a : Nat) : Nat := narrow f (-int f a)
def absR (f : Fields) (a : Nat) : Nat := narrow f (int f a).natAbs

/-- Number of set bits among the low `n`. -/
def ones (n a : Nat) : Nat := ((List.range n).filter fun i => a.testBit i).length

/-- Number of zero bits above the highest set bit of a pattern of W bits. -/
def leading (f : Fields) (a : Nat) : Nat :=
  wid f - (((List.range (wid f)).filter fun i => 2 ^ i ≤ a).length)

/-- The result of each integer instruction of two source words (R129, R130, R169), as a pattern of W bits. -/
def binaries : List ((Fields → Instr) × (Fields → Instr) × (Fields → Nat → Nat → Nat)) :=
  [(.sadd, .vadd, addR), (.ssub, .vsub, subR), (.smul, .vmul, mulR), (.smulh, .vmulh, mulhR),
   (.sand, .vand, fun _ a b => a &&& b), (.sor, .vor, fun _ a b => a ||| b), (.sxor, .vxor, fun _ a b => a ^^^ b),
   (.smin, .vmin, minR), (.smax, .vmax, maxR)]

/-- The scalar forms, with those that no vector instruction has. -/
def scalarBinaries : List ((Fields → Instr) × (Fields → Nat → Nat → Nat)) :=
  binaries.map (fun r => (r.1, r.2.2)) ++ [(.sdiv, divR), (.srem, remR), (.slea, leaR)]

/-- The vector forms, with the one that no scalar instruction has. -/
def vectorBinaries : List ((Fields → Instr) × (Fields → Nat → Nat → Nat)) :=
  binaries.map (fun r => (r.2.1, r.2.2)) ++ [(.vandn, fun f a b => a &&& (2 ^ wid f - 1 - b))]

/-- The shifts and the bit-field extract, whose second source is a count or a control (R131, R170, R171). -/
def counted : List ((Fields → Instr) × (Fields → Instr) × (Fields → Nat → Nat → Nat)) :=
  [(.sshl, .vshl, shlR), (.sshr, .vshr, shrR), (.ssra, .vsra, sraR), (.sbfx, .vbfx, bfxR)]

/-- Source B of a scalar shift or bit-field instruction, read in full (R131). -/
def scalarCount (t : Th) (f : Fields) : Src := if f.immf then immInt f (wid f) else t.srcS 64 f.sb.toNat 2

/-- The path `t` with the register form (R20, R128) of the pattern `v` in S[DST], poisoned as the sources are (R41). -/
def withS (t : Th) (f : Fields) (srcs : List Src) (v : Nat) : Th :=
  t.setS f.dst.toNat (mkP (srcs.any (·.bad)) (BitVec.ofNat 64 (regForm f.ty.toNat 64 v)))

/-- The path `t` with, in each lane that executes, the register form of the lane's pattern in V[DST], poisoned as the lane's
sources and the guard's are (R41, R168). -/
def withV (t : Th) (f : Fields) (ty : Nat) (ex : BitVec 64) (srcs : Nat → List Src) (v : Nat → Nat) : Th :=
  (lanesOf ex).foldl (fun u L => u.putV f.dst.toNat L (tyW ty == 64) ((guardSrc t f ++ srcs L).any (·.bad))
    (regForm ty (if tyW ty = 64 then 64 else 32) (v L))) t

/-- The path `t` with, in P[DST], the bits of the lanes that execute replaced (R166, R173). -/
def withP (t : Th) (f : Fields) (ex : BitVec 64) (srcs : Nat → List Src) (v : Nat → Bool) : Th :=
  if ex = 0 then t
  else
    let old := t.preg f.dst.toNat
    let poison := ((lanesOf ex).any fun L => (guardSrc t f ++ srcs L).any (·.bad)) || (bad old && ex != 0xFFFFFFFFFFFFFFFF)
    t.setP f.dst.toNat (mkP poison ((old.v &&& ~~~ex) ||| maskOf 64 ((lanesOf ex).filter v)))

/-- The bits of P[DST] that a lane-wise write keeps come from a register that passes its check (R166, R176). -/
def SoundKept (t : Th) (f : Fields) (ex : BitVec 64) : Prop :=
  ex = 0xFFFFFFFFFFFFFFFF ∨ sound (t.preg f.dst.toNat) = true

/-- The sources of every lane that executes pass their checks, and the guard's does. -/
def SoundLanes (t : Th) (f : Fields) (ex : BitVec 64) (srcs : Nat → List Src) : Prop :=
  ∀ L ∈ lanesOf ex, Sound (guardSrc t f ++ srcs L)

/-- The condition that SUB names, of two integers (R132). -/
def condition (f : Fields) (x y : Int) : Bool :=
  match f.sub.toNat with
  | 0 => decide (x = y)
  | 1 => decide (x ≠ y)
  | 2 => decide (x < y)
  | 3 => decide (x ≤ y)
  | 4 => decide (x > y)
  | _ => decide (x ≥ y)

/-- The Boolean function of BLOP and PLOP that SUB names (R133, R173). -/
def boolean (f : Fields) (x y : Bool) : Bool :=
  match f.sub.toNat with
  | 0 => x && y
  | 1 => x || y
  | 2 => x != y
  | 3 => x && !y
  | 4 => x
  | _ => !x

end Sys2Proof.Slice0

open Sys2Proof.Slice0

/-! ## Scalar instructions -/

/-- R128 to R130, R168: a scalar instruction of two sources writes the register form of the rule's result, poisoned as its
sources are, and goes on to the next slot with nothing else changed. -/
def Sys2Proof.Slice0.ScalarBinaryResult : Prop :=
  ∀ r ∈ scalarBinaries, ∀ (s : State) (t : Th) (f : Fields) (ex : BitVec 64),
    Runs s t (r.1 f) f .c ex → t.splitWrite f.dst.toNat = false → Unarmed t →
    Sound [t.srcS (wid f) f.sa.toNat 1, t.scalB f (wid f)] →
    exec (r.1 f) s = .next (withS t f [t.srcS (wid f) f.sa.toNat 1, t.scalB f (wid f)]
      (r.2 f (t.srcS (wid f) f.sa.toNat 1).v (t.scalB f (wid f)).v)).retired

/-- R131: the scalar shifts and SBFX. -/
def Sys2Proof.Slice0.ScalarShiftResult : Prop :=
  ∀ r ∈ counted, ∀ (s : State) (t : Th) (f : Fields) (ex : BitVec 64),
    Runs s t (r.1 f) f .c ex → t.splitWrite f.dst.toNat = false → Unarmed t →
    Sound [t.srcS (wid f) f.sa.toNat 1, scalarCount t f] →
    exec (r.1 f) s = .next (withS t f [t.srcS (wid f) f.sa.toNat 1, scalarCount t f]
      (r.2.2 f (t.srcS (wid f) f.sa.toNat 1).v (scalarCount t f).v)).retired

/-- R128 to R131: the scalar instructions of two sources. -/
def Obligations.ScalarTwoSourceResult : Prop := ScalarBinaryResult ∧ ScalarShiftResult

/-- R129, R131: SMOV, SSEL, SCLZ, SPOPC and SBFI. SSEL reads only the source that B[SRCC] selects. -/
def Sys2Proof.Slice0.ScalarMoveAndCountResult : Prop :=
  ∀ (s : State) (t : Th) (f : Fields) (ex : BitVec 64), t.splitWrite f.dst.toNat = false → Unarmed t →
    let a := t.srcS (wid f) f.sa.toNat 1
    let b := t.scalB f (wid f)
    let c := t.srcS (wid f) f.sc.toNat 3
    let x := if (t.breg f.sc.toNat).v = 1 then a else b
    (Runs s t (.smov f) f .c ex → Sound [b] → exec (.smov f) s = .next (withS t f [b] b.v).retired) ∧
    (Runs s t (.ssel f) f .c ex → Sound [x] → bad (t.breg f.sc.toNat) = false →
      exec (.ssel f) s = .next (withS t f [x] x.v).retired) ∧
    (Runs s t (.sclz f) f .c ex → Sound [a] → exec (.sclz f) s = .next (withS t f [a] (leading f a.v)).retired) ∧
    (Runs s t (.spopc f) f .c ex → Sound [a] → exec (.spopc f) s = .next (withS t f [a] (ones (wid f) a.v)).retired) ∧
    (Runs s t (.sbfi f) f .c ex → Sound [a, scalarCount t f, c] →
      exec (.sbfi f) s = .next (withS t f [a, scalarCount t f, c] (bfiR f a.v (scalarCount t f).v c.v)).retired)

/-- R132, R133: SCMP writes B[DST] with the condition of its two sources read in the type, BLOP with the Boolean function;
neither writes an S register. -/
def Sys2Proof.Slice0.ScalarPredicateResult : Prop :=
  ∀ (s : State) (t : Th) (f : Fields) (ex : BitVec 64),
    (let a := t.srcS (wid f) f.sa.toNat 1
     let b := t.scalB f (wid f)
     Runs s t (.scmp f) f .c ex → Unarmed t → Sound [a, b] →
     exec (.scmp f) s = .next (t.setB f.dst.toNat (mkP (a.bad || b.bad)
       (BitVec.ofBool (condition f (int f a.v) (int f b.v))))).retired) ∧
    (let a := t.breg f.sa.toNat
     let b := t.breg f.sb.toNat
     Runs s t (.blop f) f .c ex →
     exec (.blop f) s = .next (t.setB f.dst.toNat (mkP (bad a || (f.sub.toNat < 4 && bad b))
       (BitVec.ofBool (boolean f (a.v == 1) (b.v == 1))))).retired)

/-- R129, R131 to R133: the scalar moves, counts, bit fields, comparisons and predicates. -/
def Obligations.ScalarMoveAndPredicateResult : Prop := ScalarMoveAndCountResult ∧ ScalarPredicateResult

/-- R127: where an instruction would write S16 to S63 while the path table of its wave holds more than one entry and the
wave is not in handler mode, the wave takes SPLIT_SCALAR_WRITE. -/
def Sys2Proof.Slice0.SplitScalarWrite : Prop :=
  ∀ mk ∈ scalarBinaries.map (·.1) ++ counted.map (·.1) ++ [.smov, .sclz, .spopc, .sbfi, .probe],
    ∀ (s : State) (t : Th) (f : Fields) (ex : BitVec 64),
    Runs s t (mk f) f .c ex → t.splitWrite f.dst.toNat = true →
    exec (mk f) s = answer (enterTrap t { cause := 0x0A, info := f.dst.toNat })

/-! ## Vector integer instructions -/

/-- R165, R167, R169: a vector instruction of two sources writes, in each lane that executes and in no other, the register
form of the rule's result. -/
def Sys2Proof.Slice0.VectorBinaryResult : Prop :=
  ∀ r ∈ vectorBinaries, ∀ (s : State) (t : Th) (f : Fields) (ex : BitVec 64),
    let a := fun L => t.srcA f (wid f) L
    let b := fun L => t.srcB f (wid f) L
    Runs s t (r.1 f) f .l ex → Unarmed t → SoundLanes t f ex (fun L => [a L, b L]) →
    exec (r.1 f) s = .next (withV t f f.ty.toNat ex (fun L => [a L, b L]) fun L => r.2 f (a L).v (b L).v).retired

/-- R170, R171: the vector shifts and VBFX, whose count or control is an unsigned 32-bit word. -/
def Sys2Proof.Slice0.VectorShiftResult : Prop :=
  ∀ r ∈ counted, ∀ (s : State) (t : Th) (f : Fields) (ex : BitVec 64),
    let a := fun L => t.srcA f (wid f) L
    let b := fun L => t.srcCount f L
    Runs s t (r.2.1 f) f .l ex → Unarmed t → SoundLanes t f ex (fun L => [a L, b L]) →
    exec (r.2.1 f) s = .next (withV t f f.ty.toNat ex (fun L => [a L, b L]) fun L => r.2.2 f (a L).v (b L).v).retired

/-- R169, R174, R175: the vector instructions of one source, VIOTA and VRES. VRES reads the residue code of a word and checks
nothing. -/
def Sys2Proof.Slice0.VectorUnaryResult : Prop :=
  ∀ (s : State) (t : Th) (f : Fields) (ex : BitVec 64), Unarmed t →
    let a := fun L => t.srcA f (wid f) L
    let b := fun L => t.srcB f (wid f) L
    let x := fun L => t.srcA f (tyW f.sub.toNat) L
    (∀ r ∈ ([(.vabs, fun v => absR f v), (.vneg, fun v => negR f v), (.vpopc, fun v => ones (wid f) v),
        (.vclz, fun v => leading f v)] : List ((Fields → Instr) × (Nat → Nat))),
      Runs s t (r.1 f) f .l ex → SoundLanes t f ex (fun L => [a L]) →
      exec (r.1 f) s = .next (withV t f f.ty.toNat ex (fun L => [a L]) fun L => r.2 (a L).v).retired) ∧
    (Runs s t (.vmov f) f .l ex → SoundLanes t f ex (fun L => [b L]) →
      exec (.vmov f) s = .next (withV t f f.ty.toNat ex (fun L => [b L]) fun L => (b L).v).retired) ∧
    (Runs s t (.vcvti f) f .l ex → SoundLanes t f ex (fun L => [x L]) →
      exec (.vcvti f) s = .next (withV t f f.ty.toNat ex (fun L => [x L]) fun L =>
        narrow f (rdInt (tySigned f.sub.toNat) (tyW f.sub.toNat) (x L).v)).retired) ∧
    (Runs s t (.viota f) f .l ex → SoundLanes t f ex (fun _ => []) →
      exec (.viota f) s = .next (withV t f 6 ex (fun _ => []) fun L => t.w.lidOf L).retired) ∧
    (Runs s t (.vres f) f .l ex → SoundLanes t f ex (fun _ => []) →
      exec (.vres f) s = .next (withV t f 6 ex (fun _ => []) fun L => (t.vreg f.sa.toNat L).r.toNat).retired)

/-- R111: after a vector instruction of two sources the latch holds, for its path, the source that HOLD names, for the next two
instructions, unless the instruction wrote that register; the copies that were there have one instruction less to stay, or are
gone; and no path holds a copy of the register that was written. -/
def Sys2Proof.Slice0.HeldSourceResult : Prop :=
  ∀ r ∈ vectorBinaries, ∀ (s : State) (t0 t : Th) (f : Fields) (ex : BitVec 64),
    let a := fun L => t.srcA f (wid f) L
    let b := fun L => t.srcB f (wid f) L
    let named := t0.w.vname (if f.hold = 1 then f.sa.toNat else if f.hold = 2 then f.sb.toNat else f.sc.toNat)
    let written := [t0.w.vname f.dst.toNat, t0.w.vname (f.dst.toNat + 1)]
    Plain s t0 → t = t0.entered .l f ex → Runs s t (r.1 f) f .l ex → Unarmed t → SoundLanes t f ex (fun L => [a L, b L]) →
    (∀ h ∈ t0.w.latch, h.life ≤ 2) →
    ∃ s' w', exec (r.1 f) s = .next s' ∧ s'.wave t0.wk = some w' ∧
      (f.hold ≠ 0 → named ∉ written → ({ eid := t0.p.eid, reg := named, life := 2 } : Held) ∈ w'.latch) ∧
      (∀ h ∈ w'.latch, h.life ≤ 2 ∧ (h.eid = t0.p.eid →
        f.hold ≠ 0 ∧ h.reg = named ∧ h.life = 2 ∨ { h with life := h.life + 1 } ∈ t0.w.latch)) ∧
      (ex ≠ 0 → ∀ h ∈ w'.latch, h.reg ≠ t0.w.vname f.dst.toNat)

/-- R111, R165 to R171, R174, R175: the integer vector instructions of one and two sources. -/
def Obligations.VectorIntegerResult : Prop := VectorBinaryResult ∧ VectorShiftResult ∧ VectorUnaryResult ∧ HeldSourceResult

/-- R169, R171, R172: the vector instructions of three sources, and VDYMUL. -/
def Sys2Proof.Slice0.VectorTernaryResult : Prop :=
  ∀ (s : State) (t : Th) (f : Fields) (ex : BitVec 64), Unarmed t →
    let a := fun L => t.srcA f (wid f) L
    let b := fun L => t.srcB f (wid f) L
    let c := fun L => t.srcC f (wid f) L
    let k := fun L => t.srcCount f L
    let a4 := fun L => t.srcA f 32 L
    let b4 := fun L => if f.immf then immInt f 32 else t.srcB f 32 L
    let c4 := fun L => t.srcC f 32 L
    let d := fun L => t.srcB f 8 L
    (Runs s t (.vmad f) f .l ex → SoundLanes t f ex (fun L => [a L, b L, c L]) →
      exec (.vmad f) s = .next (withV t f f.ty.toNat ex (fun L => [a L, b L, c L]) fun L =>
        ofSigned (wid f) (int f (a L).v * int f (b L).v + int f (c L).v)).retired) ∧
    (Runs s t (.vadds f) f .l ex → SoundLanes t f ex (fun L => [a L, b L, c L]) →
      exec (.vadds f) s = .next (withV t f f.ty.toNat ex (fun L => [a L, b L, c L]) fun L =>
        narrow f (int f (c L).v + (int f (a L).v - int f (b L).v).natAbs)).retired) ∧
    (Runs s t (.vbfi f) f .l ex → SoundLanes t f ex (fun L => [a L, k L, c L]) →
      exec (.vbfi f) s = .next (withV t f f.ty.toNat ex (fun L => [a L, k L, c L]) fun L =>
        bfiR f (a L).v (k L).v (c L).v).retired) ∧
    (Runs s t (.vdot4 f) f .l ex → SoundLanes t f ex (fun L => [a4 L, b4 L, c4 L]) →
      exec (.vdot4 f) s = .next (withV t f 6 ex (fun L => [a4 L, b4 L, c4 L]) fun L =>
        narrowTo f.sat (sgn f) 32 (rdInt (sgn f) 32 (c4 L).v + ((List.range 4).map fun j =>
          rdInt (sgn f) 8 ((a4 L).v / 2 ^ (8 * j) % 256) * rdInt (sgn f) 8 ((b4 L).v / 2 ^ (8 * j) % 256)).sum)).retired) ∧
    (Runs s t (.vdymul f) f .l ex → SoundLanes t f ex (fun L => [a L, d L]) →
      exec (.vdymul f) s = .next (withV t f 5 ex (fun L => [a L, d L]) fun L =>
        narrowTo f.sat true 32 (toSigned (wid f) (a L).v * dyad64 (d L).v)).retired)

/-! ## Predicates and selection -/

/-- R166, R173: VCMP, PLOP and the forms of PMOV that write a P register write the bits of the lanes that execute and keep
the others; the register is poisoned by a poisoned source, or by its own poison where a bit is kept. With no lane executing
nothing is read or written. -/
def Obligations.VectorPredicateResult : Prop :=
  ∀ (s : State) (t : Th) (f : Fields) (ex : BitVec 64), Unarmed t →
    let a := fun L => t.srcA f (wid f) L
    let b := fun L => t.srcB f (wid f) L
    let p := t.srcP f.sa.toNat 1
    let q := t.srcP f.sb.toNat 2
    let x := if f.immf then { noSrc with v := f.hi.toNat } else t.srcS 64 f.sb.toNat 2
    let v := fun L => t.srcA f 32 L
    (Runs s t (.vcmp f) f .l ex → SoundKept t f ex → SoundLanes t f ex (fun L => [a L, b L]) →
      exec (.vcmp f) s = .next (withP t f ex (fun L => [a L, b L])
        fun L => condition f (int f (a L).v) (int f (b L).v)).retired) ∧
    (Runs s t (.plop f) f .l ex → SoundKept t f ex → SoundLanes t f ex (fun _ => if 4 ≤ f.sub.toNat then [p] else [p, q]) →
      exec (.plop f) s = .next (withP t f ex (fun _ => if 4 ≤ f.sub.toNat then [p] else [p, q])
        fun L => boolean f (p.v.testBit L) (q.v.testBit L)).retired) ∧
    (Runs s t (.pmov f) f .l ex → f.sub = 0 → SoundKept t f ex → SoundLanes t f ex (fun _ => [x]) →
      exec (.pmov f) s = .next (withP t f ex (fun _ => [x]) fun L => x.v.testBit L).retired) ∧
    (Runs s t (.pmov f) f .l ex → f.sub = 2 → SoundKept t f ex → SoundLanes t f ex (fun L => [v L]) →
      exec (.pmov f) s = .next (withP t f ex (fun L => [v L]) fun L => decide ((v L).v ≠ 0)).retired)

/-- R169, R173, R182: VSEL reads in each lane only the source that its bit of the selecting P register selects; the other
forms of PMOV write an S register with the bits of the executing lanes, or a 0 or 1 to each lane. -/
def Sys2Proof.Slice0.VectorSelectResult : Prop :=
  ∀ (s : State) (t : Th) (f : Fields) (ex : BitVec 64), Unarmed t →
    let sel := t.srcP f.sc.toNat 7
    let x := fun L => if sel.v.testBit L then t.srcA f (wid f) L else t.srcB f (wid f) L
    let p := t.srcP f.sa.toNat 1
    (Runs s t (.vsel f) f .l ex → sel.bad = false → SoundLanes t f ex (fun L => [sel, x L]) →
      exec (.vsel f) s = .next (withV t f f.ty.toNat ex (fun L => [sel, x L]) fun L => (x L).v).retired) ∧
    (Runs s t (.pmov f) f .l ex → f.sub = 1 → SoundLanes t f ex (fun _ => [p]) → t.splitWrite f.dst.toNat = false →
      exec (.pmov f) s = .next (if ex = 0 then t else
        t.setS f.dst.toNat (mkP ((guardSrc t f ++ [p]).any (·.bad)) (BitVec.ofNat 64 p.v &&& ex))).retired) ∧
    (Runs s t (.pmov f) f .l ex → f.sub = 3 → SoundLanes t f ex (fun _ => [p]) →
      exec (.pmov f) s = .next (withV t f 6 ex (fun _ => [p]) fun L => if p.v.testBit L then 1 else 0).retired)

/-- R169, R171 to R173, R182: the vector instructions of three sources, VSEL, and PMOV to an S or V register. -/
def Obligations.VectorTernaryAndSelectResult : Prop := VectorTernaryResult ∧ VectorSelectResult

/-! ## Floating-point instructions -/

namespace Sys2Proof.Slice0

/-- The pattern of type `ty` that an exact value rounds to under RM and SAT, with the lane's generator stepped for .rs (R30, R34). -/
def rounded (t : Th) (f : Fields) (ty L : Nat) (low : Option Int) (x : FV) : Nat :=
  roundTo ty { rm := f.rm.toNat, sat := f.sat, st := (genStep (t.gen L).v).toNat, low := low } x

/-- The sources of a lane with its generator, which .rs alone reads (R34, R176). -/
def withGen (t : Th) (f : Fields) (L : Nat) (srcs : List Src) : List Src :=
  if f.rm = 5 then srcs ++ [t.srcGen L] else srcs

/-- The path `t` with the lanes' results in V[DST] as `withV` writes them and, under .rs, each lane's generator stepped; a
poisoned generator stays poisoned. -/
def withR (t : Th) (f : Fields) (ty : Nat) (ex : BitVec 64) (srcs : Nat → List Src) (v : Nat → Nat) : Th :=
  (lanesOf ex).foldl (fun u L =>
    let u := u.putV f.dst.toNat L (tyW ty == 64) ((guardSrc t f ++ withGen t f L (srcs L)).any (·.bad))
      (regForm ty (if tyW ty = 64 then 64 else 32) (v L))
    if f.rm = 5 then u.setGen L (mkP (bad (t.gen L)) (genStep (t.gen L).v)) else u) t

/-- The half `i` of a packed word as a value of the type of the fields (R194). -/
def half (f : Fields) (x i : Nat) : FV := decodeF f.ty.toNat (x / 2 ^ (16 * i) % 2 ^ 16)

/-- The sign that VFSGN gives (R191). -/
def newSign (f : Fields) (a b : Bool) : Bool :=
  match f.sub.toNat with
  | 0 => b
  | 1 => !b
  | 2 => a != b
  | 3 => false
  | _ => !a

end Sys2Proof.Slice0

/-- R30, R185 to R188: VFADD, VFSUB, VFMUL, VFMA and the unary functions form the exact result of their operands and round it
once; a sum that cancels is −0 only when rounding toward −∞.
Rests in part on the model's own choices: logs 37 (VFEX2 and VFLG2). -/
def Obligations.FloatArithmeticResult : Prop :=
  ∀ (s : State) (t : Th) (f : Fields) (ex : BitVec 64), Unarmed t →
    let ty := f.ty.toNat
    let a := fun L => t.srcA f (tyW ty) L
    let b := fun L => t.srcBF f L
    let c := fun L => t.srcC f (tyW ty) L
    let down := f.rm == 3
    (∀ r ∈ ([(.vfadd, fun x y => FV.add down x y), (.vfsub, fun x y => FV.add down x y.neg), (.vfmul, FV.mul)] :
        List ((Fields → Instr) × (FV → FV → FV))),
      Runs s t (r.1 f) f .l ex → SoundLanes t f ex (fun L => withGen t f L [a L, b L]) →
      exec (r.1 f) s = .next (withR t f ty ex (fun L => [a L, b L]) fun L =>
        rounded t f ty L none (r.2 (decodeF ty (a L).v) (decodeF ty (b L).v))).retired) ∧
    (∀ r ∈ ([(.vfrcp, FV.recip), (.vfrsq, FV.rsqrt), (.vfex2, FV.exp2), (.vflg2, FV.log2)] :
        List ((Fields → Instr) × (FV → FV))),
      Runs s t (r.1 f) f .l ex → SoundLanes t f ex (fun L => withGen t f L [a L]) →
      exec (r.1 f) s = .next (withR t f ty ex (fun L => [a L]) fun L =>
        rounded t f ty L none (r.2 (decodeF ty (a L).v))).retired) ∧
    (Runs s t (.vfma f) f .l ex → SoundLanes t f ex (fun L => withGen t f L [a L, b L, c L]) →
      exec (.vfma f) s = .next (withR t f ty ex (fun L => [a L, b L, c L]) fun L =>
        let p := FV.mul (decodeF ty (a L).v) (decodeF ty (b L).v)
        let z := decodeF ty (c L).v
        rounded t f ty L none (FV.add down (if f.sub.getLsbD 1 then p.neg else p)
          (if f.sub.getLsbD 0 then z.neg else z))).retired)

/-- R193 to R195, R197, R201: VFDOT2 rounds one exact sum of two products; VCVT rounds the value of its source to the type
TY, and leaves an infinity that is of type TY already; VQSCL scales by the block scale first; VFRND rounds to an integral value and keeps NaN, infinities and zeros. -/
def Sys2Proof.Slice0.FloatConversionResult : Prop :=
  ∀ (s : State) (t : Th) (f : Fields) (ex : BitVec 64), Unarmed t →
    let ty := f.ty.toNat
    let a := fun L => t.srcA f 32 L
    let b := fun L => if f.immf then immInt f 32 else t.srcB f 32 L
    let c := fun L => t.srcC f 32 L
    let x := fun L => t.srcA f (tyW f.sub.toNat) L
    let y := fun L => t.srcA f (tyW ty) L
    let q := fun L => if f.immf then immInt f 8 else t.srcB f 8 L
    let down := f.rm == 3
    (Runs s t (.vfdot2 f) f .l ex → SoundLanes t f ex (fun L => withGen t f L [a L, b L, c L]) →
      exec (.vfdot2 f) s = .next (withR t f 11 ex (fun L => [a L, b L, c L]) fun L =>
        rounded t f 11 L none (FV.add down (FV.add down (FV.mul (half f (a L).v 0) (half f (b L).v 0))
          (FV.mul (half f (a L).v 1) (half f (b L).v 1))) (decodeF 11 (c L).v))).retired) ∧
    (Runs s t (.vcvt f) f .l ex → SoundLanes t f ex (fun L => withGen t f L [x L]) →
      exec (.vcvt f) s = .next (withR t f ty ex (fun L => [x L]) fun L =>
        let r := rounded t f ty L (some (lowPlace f.sub.toNat (x L).v)) (decodeF f.sub.toNat (x L).v)
        match decodeF f.sub.toNat (x L).v with
        | .inf _ => if f.sub.toNat = ty then (x L).v else r
        | _ => r).retired) ∧
    (Runs s t (.vqscl f) f .l ex → f.sub = 0 → SoundLanes t f ex (fun L => withGen t f L [a L, q L]) →
      exec (.vqscl f) s = .next (withR t f ty ex (fun L => [a L, q L]) fun L =>
        let k : Int := 127 - (q L).v
        rounded t f ty L (some (lowPlace 11 (a L).v + k))
          (if (q L).v = 0xFF then .nan else (decodeF 11 (a L).v).scale k)).retired) ∧
    (Runs s t (.vfrnd f) f .l ex → SoundLanes t f ex (fun L => withGen t f L [y L]) →
      exec (.vfrnd f) s = .next (withR t f ty ex (fun L => [y L]) fun L =>
        match decodeF ty (y L).v with
        | .nan => canonNan ty
        | .inf _ => (y L).v
        | .fin neg m e more =>
          if m = 0 then (y L).v
          else
            let r : Rounding := { rm := f.rm.toNat, sat := false, st := (genStep (t.gen L).v).toNat }
            roundFp ty { rm := 0, sat := false, st := 0 } (.fin neg (roundMag r neg m e 0 more) 0 false)).retired)

/-- R189 to R192: VFMIN and VFMAX, VFCMP, VFSGN and VFCLS. -/
def Sys2Proof.Slice0.FloatSelectResult : Prop :=
  ∀ (s : State) (t : Th) (f : Fields) (ex : BitVec 64), Unarmed t →
    let ty := f.ty.toNat
    let w := tyW ty
    let a := fun L => t.srcA f w L
    let b := fun L => t.srcBF f L
    (∀ r ∈ ([(.vfmin, false), (.vfmax, true)] : List ((Fields → Instr) × Bool)),
      Runs s t (r.1 f) f .l ex → SoundLanes t f ex (fun L => [a L, b L]) →
      exec (r.1 f) s = .next (withV t f ty ex (fun L => [a L, b L]) fun L =>
        let x := decodeF ty (a L).v
        let y := decodeF ty (b L).v
        if x = .nan ∧ y = .nan then canonNan ty
        else if x = .nan then (if f.sub = 1 then canonNan ty else (b L).v)
        else if y = .nan then (if f.sub = 1 then canonNan ty else (a L).v)
        else if fpBeyond r.2 x y then (b L).v else (a L).v).retired) ∧
    (Runs s t (.vfcmp f) f .l ex → SoundKept t f ex → SoundLanes t f ex (fun L => [a L, b L]) →
      exec (.vfcmp f) s = .next (withP t f ex (fun L => [a L, b L])
        fun L => fpHolds f.sub.toNat (FV.cmp (decodeF ty (a L).v) (decodeF ty (b L).v))).retired) ∧
    (let srcs := fun L => if f.sub.toNat < 3 then [a L, b L] else [a L]
     Runs s t (.vfsgn f) f .l ex → SoundLanes t f ex srcs →
      exec (.vfsgn f) s = .next (withV t f ty ex srcs fun L =>
        if decodeF ty (a L).v = .nan then canonNan ty
        else (a L).v % 2 ^ (w - 1) +
          (if newSign f ((a L).v.testBit (w - 1)) ((b L).v.testBit (w - 1)) then 2 ^ (w - 1) else 0)).retired) ∧
    (Runs s t (.vfcls f) f .l ex → SoundLanes t f ex (fun L => [a L]) →
      exec (.vfcls f) s = .next (withV t f 6 ex (fun L => [a L]) fun L => 2 ^ fpClass ty (a L).v).retired)

/-- R189 to R195, R197, R201: conversions, rounding, comparisons and selections of floating-point values. -/
def Obligations.FloatConversionAndSelectResult : Prop := FloatConversionResult ∧ FloatSelectResult

/-- R198 to R201: VPACK, VUNPK, the scale form of VQSCL, and VSEED, which stores a seed of zero as one. -/
def Sys2Proof.Slice0.PackAndSeedResult : Prop :=
  ∀ (s : State) (t : Th) (f : Fields) (ex : BitVec 64), Unarmed t →
    let ty := f.ty.toNat
    let w := tyW ty
    let a := fun L => t.srcA f w L
    let b := fun L => t.srcB f w L
    let c := fun L => t.srcC f 32 L
    let x := fun L => t.srcA f 32 L
    let d := fun L => if f.immf then immInt f 32 else t.srcB f 32 L
    (Runs s t (.vpack f) f .l ex → w = 16 → SoundLanes t f ex (fun L => [a L, b L]) →
      exec (.vpack f) s = .next (withV t f 6 ex (fun L => [a L, b L]) fun L => (b L).v * 2 ^ 16 + (a L).v).retired) ∧
    (Runs s t (.vpack f) f .l ex → w = 8 → SoundLanes t f ex (fun L => [a L, b L, c L]) →
      exec (.vpack f) s = .next (withV t f 6 ex (fun L => [a L, b L, c L]) fun L =>
        let h := (b L).v * 256 + (a L).v
        if f.sub = 0 then (c L).v / 2 ^ 16 * 2 ^ 16 + h else h * 2 ^ 16 + (c L).v % 2 ^ 16).retired) ∧
    (Runs s t (.vunpk f) f .l ex → SoundLanes t f ex (fun L => [x L]) →
      exec (.vunpk f) s = .next (withV t f ty ex (fun L => [x L]) fun L =>
        (x L).v / 2 ^ (w * f.sub.toNat) % 2 ^ w).retired) ∧
    (Runs s t (.vqscl f) f .l ex → f.sub = 1 → SoundLanes t f ex (fun L => [x L]) →
      exec (.vqscl f) s = .next (withV t f 6 ex (fun L => [x L]) fun L =>
        match decodeF 11 (x L).v with
        | .fin _ m e _ => if m = 0 then 127 else (min (max (e + Nat.log2 m - emaxOf ty + 127) 0) 254).toNat
        | _ => 0xFF).retired) ∧
    (Runs s t (.vseed f) f .l ex → SoundLanes t f ex (fun L => [d L]) →
      exec (.vseed f) s = .next ((lanesOf ex).foldl (fun u L => u.setGen L (mkP ((guardSrc t f ++ [d L]).any (·.bad))
        (BitVec.ofNat 32 (if (d L).v = 0 then 1 else (d L).v)))) t).retired)

/-! ## Cross-lane instructions and the execute mask -/

namespace Sys2Proof.Slice0

/-- What lane `L` receives from LID `k`: the word of source A in the executing lane of that LID, or where there is none the
lane's own fill operand (R213). -/
def received (t : Th) (f : Fields) (ex : BitVec 64) (L : Nat) (k : Int) : Src :=
  match (if 0 ≤ k ∧ k < 64 then laneOfLid t.w ex k.toNat else none) with
  | some M => t.srcV (wid f) f.sa.toNat M 1
  | none => t.srcC f (wid f) L

/-- The LID from which VSHFL takes the word for LID `l` under index `b` (R215). -/
def shuffled (f : Fields) (l b : Nat) : Int :=
  match f.sub.toNat with
  | 0 => b
  | 1 => l - b
  | 2 => l + b
  | _ => (l ^^^ b : Nat)

/-- The LID from which VLROT takes the word for LID `l` under amount `b`: rotation within groups of 64, 8 or 32 (R215). -/
def rotated (f : Fields) (l b : Nat) : Int :=
  let g : Nat := if f.sub = 0 then 64 else if f.sub = 1 then 8 else 32
  g * (l / g) + ((l : Int) - b) % g

/-- The least or greatest, by the type, of a list of patterns. -/
def least (f : Fields) (xs : List Nat) : Nat :=
  let ys := xs.map (int f)
  ofSigned (wid f) (ys.tail.foldl min (ys.headD 0))
def greatest (f : Fields) (xs : List Nat) : Nat :=
  let ys := xs.map (int f)
  ofSigned (wid f) (ys.tail.foldl max (ys.headD 0))

/-- The combination of a list of patterns that VSCAN and VRED form under SUB (R216). -/
def scanR (f : Fields) (xs : List Nat) : Nat :=
  match f.sub.toNat with
  | 0 | 1 => xs.sum % 2 ^ wid f
  | 2 => least f xs
  | _ => greatest f xs
def redR (f : Fields) (xs : List Nat) : Nat :=
  match f.sub.toNat with
  | 0 => xs.sum % 2 ^ wid f
  | 1 => least f xs
  | 2 => greatest f xs
  | 3 => xs.foldl (· &&& ·) (2 ^ wid f - 1)
  | 4 => xs.foldl (· ||| ·) 0
  | _ => xs.foldl (· ^^^ ·) 0

end Sys2Proof.Slice0

/-- R213 to R215: VSHFL, VLROT and VCPRS move the words of executing lanes to executing lanes, and give the fill operand to
a lane whose source lane does not execute. -/
def Sys2Proof.Slice0.ShuffleResult : Prop :=
  ∀ (s : State) (t : Th) (f : Fields) (ex : BitVec 64), Unarmed t →
    let b := fun L => t.srcIndex f L
    let sel := t.srcP f.sb.toNat 7
    let order := t.w.byLid ex
    let chosen := order.filter fun L => sel.v.testBit L
    (∀ r ∈ ([(.vshfl, shuffled f), (.vlrot, rotated f)] : List ((Fields → Instr) × (Nat → Nat → Int))),
      let x := fun L => received t f ex L (r.2 (t.w.lidOf L) (b L).v)
      Runs s t (r.1 f) f .l ex → SoundLanes t f ex (fun L => [x L, b L]) →
      exec (r.1 f) s = .next (withV t f f.ty.toNat ex (fun L => [x L, b L]) fun L => (x L).v).retired) ∧
    (let x := fun L => match chosen[order.idxOf L]? with
       | some M => t.srcV (wid f) f.sa.toNat M 1
       | none => t.srcC f (wid f) L
     Runs s t (.vcprs f) f .l ex → sel.bad = false → SoundLanes t f ex (fun L => [x L, sel]) →
      exec (.vcprs f) s = .next (withV t f f.ty.toNat ex (fun L => [x L, sel]) fun L => (x L).v).retired)

/-- R216: VSCAN gives each lane the combination of the lanes of lower LID, its own too unless .exc. -/
def Sys2Proof.Slice0.ScanResult : Prop :=
  ∀ (s : State) (t : Th) (f : Fields) (ex : BitVec 64),
    let a := fun L => t.srcA f (wid f) L
    let before := fun L => (lanesOf ex).filter fun M =>
      if f.sub = 1 then t.w.lidOf M < t.w.lidOf L else t.w.lidOf M ≤ t.w.lidOf L
    Unarmed t → Runs s t (.vscan f) f .l ex → SoundLanes t f ex (fun L => [a L]) →
    exec (.vscan f) s = .next (withV t f f.ty.toNat ex (fun L => (before L).map a)
      fun L => scanR f ((before L).map fun M => (a M).v)).retired

/-- R215, R216: VREADL, VVOTE and VRED write one S or B register from the executing lanes, and nothing when none executes. -/
def Sys2Proof.Slice0.ReduceResult : Prop :=
  ∀ (s : State) (t : Th) (f : Fields) (ex : BitVec 64), Unarmed t →
    let n := f.dst.toNat
    let a := fun L => t.srcA f (wid f) L
    let idx := if f.immf then immInt f 32 else t.srcS 32 f.sb.toNat 2
    let x := match laneOfLid t.w ex idx.v with
      | some M => t.srcV (wid f) f.sa.toNat M 1
      | none => t.srcS (wid f) f.sc.toNat 3
    let p := t.srcP f.sa.toNat 1
    let w := fun L => t.srcV 32 f.sa.toNat L 1
    let hits := (lanesOf ex).filter fun L => p.v.testBit L
    let g := (guardSrc t f).any (·.bad)
    (Runs s t (.vreadl f) f .l ex → SoundLanes t f ex (fun _ => [x, idx]) → t.splitWrite n = false →
      exec (.vreadl f) s = .next (if ex = 0 then t else
        t.setS n (mkP (g || x.bad || idx.bad) (BitVec.ofNat 64 x.v))).retired) ∧
    (Runs s t (.vred f) f .l ex → SoundLanes t f ex (fun L => [a L]) → t.splitWrite n = false →
      exec (.vred f) s = .next (if ex = 0 then t else
        t.setS n (mkP (g || (lanesOf ex).any fun L => (a L).bad)
          (BitVec.ofNat 64 (regForm f.ty.toNat 64 (redR f ((lanesOf ex).map fun L => (a L).v)))))).retired) ∧
    (Runs s t (.vvote f) f .l ex → f.sub = 0 → p.bad = false → SoundLanes t f ex (fun _ => [p]) → t.splitWrite n = false →
      exec (.vvote f) s = .next (if ex = 0 then t else t.setS n (mkW (maskOf 64 (hits.map t.w.lidOf)))).retired) ∧
    (Runs s t (.vvote f) f .l ex → f.sub = 1 ∨ f.sub = 2 → p.bad = false → SoundLanes t f ex (fun _ => [p]) →
      exec (.vvote f) s = .next (if ex = 0 then t else t.setB n (mkW (BitVec.ofBool
        (if f.sub = 1 then (lanesOf ex).any fun L => p.v.testBit L else (lanesOf ex).all fun L => p.v.testBit L)))).retired) ∧
    (Runs s t (.vvote f) f .l ex → f.sub = 3 → SoundLanes t f ex (fun L => [w L]) →
      exec (.vvote f) s = .next (if ex = 0 then t else
        t.setB n (mkP (g || (lanesOf ex).any fun L => (w L).bad) (BitVec.ofBool
          ((lanesOf ex).all fun L => (lanesOf ex).all fun M => (w L).v == (w M).v)))).retired)

/-- R213 to R216: the cross-lane instructions. -/
def Obligations.CrossLaneResult : Prop := ShuffleResult ∧ ScanResult ∧ ReduceResult

/-- R211: SETEXM sets the execute mask to the lanes of MASK that its source and its guard name; GETEXM and PATHINFO write an S
register even when no lane executes. -/
def Sys2Proof.Slice0.ExecuteMaskResult : Prop :=
  ∀ (s : State) (t : Th) (f : Fields) (ex : BitVec 64), Unarmed t →
    let n := f.dst.toNat
    let x := t.sreg f.sb.toNat
    (∀ g, Runs s t (.setexm f) f .l ex → guardOf t .l f = .ok g → bad x = false →
      Sound (guardSrc t f ++ [t.srcS 64 f.sb.toNat 2]) →
      exec (.setexm f) s = .next (({ t with p := { t.p with exm := t.p.mask &&& x.v &&& g } } : Th)).retired) ∧
    (Runs s t (.getexm f) f .l ex → Sound (guardSrc t f) → t.splitWrite n = false →
      exec (.getexm f) s = .next (t.setS n (mkW (if f.sub = 1 then t.p.mask else t.p.exm))).retired) ∧
    (Runs s t (.pathinfo f) f .l ex → Sound (guardSrc t f) → t.splitWrite n = false →
      exec (.pathinfo f) s = .next (t.setS n (mkW (pathInfo t))).retired)

/-- R198 to R201, R211: packing, seeds, and the execute mask. -/
def Obligations.PackSeedAndMaskResult : Prop := PackAndSeedResult ∧ ExecuteMaskResult

/-! ## Exceptions -/

namespace Sys2Proof.Slice0

/-- The wave has a handler it can enter: it is not in handler mode, and TVEC holds an address of a slot (R141). -/
def Handles (t : Th) : Prop := t.w.hmode = false ∧ t.w.tvec ≠ 0 ∧ t.w.tvec.toNat % 8 < 5

/-- The path in its handler with the trap `x` in the records: TCAUSE holds the cause, CORR and the subcode, TIA the
instruction, TPATH the path's index, half-wave, return depth and loop depth; the path stands at TVEC, its held copies are
gone, and no register, no memory and no other path is changed; where no record type is enabled SPDROP counts the record of the
trap (R111, R141, R142, R364). -/
def inHandler (t : Th) (x : Trap) : Th :=
  { t with
    s := t.s.spdrop t.w.pasid 1
    w := { (t.w.dropHeld t.p.eid) with
      tcause := BitVec.ofNat 64 (x.cause + (if x.corr then 2 ^ 8 else 0) + x.sub * 2 ^ 16),
      tia := x.tia.getD t.p.pia, tlanes := x.lanes, taddr := x.addr, tinfo := BitVec.ofNat 64 x.info,
      tpath := BitVec.ofNat 64 (t.p.idx + (if t.w.half then 2 ^ 3 else 0) + t.rsd * 2 ^ 4 + t.w.d * 2 ^ 12),
      hmode := true, hpath := t.p.eid }
    p := { t.p with pia := normPc t.w.tvec, xfer := none, line := none, wait := .none, age := 0, yielded := false,
                    ibpSkip := false, tokWait := false } }

end Sys2Proof.Slice0

/-- R141, R142: taking an exception. -/
def Sys2Proof.Slice0.TrapEntryRecords : Prop :=
  ∀ (t : Th) (x : Trap), t.s.dbg = [] → Handles t → enterTrap t x = (inHandler t x).commit

/-- R141, R350, R353, R368: an exception in handler mode, or with TVEC zero, ends the crew as an abort, with the records of the
trap in the error record; where a check has failed for good the die's recordings freeze first. -/
def Sys2Proof.Slice0.TrapWithoutHandler : Prop :=
  ∀ (t : Th) (x : Trap), (t.w.hmode = true ∨ t.w.tvec = 0) →
    enterTrap t x = (t.failed x).commit.abortCrew t.w.crew x.cause (trapRecs (setTrapRecs t x))

/-- R141, R142, R350: taking an exception, with a handler and without one. -/
def Obligations.TrapEntry : Prop := TrapEntryRecords ∧ TrapWithoutHandler

/-- R119, R120, R134, R141, R348: a word whose opcode is no instruction raises ILLEGAL_OP; a privileged instruction outside
handler mode and an SWRITE of a register marked H raise PRIV_OP; a field that offends raises ILLEGAL_FIELD with its lowest
bit in TINFO. Nothing else is changed but the records, the mode and the path's address. -/
def Sys2Proof.Slice0.IllegalInstructionTraps : Prop :=
  ∀ (s : State) (t : Th) (f : Fields), Quiet s t → Handles t →
    (∀ w : BitVec 96, exec (.illegalOp w) s = .next (inHandler t { cause := 0x01 }).commit) ∧
    (∀ mk ∈ ([.trap, .tretRetry, .tretSkip, .gensync, .csrd, .cswr, .tlbinv] : List (Fields → Instr)),
      exec (mk f) s = .next (inHandler t { cause := 0x05 }).commit) ∧
    (isHandlerOnly (yNum f).toNat = true → exec (.swrite f) s = .next (inHandler t { cause := 0x05 }).commit) ∧
    (∀ r ∈ scalarBinaries, ∀ bit, fieldErr t.lim (r.1 f) = some bit →
      exec (r.1 f) s = .next (inHandler t { cause := 0x02, info := bit }).commit) ∧
    (∀ r ∈ vectorBinaries, ∀ bit, fieldErr t.lim (r.1 f) = some bit →
      exec (r.1 f) s = .next (inHandler t { cause := 0x02, info := bit }).commit)

/-- The scalar instructions that INJ may hit, with their opcodes (R128, R181). -/
def eligibleScalars : List ((Fields → Instr) × Nat) :=
  [(.sadd, 0x01), (.ssub, 0x02), (.smul, 0x03), (.smulh, 0x04), (.sdiv, 0x05), (.srem, 0x06), (.sand, 0x07), (.sor, 0x08),
   (.sxor, 0x09), (.sshl, 0x0A), (.sshr, 0x0B), (.ssra, 0x0C), (.smin, 0x0D), (.smax, 0x0E), (.smov, 0x0F), (.ssel, 0x10),
   (.scmp, 0x11), (.slea, 0x12), (.sclz, 0x13), (.spopc, 0x14), (.sbfx, 0x15), (.sbfi, 0x16)]

/-- R109, R181: an instruction of class C whose guard is false has no effect but to be retired, and to disarm INJ where it is
a scalar instruction that INJ waits for. -/
def Obligations.FalseGuardHasNoEffect : Prop :=
  (∀ r ∈ eligibleScalars, ∀ (s : State) (t : Th) (f : Fields), Plain s t → fieldErr t.lim (r.1 f) = none →
      guardOf t .c f = .ok 0 →
    exec (r.1 f) s = .next ({ t with w := { t.w with inj := if t.w.hmode = false ∧ t.w.inj.getLsbD 63 = true ∧
      (fld t.w.inj 47 40 = 0 ∨ fld t.w.inj 47 40 = r.2) then setBit t.w.inj 63 false else t.w.inj } } : Th).retired) ∧
  ∀ mk ∈ ([.bra, .call, .ret, .loop, .exit, .sst, .sld, .satom, .mma, .mdrain, .xcopy, .binit, .contend, .mark,
      .rplend] : List (Fields → Instr)), ∀ (s : State) (t : Th) (f : Fields),
    Plain s t → fieldErr t.lim (mk f) = none → guardOf t .c f = .ok 0 → exec (mk f) s = .next t.retired

/-- R41, R176, R177: a scalar instruction that reads a source whose residue is not that of its bits, twice, raises
RESIDUE_CHECK with the code of the source in TINFO, and writes nothing. -/
def Sys2Proof.Slice0.BadResidueTraps : Prop :=
  ∀ r ∈ scalarBinaries, ∀ (s : State) (t : Th) (f : Fields) (ex : BitVec 64),
    let a := t.srcS (wid f) f.sa.toNat 1
    let b := t.scalB f (wid f)
    Runs s t (r.1 f) f .c ex → Handles t → t.splitWrite f.dst.toNat = false → Unarmed t → a.ok = false → b.ok = true →
    exec (r.1 f) s = .next (inHandler t { cause := 0x08, info := 1 + f.sa.toNat * 2 ^ 8 }).commit

/-- R119, R120, R127, R134, R176, R177: where the instructions of every family trap before they have an effect. -/
def Obligations.SynchronousTraps : Prop := SplitScalarWrite ∧ IllegalInstructionTraps ∧ BadResidueTraps

/-- R144: TRET.retry resumes at TIA; TRET.skip at the slot after it. Both leave handler mode. -/
def Obligations.TrapReturn : Prop :=
  ∀ (s : State) (t : Th) (f : Fields) (ex : BitVec 64), t.w.hmode = true →
    let back := fun (a : BitVec 64) (skip : Bool) =>
      ({ t with w := { (t.w.agedHeld t.p.eid) with hmode := false, hsave := none, wdog := s.ptime },
                p := { t.p with pia := a, xfer := none, line := none, wait := .none, age := 0, yielded := false,
                                ibpSkip := !skip && t.w.hsave.isSome, tokWait := false } } : Th).commit
    t.w.tia.toNat % 8 < 5 →
    (Runs s t (.tretRetry f) f .c ex → exec (.tretRetry f) s = .next (back (normPc t.w.tia) false)) ∧
    (Runs s t (.tretSkip f) f .c ex → exec (.tretSkip f) s = .next (back (nextAddr (normPc t.w.tia)) true))

/-- R145: in handler mode TRAP ends the crew as an abort and logs one record of class 1 with CODE SOFTWARE (0x40), the six trap
records of the trap being handled, and NUM in bits 15 to 0 of word 9; outside handler mode it raises PRIV_OP. -/
def Obligations.TrapAborts : Prop :=
  ∀ (s : State) (t : Th) (f : Fields),
    (∀ ex c, Runs s t (.trap f) f .c ex → t.w.hmode = true → t.commit.crew t.w.crew = some c →
      c.st ≠ .saving → c.st ≠ .restoring →
      ∃ r : LogRec, r.cls = 1 ∧ r.code = 0x40 ∧ r.carav = c.carav ∧ r.crew = c.idx ∧
        r.t = [t.w.tcause, t.w.tia, t.w.tlanes, t.w.tpath, t.w.taddr, t.w.tinfo] ∧ r.w9 = BitVec.ofNat 64 (yNum f).toNat ∧
        let u := ((t.commit.cancelCrew c).logError c.fn r).endCrew c true
        (u.badPa = none → exec (.trap f) s = .next u)) ∧
    (Quiet s t → t.w.hmode = false → exec (.trap f) s = answer (enterTrap t { cause := 0x05 }))

/-! ## Branches, loops and paths -/

/-- R102, R136 to R138: BRA and BRX go to their target, which the path checks on arrival; CALL and CALLX push the address of
the next slot and the open levels; RET pops the newest record of its own path and goes there. -/
def Sys2Proof.Slice0.BranchResult : Prop :=
  ∀ (s : State) (t : Th) (f : Fields) (ex : BitVec 64),
    let near := addrOf (linear t.p.pia + f.hi.toInt)
    let x := t.sreg f.sa.toNat
    let push : Th := { t with p := { t.p with recs := { addr := nextAddr t.p.pia, ldep := 0, spill := none } :: t.p.recs } }
    let room := poolSize (t.w.putPath t.p) < 16
    (Runs s t (.bra f) f .c ex → exec (.bra f) s = .next (t.retiredAt near true true)) ∧
    (Runs s t (.brx f) f .c ex → Unarmed t → bad x = false → sound x = true →
      exec (.brx f) s = .next (t.retiredAt x.v true true)) ∧
    (Runs s t (.call f) f .c ex → room → exec (.call f) s = .next (push.retiredAt near true true)) ∧
    (Runs s t (.callx f) f .c ex → room → Unarmed t → bad x = false → sound x = true →
      exec (.callx f) s = .next (push.retiredAt x.v true true)) ∧
    (∀ r rest, Runs s t (.ret f) f .c ex → t.p.recs = r :: rest → r.spill = none →
      exec (.ret f) s = .next (({ t with p := { t.p with recs := rest } } : Th).retiredAt r.addr true true))

/-- R138: RET with no record on its path raises ILLEGAL_TARGET. -/
def Sys2Proof.Slice0.ReturnWithoutRecord : Prop :=
  ∀ (s : State) (t : Th) (f : Fields) (ex : BitVec 64), Runs s t (.ret f) f .c ex → Handles t → t.p.recs = [] →
    exec (.ret f) s = .next (inHandler t { cause := 0x03 }).commit

/-- R102, R136 to R138: branches, calls and returns. -/
def Obligations.BranchAndReturnResult : Prop := BranchResult ∧ ReturnWithoutRecord

/-- The line of `a` is delivered to path `t`, with no other effect, and its target bit is set (R99,
R100). -/
def LegalTarget (t : Th) (a : BitVec 64) : Prop :=
  a.toNat < 2 ^ 57 ∧ ∃ u d, fetchLine { t with p := { t.p with pia := a } } = .ok u d ∧ u.s = t.s ∧ u.w = t.w ∧
    (lineWord d).getLsbD (a.toNat % 8) = true

/-- R206: a BRV that no lane takes goes on; one that every lane takes goes to its target; any other splits the path. The
entry becomes the join, at the reconvergence address with its MASK and EXM kept; the taken arm holds the lanes that take,
the not-taken arm the others; both stand one level deeper. A target beyond the address space, or whose line has no target bit
there, raises ILLEGAL_TARGET on the path before it splits or jumps. -/
def Sys2Proof.Slice0.VectorBranchResult : Prop :=
  ∀ (s : State) (t : Th) (f : Fields) (tk : BitVec 64),
    let a := addrOf (linear t.p.pia + toSigned 16 (fld f.hi 15 0))
    let rc := addrOf (linear t.p.pia + toSigned 16 (fld f.hi 31 16))
    Runs s t (.brv f) f .l tk → Unarmed t → Sound (guardSrc t f) →
    (tk = 0 → exec (.brv f) s = .next t.retired) ∧
    (2 ^ 57 ≤ a.toNat ∨ (∃ u d, fetchLine { t with p := { t.p with pia := a } } = .ok u d ∧ u.s = t.s ∧ u.w = t.w ∧
        (lineWord d).getLsbD (a.toNat % 8) = false) → tk ≠ 0 → Handles t →
      exec (.brv f) s = .next (inHandler t { cause := 0x03, tia := some a, info := t.p.pia.toNat }).commit) ∧
    (LegalTarget t a → tk = t.p.mask → tk ≠ 0 →
      exec (.brv f) s = .next (t.retiredAt (normPc a) false true)) ∧
    (LegalTarget t a → LegalTarget t rc → tk ≠ 0 → tk ≠ t.p.mask →
      2 ≤ (t.w.putPath t.p).freeIdx.length → a ≠ rc → nextAddr t.p.pia ≠ rc → t.p.eid < t.w.nextEid →
      ∃ s' w', exec (.brv f) s = .next s' ∧ s'.wave t.wk = some w' ∧
        (∃ j ∈ w'.paths, j.eid = t.p.eid ∧ j.st = .join ∧ j.pia = rc ∧ j.mask = t.p.mask ∧ j.exm = t.p.exm) ∧
        (∃ n ∈ w'.paths, n.parent = some t.p.eid ∧ n.taken = false ∧ n.st = .running ∧ n.pia = nextAddr t.p.pia ∧
          n.mask = t.p.mask &&& ~~~tk ∧ n.exm = t.p.exm &&& (t.p.mask &&& ~~~tk) ∧ n.rca = rc ∧ n.level = t.p.level + 1 ∧
          n.s = t.p.s ∧ n.b = t.p.b) ∧
        (∃ k ∈ w'.paths, k.parent = some t.p.eid ∧ k.taken = true ∧ k.st = .running ∧ k.pia = a ∧ k.mask = tk ∧
          k.exm = tk ∧ k.rca = rc ∧ k.level = t.p.level + 1 ∧ k.s = t.p.s ∧ k.b = t.p.b) ∧ s'.ms = s.ms)

/-- R207, R208: RCV takes an arm to its reconvergence address, where it waits while the other arm has not arrived; when both
are there the join runs again with the lanes of both. RCV of a path that is no arm raises ILLEGAL_TARGET. -/
def Sys2Proof.Slice0.ReconvergeResult : Prop :=
  ∀ (s : State) (t : Th) (f : Fields) (g : BitVec 64),
    Quiet s t → fieldErr t.lim (.rcv f) = none → guardOf t .c f = .ok g → g ≠ 0 →
    (t.p.parent = none → Handles t → exec (.rcv f) s = .next (inHandler t { cause := 0x03 }).commit) ∧
    (∀ j, t.p.parent = some j → normPc t.p.rca = t.p.rca →
      (∃ q ∈ t.w.paths, q.parent = some j ∧ q.eid ≠ t.p.eid ∧ q.st = .running) →
      ∃ s' w', exec (.rcv f) s = .next s' ∧ s'.wave t.wk = some w' ∧
        ∃ p ∈ w'.paths, p.eid = t.p.eid ∧ p.st = .waiting ∧ p.pia = t.p.rca ∧ p.s = t.p.s) ∧
    (∀ j q jp, t.p.parent = some j → normPc t.p.rca = t.p.rca → t.w.spilled = [] → t.p.taken = true →
      jp.parent = none → jp.eid = j → t.w.path j = some jp → t.w.kids j = [q, t.p] ∨ t.w.kids j = [t.p, q] →
      q.taken = false → q.st = .waiting → q.eid ≠ t.p.eid → t.p.mask ||| q.mask ≠ 0 → jp.eid ≠ t.p.eid →
      (∀ r ∈ t.w.paths, r.eid = t.p.eid → r = t.p) →
      ∃ s' w', exec (.rcv f) s = .next s' ∧ s'.wave t.wk = some w' ∧
        ∃ p ∈ w'.paths, p.eid = j ∧ p.st = .running ∧ p.mask = t.p.mask ||| q.mask ∧
          p.exm = jp.exm &&& (t.p.mask ||| q.mask) ∧ p.s = mergeS t.p q ∧ p.b = mergeB t.p q)

/-- R206 to R208: a wave splits at BRV and joins at RCV. -/
def Obligations.DivergenceResult : Prop := VectorBranchResult ∧ ReconvergeResult

/-- R147, R150: LOOP on a path with no level open opens level 0 at the next slot, with COUNT from SA or the immediate and
COUNT + max(STG, 1) − 1 trips; a count of zero goes to the slot after the body and opens nothing. -/
def Sys2Proof.Slice0.LoopOpens : Prop :=
  ∀ (s : State) (t : Th) (f : Fields) (ex : BitVec 64),
    let immc := f.hi.getLsbD 28
    let stg := fld f.hi 27 24
    let rot := fld f.hi 23 16
    let x := t.sreg f.sa.toNat
    let count := if immc then f.sc.toNat * 256 + f.sb.toNat else x.v.toNat
    let last := addrOf (linear t.p.pia + fld f.hi 15 0)
    let trips := count + max stg 1 - 1
    Runs s t (.loop f) f .c ex → Unarmed t → (immc = false → bad x = false ∧ sound x = true) → f.dst = 0 →
    ((t.w.paths ++ t.w.spilled).all fun q => q.eid == t.p.eid || q.st == .waiting || q.st == .join || q.st == .loopExit) = true →
    trips < 2 ^ 32 → (rot ≠ 0 → 192 + rot ≤ 8 * t.w.vregs) → last.toNat < 2 ^ 57 → t.rsd < 256 →
    (count = 0 → exec (.loop f) s = .next (t.retiredAt (nextAddr last) false false)) ∧
    (count ≠ 0 → ∃ u : Th, exec (.loop f) s = .next (u.retiredAt (nextAddr t.p.pia) false false) ∧
      (∃ l, u = { t with w := { t.w.setLevel 0 l with d := 1 }, p := { t.p with ldep := 1 } } ∧
        l.bits.getLsbD 255 = true ∧ l.rot = rot ∧ l.stg = stg ∧ l.rrb = 0 ∧ l.cdep = t.rsd ∧ l.hlev = t.w.hmode ∧
        l.ncnt = count ∧ l.iter = 0 ∧ l.rem = trips ∧ l.enda = last ∧ l.starta = nextAddr t.p.pia ∧
        ∀ j < 8, sound (l.word j) = true))

/-- R152, R156: retiring the instruction at the end of the body of the only open level goes back to its start with REM one
less, ITER one more, the rotating names moved on by one and the path's held copies dropped; with REM 1 the level closes and the path goes on. -/
def Sys2Proof.Slice0.BackEdge : Prop :=
  ∀ (s : State) (t : Th) (f : Fields), Quiet s t → t.p.parent = none → fieldErr t.lim (.nop f) = none → t.w.d = 1 →
    let l := t.w.level 0
    t.edgeApplies 0 = true → (∀ j ∈ [4, 5, 7], bad (l.word j) = false ∧ sound (l.word j) = true) →
    normPc l.starta = l.starta → l.iter + 1 < 2 ^ 32 → l.rot ≤ 64 →
    (1 < l.rem → ∃ l', exec (.nop f) s = .next (({ t with w := (t.w.setLevel 0 l').dropHeld t.p.eid } : Th).retiredAt l.starta false false) ∧
      l'.rem = l.rem - 1 ∧ l'.iter = l.iter + 1 ∧ l'.rrb = (if l.rot = 0 then l.rrb else (l.rrb + l.rot - 1) % l.rot) ∧
      l'.rot = l.rot ∧ l'.stg = l.stg ∧ l'.cdep = l.cdep ∧ l'.ncnt = l.ncnt ∧ l'.enda = l.enda ∧ l'.starta = l.starta) ∧
    (l.rem ≤ 1 → ∃ s' w', exec (.nop f) s = .next s' ∧ s'.wave t.wk = some w' ∧ w'.d = 0 ∧
      ∃ p ∈ w'.paths, p.eid = t.p.eid ∧ p.pia = nextAddr t.p.pia)

/-- R160: LBRK leaves the innermost level that acts on the path, for the slot after the end of its body; with no such level
it raises LOOP_NEST. -/
def Sys2Proof.Slice0.LoopBreak : Prop :=
  ∀ (s : State) (t : Th) (f : Fields) (g : BitVec 64),
    Quiet s t → t.p.parent = none → fieldErr t.lim (.lbrk f) = none → guardOf t .c f = .ok g → g ≠ 0 →
    (t.w.d = 0 → Handles t → exec (.lbrk f) s = .next (inHandler t { cause := 0x10 }).commit) ∧
    (t.w.d = 1 → t.acts 0 = true →
      exec (.lbrk f) s = .next ((t.leaves 0).retiredAt (nextAddr (t.w.level 0).enda) false false))

/-- R121, R139, R104, R58: NOP and the instructions that only order or advise. -/
def Sys2Proof.Slice0.ControlHintResult : Prop :=
  ∀ (s : State) (t : Th) (f : Fields) (ex : BitVec 64),
    (Runs s t (.nop f) f .none ex → exec (.nop f) s = .next t.retired) ∧
    (Runs s t (.yield f) f .c ex →
      exec (.yield f) s = .next (({ t with p := { t.p with yielded := true } } : Th)).retired) ∧
    (Runs s t (.setpri f) f .c ex →
      exec (.setpri f) s = .next (({ t with w := { t.w with prio := f.hi.extractLsb' 0 2 } } : Th)).retired) ∧
    (Runs s t (.sleep f) f .c ex → exec (.sleep f) s = .next (if fld f.hi 15 0 = 0 then t.retired
      else waits t (.sleep (s.ptime + BitVec.ofNat 64 (fld f.hi 15 0))))) ∧
    (Runs s t (.fenceq f) f .c ex → exec (.fenceq f) s = .next (({ t with s := { s with ms := { s.ms with
      lrc := s.ms.lrc.filter fun x => x.core != t.w.coreN } } } : Th)).retired) ∧
    (Runs s t (.fencei f) f .c ex → ∃ s' w', exec (.fencei f) s = .next s' ∧ s'.wave t.wk = some w' ∧
      (∀ l ∈ s'.ms.ilines, l.core ≠ t.w.coreN) ∧ (∀ p ∈ w'.paths, p.line = none) ∧ s'.ms.phys = s.ms.phys)

/-- R139, R60: EXIT ends its path; the wave ends with its last path, and a wave ended by EXIT in handler mode ends with every
path. While other waves of the crew run, the crew goes on. -/
def Sys2Proof.Slice0.ExitResult : Prop :=
  ∀ (s : State) (t : Th) (f : Fields) (ex : BitVec 64), Runs s t (.exit f) f .c ex →
    ((t.w.hmode = true ∨ (t.w.paths = [t.p] ∧ t.w.spilled = [])) →
      (∃ x ∈ s.waves, x.1 ≠ t.wk ∧ x.2.crew = t.w.crew ∧ x.2.ended = false) → (s.crew t.w.crew).isSome = true →
      ∃ s' w', exec (.exit f) s = .next s' ∧ s'.wave t.wk = some w' ∧ w'.ended = true ∧ w'.paths = [] ∧ w'.spilled = [] ∧
        s'.ms = s.ms ∧ ∀ wk, wk ≠ t.wk → s'.wave wk = s.wave wk) ∧
    (t.w.hmode = false → t.w.spilled = [] → (∃ q ∈ t.w.paths, q.eid ≠ t.p.eid ∧ q.st = .running) →
      ∃ s' w', exec (.exit f) s = .next s' ∧ s'.wave t.wk = some w' ∧ w'.ended = t.w.ended ∧
        w'.paths = t.w.paths.filter (fun q => q.eid != t.p.eid) ∧ s'.ms = s.ms ∧ s'.crews = s.crews ∧
        ∀ wk, wk ≠ t.wk → s'.wave wk = s.wave wk)

/-- R121, R139, R58, R60: the instructions that advise or order, and EXIT. -/
def Obligations.HintAndExitResult : Prop := ControlHintResult ∧ ExitResult

/-! ## Loads, stores and atomics

Stated where every lane's address lies in the crew's scratchpad (R219, R221), whose bytes are at hand; the checks before any
access and the translation of other addresses are stated below. -/

namespace Sys2Proof.Slice0

/-- The lanes of an access lie in the scratchpad `m` of the path's crew at the byte offsets `off`, aligned, with addresses that
are not poisoned and sources that pass their checks (R221, R230, R233). -/
structure InScratch (t : Th) (f : Fields) (a : Acc) (strided : Bool) (ex : BitVec 64) (m : Mem) (off : Nat → Nat) : Prop where
  crew  : ∃ k, t.s.crews.filter (fun c => c.h == t.w.crew) = [k] ∧ k.scr = m ∧
    ∀ L ∈ accLanes t a.c ex, off L + a.n ≤ k.scrSize
  place : ∀ L ∈ accLanes t a.c ex, aperture t.s t.w.pasid (laneAddr t f strided L) = some (0, off L) ∧
    (laneAddr t f strided L).toNat % a.align = 0
  srcs  : ∀ L ∈ accLanes t a.c ex, Sound (guardSrc t f ++ addrSrcs t f L) ∧ (addrSrcs t f L).any (·.bad) = false

/-- The words that hold the `n` bytes at offset `o`. -/
def wordsOf (m : Mem) (o n : Nat) : List (RWord 32) := m.words (o / 4) ((o % 4 + n + 3) / 4)

/-- The path with the scratchpad of its crew replaced. -/
def withScratch (t : Th) (m : Mem) : Th := { t with s := t.s.modScr t.w.crew fun _ => m }

/-- The path after a load of the lanes `ls`: an acquire has observed the stores on their way (R315). -/
def acquired (t : Th) (f : Fields) (ls : List Nat) : Th := if ls.isEmpty then t else t.acquires f

/-- The path after a store of the lanes `ls` to its crew's scratchpad, which becomes `m`. -/
def stored (t : Th) (ls : List Nat) (m : Mem) : Th := if ls.isEmpty then t else (withScratch t m).made t.s.ms.nextSid

/-- The path after a vector load: each lane's element in register form, or its words; a word that is poison poisons every
destination word of its lane (R41, R237). -/
def loaded (t : Th) (f : Fields) (ex : BitVec 64) (m : Mem) (off : Nat → Nat) : Th :=
  let n := tyBytes f
  (t.w.byLid ex).foldl (fun u L =>
    if f.sub = 0 then
      u.putV f.dst.toNat L (tyWide f.ty) ((wordsOf m (off L) n).any bad)
        (regForm f.ty.toNat (if tyWide f.ty then 64 else 32) (m.nat (off L) n))
    else (List.range (2 ^ f.sub.toNat)).foldl (fun u j =>
      u.setV (f.dst.toNat + j) L (mkP ((wordsOf m (off L) (2 ^ f.sub.toNat * n)).any bad) (m.word (off L / 4 + j)).v)) u)
    (acquired t f (t.w.byLid ex))

/-- Do the `n` bytes at two offsets overlap? -/
def overlap (n o p : Nat) : Prop := o < p + n ∧ p < o + n

/-- The value of store data given piece by piece, low piece first. -/
def dataNat (l : List Src) : Nat := l.foldr (fun x a => x.v + 2 ^ 32 * a) 0

/-- `m'` is `m` with the lanes' data stored, a higher LID over a lower one (R236): other bytes keep their value; a lane that no
later lane overlaps finds its data, poisoned word by word; each block written is RAW and 127 (R55). -/
def Stored (m m' : Mem) (lanes : List Nat) (off : Nat → Nat) (n : Nat) (data : Nat → List Src) : Prop :=
  (∀ a, (∀ L ∈ lanes, a < off L ∨ off L + n ≤ a) → m'.byte a = m.byte a) ∧
  (∀ pre L post, lanes = pre ++ L :: post → (∀ M ∈ post, ¬ overlap n (off L) (off M)) →
    m'.nat (off L) n = dataNat (data L) ∧
    (4 ≤ n → ∀ j < n / 4, bad (m'.word (off L / 4 + j)) = ((data L).getD j noSrc).bad)) ∧
  (∀ b, m'.pair b = if lanes.any (fun L => off L / 64 ≤ b && b ≤ (off L + n - 1) / 64) then rawPair else m.pair b)

end Sys2Proof.Slice0

/-- R230, R232, R237, R238: a load of the scratchpad writes each lane's element, of the bytes at its address low byte first,
in register form, poisoned where a word that holds it is; memory is not changed. -/
def Sys2Proof.Slice0.ScratchLoadResult : Prop :=
  ∀ (s : State) (t : Th) (f : Fields) (ex : BitVec 64) (m : Mem) (off : Nat → Nat), Unarmed t →
    (let a := loadAcc 0xA0 f (2 ^ f.sub.toNat)
     Runs s t (.vld f) f .l ex → InScratch t f a false ex m off →
      (∀ L ∈ t.w.byLid ex, (wordsOf m (off L) a.n).all sound = true) →
      exec (.vld f) s = .next (loaded t f ex m off).retired) ∧
    (let a := loadAcc 0xA2 f (2 ^ f.sub.toNat)
     Runs s t (.vlds f) f .l ex → InScratch t f a true ex m off →
      (∀ L ∈ t.w.byLid ex, (wordsOf m (off L) a.n).all sound = true) →
      exec (.vlds f) s = .next (loaded t f ex m off).retired) ∧
    (let a := { loadAcc 0xA4 f 1 with c := true }
     Runs s t (.sld f) f .c ex → t.splitWrite f.dst.toNat = false → InScratch t f a false ex m off →
      (wordsOf m (off 0) a.n).all sound = true →
      exec (.sld f) s = .next ((t.acquires f).setS f.dst.toNat (mkP ((wordsOf m (off 0) a.n).any bad)
        (BitVec.ofNat 64 (regForm f.ty.toNat 64 (m.nat (off 0) a.n))))).retired)

/-- R230, R235 to R238: a store to the scratchpad changes the bytes it names and no others, where the words that it writes in
part pass their checks. -/
def Sys2Proof.Slice0.ScratchStoreResult : Prop :=
  ∀ (s : State) (t : Th) (f : Fields) (ex : BitVec 64) (m : Mem) (off : Nat → Nat), Unarmed t → relWaits t f = false →
    (∀ mk ∈ ([(.vst, false), (.vsts, true)] : List ((Fields → Instr) × Bool)),
      let a := storeAcc (if mk.2 then 0xA3 else 0xA1) f (2 ^ f.sub.toNat)
      Runs s t (mk.1 f) f .l ex → InScratch t f a mk.2 ex m off → (∀ L ∈ t.w.byLid ex, Sound (storeData t f L)) →
      (4 ≤ a.n ∨ ∀ L ∈ t.w.byLid ex, (wordsOf m (off L) a.n).all sound = true) →
      ∃ m', exec (mk.1 f) s = .next (stored t (t.w.byLid ex) m').retired ∧
        Stored m m' (t.w.byLid ex) off a.n (storeData t f)) ∧
    (let a := { storeAcc 0xA5 f 1 with c := true }
     Runs s t (.sst f) f .c ex → InScratch t f a false ex m off → Sound (scalarData t f 0) →
      (4 ≤ a.n ∨ (wordsOf m (off 0) a.n).all sound = true) →
      ∃ m', exec (.sst f) s = .next (stored t [0] m').retired ∧ Stored m m' [0] off a.n (scalarData t f))

/-- R230, R232, R235 to R238: loads and stores of the scratchpad. -/
def Obligations.ScratchAccessResult : Prop := ScratchLoadResult ∧ ScratchStoreResult

/-- R239: an atomic reads the old value, writes the new one and returns the old: here for one lane, or one scalar access, of
clean words and clean operands. -/
def Sys2Proof.Slice0.ScratchAtomicResult : Prop :=
  ∀ (s : State) (t : Th) (f : Fields) (ex : BitVec 64) (m : Mem) (off : Nat → Nat), Unarmed t → relWaits t f = false →
    let n := tyBytes f
    (∀ L, let a := atomAcc 0xA6 f
      let old := m.nat (off L) n
      let c := (vatomData t f L).headD noSrc
      let d := (vatomData t f L).getD 1 noSrc
      Runs s t (.vatom f) f .l ex → t.w.byLid ex = [L] → InScratch t f a false ex m off →
      Sound (vatomData t f L) → (vatomWords t f L).any (·.bad) = false →
      ((wordsOf m (off L) n).all fun w => sound w && !bad w) = true →
      ∃ m', exec (.vatom f) s = .next (((stored t [L] m').acquires f).putV f.dst.toNat L (tyWide f.ty) false old).retired ∧
        (∀ b, b < off L ∨ off L + n ≤ b → m'.byte b = m.byte b) ∧
        m'.nat (off L) n = atomNew f.sub.toNat f.ty.toNat old c.v d.v) ∧
    (let a := { atomAcc 0xA7 f with c := true }
     let old := m.nat (off 0) n
     let c := (satomData t f 0).headD noSrc
     let d := (satomData t f 0).getD 1 noSrc
     Runs s t (.satom f) f .c ex → t.splitWrite f.dst.toNat = false → InScratch t f a false ex m off →
      Sound (satomData t f 0) → (satomData t f 0).any (·.bad) = false →
      ((wordsOf m (off 0) n).all fun w => sound w && !bad w) = true →
      ∃ m', exec (.satom f) s = .next (((stored t [0] m').acquires f).setS f.dst.toNat
          (mkW (BitVec.ofNat 64 (regForm f.ty.toNat 64 old)))).retired ∧
        (∀ b, b < off 0 ∨ off 0 + n ≤ b → m'.byte b = m.byte b) ∧
        m'.nat (off 0) n = atomNew f.sub.toNat f.ty.toNat old c.v d.v)

/-- The new value of an atomic (R239), in exact integers: the sum modulo 2^W, the lesser or greater by the type, the Boolean
combinations, the exchange, and the compare and swap. -/
def Sys2Proof.Slice0.AtomicFunctions : Prop :=
  ∀ ty ∈ [5, 6, 7, 8], ∀ old c d : Nat, old < 2 ^ tyW ty → c < 2 ^ tyW ty →
    let i := rdInt (tySigned ty) (tyW ty)
    atomNew 0 ty old c d = (old + c) % 2 ^ tyW ty ∧
    i (atomNew 1 ty old c d) = min (i old) (i c) ∧ i (atomNew 2 ty old c d) = max (i old) (i c) ∧
    atomNew 3 ty old c d = old &&& c ∧ atomNew 4 ty old c d = old ||| c ∧ atomNew 5 ty old c d = old ^^^ c ∧
    atomNew 6 ty old c d = c ∧ atomNew 7 ty old c d = (if old = c then d else old)

/-- R239: atomics of the scratchpad, and the functions they apply. -/
def Obligations.AtomicResult : Prop := ScratchAtomicResult ∧ AtomicFunctions

/-- R244, R240, R241, R254: in the scratchpad the cache maintenance forms other than .zero change nothing; .zero clears its
64-byte block, RAW and 127; a prefetch changes nothing; VLDF reads the pair of the block. -/
def Sys2Proof.Slice0.ScratchMaintenanceResult : Prop :=
  ∀ (s : State) (t : Th) (f : Fields) (ex : BitVec 64) (m : Mem) (off : Nat → Nat), Unarmed t →
    let a : Acc := { op := 0xAD, c := true, n := 1, align := 1, nd := { r := true } }
    (∀ mk ∈ ([.cmaintWb, .cmaintInv, .cmaintWbinv] : List (Fields → Instr)), Runs s t (mk f) f .c ex →
      InScratch t f a false ex m off → exec (mk f) s = .next t.retired) ∧
    (Runs s t (.cmaintZero f) f .c ex → InScratch t f a false ex m off →
      ∃ m', exec (.cmaintZero f) s = .next (stored t [0] m').retired ∧
        (∀ b, m'.byte b = if b / 64 = off 0 / 64 then 0 else m.byte b) ∧
        (∀ w, w / 16 = off 0 / 64 → m'.word w = mkW 0) ∧
        ∀ b, m'.pair b = if b = off 0 / 64 then rawPair else m.pair b) ∧
    (Runs s t (.vprf f) f .l ex →
      (∀ L ∈ t.w.byLid ex, (aperture s t.w.pasid (laneAddr t f false L)).isSome = true) →
      exec (.vprf f) s = .next t.retired) ∧
    (Runs s t (.vldf f) f .l ex → InScratch t f { op := 0xAE, n := 1, align := 1, nd := { r := true } } false ex m off →
      exec (.vldf f) s = .next ((t.w.byLid ex).foldl (fun u L =>
        let p := m.pair (off L / 64)
        u.putV f.dst.toNat L false false (p.fmt.toNat + 256 * p.scale.toNat)) (acquired t f (t.w.byLid ex))).retired)

/-- R43, R58, R242, R243: SETQ and GETQ move one field of a shape register; LDQ loads the 16 words of a record that the core's
layout-record cache does not hold, and keeps it there; STQ stores the record. Reserved fields of a shape register stay zero. -/
def Sys2Proof.Slice0.ShapeRegisterResult : Prop :=
  ∀ (s : State) (t : Th) (f : Fields) (ex : BitVec 64) (m : Mem) (off : Nat → Nat), Unarmed t →
    let n := f.sc.toNat
    let x : Src := if f.immf then { noSrc with v := f.hi.toNat } else t.srcS 64 f.sb.toNat 2
    let q := t.srcQ f.sa.toNat 1 (qFieldWords n)
    let raw := dataNat q
    (Runs s t (.setq f) f .c ex → Sound [x] →
      exec (.setq f) s = .next ((qFieldWords n).foldl (fun u i => u.setQ f.dst.toNat i
        (mkP x.bad (BitVec.ofNat 32 (x.v / 2 ^ (32 * (i - (qField n).2 / 32))) &&& qMask i))) t).retired) ∧
    (Runs s t (.getq f) f .c ex → Sound q → t.splitWrite f.dst.toNat = false →
      exec (.getq f) s = .next (t.setS f.dst.toNat (mkP (q.any (·.bad)) (BitVec.ofNat 64
        (if n = 14 then raw % 2 ^ 30 else if 8 ≤ n ∧ n ≤ 13 then ofSigned 64 (toSigned 32 raw) else raw)))).retired) ∧
    (Runs s t (.ldq f) f .c ex → InScratch t f (recAcc 0xA9 { r := true }) false ex m off →
      (wordsOf m (off 0) 64).all sound = true →
      (s.ms.lrc.find? fun y => y.core == t.w.coreN && y.pa == recKey t.agent (.ls (off 0))) = none →
      exec (.ldq f) s = .next (({ t.acquires f with s := s.keepRecord t.agent (.ls (off 0)) (wordsOf m (off 0) 64) } : Th).setRecord
        f.dst.toNat (wordsOf m (off 0) 64)).retired) ∧
    (Runs s t (.stq f) f .c ex → InScratch t f (recAcc 0xAA { w := true }) false ex m off → relWaits t f = false →
      Sound (t.srcQ f.sc.toNat 3 (List.range 16)) →
      ∃ m', exec (.stq f) s = .next (stored t [0] m').retired ∧
        Stored m m' [0] off 64 fun _ => t.srcQ f.sc.toNat 3 (List.range 16))

/-- R43, R58, R240 to R244, R254: cache maintenance, prefetch, VLDF and the shape registers. -/
def Obligations.MaintenanceAndShapeResult : Prop := ScratchMaintenanceResult ∧ ShapeRegisterResult

/-- R158, R159: LSAVE stores the four loop levels as 32 words and closes them; LREST opens the levels of a valid record. -/
def Sys2Proof.Slice0.LoopSaveRestore : Prop :=
  ∀ (s : State) (t : Th) (f : Fields) (g : BitVec 64) (m : Mem) (off : Nat → Nat), Quiet s t → t.p.parent = none →
    Unarmed t → guardOf t .c f = .ok g → g ≠ 0 →
    ((t.w.paths ++ t.w.spilled).all fun q => q.eid == t.p.eid || q.st == .join || q.ldep == 0) = true →
    (fieldErr t.lim (.lsave f) = none → InScratch t f (levelAcc 0x29 { w := true }) false g m off → relWaits t f = false →
      Sound (levelData t 0) → (∀ n < t.w.d, t.edgeApplies n = false) →
      ∃ m' s' w', exec (.lsave f) s = .next s' ∧ s'.wave t.wk = some w' ∧ w'.d = 0 ∧
        s'.crews = (withScratch t m').s.crews ∧ Stored m m' [0] off 128 (levelData t) ∧
        (∀ n < 4, (w'.level n).bits = setBit (t.w.level n).bits 255 false)) ∧
    (fieldErr t.lim (.lrest f) = none → InScratch t f (levelAcc 0x2A { r := true }) false g m off → t.w.d = 0 →
      ((wordsOf m (off 0) 128).all fun w => sound w && !bad w) = true →
      let lv := fun n => levelOf (BitVec.ofNat 256 (m.nat (off 0 + 32 * n) 32))
      ∀ d ≤ 4, (∀ n < 4, (lv n).bits.getLsbD 255 = decide (n < d)) → (∀ n < 4, levelBad (lv n) = false) →
      (∀ n < d, (lv n).enda ≠ t.p.pia) →
      ∃ s' w', exec (.lrest f) s = .next s' ∧ s'.wave t.wk = some w' ∧ w'.d = d ∧ (∀ n < 4, w'.level n = lv n) ∧
        s'.crews = s.crews ∧ s'.ms = s.ms)

/-- R147, R150, R152, R156, R158 to R160: a loop level opens, goes round, is left, saved and restored. -/
def Obligations.LoopResult : Prop := LoopOpens ∧ BackEdge ∧ LoopBreak ∧ LoopSaveRestore

/-- R230, R233, R41: an access whose address is poisoned in a lane raises POISON_USE, and one whose address is not a multiple
of the required alignment MISALIGNED, before any lane accesses memory. -/
def Sys2Proof.Slice0.AccessChecks : Prop :=
  ∀ (s : State) (t : Th) (f : Fields) (ex : BitVec 64), Handles t →
    (let poisoned := (t.w.byLid ex).filter fun L => (addrSrcs t f L).any (·.bad)
     let L := poisoned.headD 0
     ∀ mk ∈ ([.vld, .vst, .vatom, .vldf] : List (Fields → Instr)), Runs s t (mk f) f .l ex → poisoned ≠ [] →
      exec (mk f) s = .next (inHandler t
        { cause := 0x09, info := badReg (addrSrcs t f L), lanes := maskOf 64 poisoned, addr := laneAddr t f false L }).commit) ∧
    (let n := 2 ^ f.sub.toNat * tyBytes f
     let crooked := (t.w.byLid ex).filter fun L => (laneAddr t f false L).toNat % n ≠ 0
     ∀ mk ∈ ([.vld, .vst] : List (Fields → Instr)), Runs s t (mk f) f .l ex → crooked ≠ [] →
      (∀ L ∈ t.w.byLid ex, (addrSrcs t f L).any (·.bad) = false) →
      exec (mk f) s = .next (inHandler t
        { cause := 0x28, lanes := maskOf 64 crooked, addr := laneAddr t f false (crooked.headD 0) }).commit)

/-- R250: the permission checks of a translation in their order: privilege, execute, read, write, atomic. -/
def Sys2Proof.Slice0.PermissionOrder : Prop :=
  ∀ (e : BitVec 64) (nd : Need) (hm : Bool),
    (leafP e = true → hm = false → permErr e nd hm = some (0x24, false)) ∧
    (leafP e = false ∨ hm = true → nd.x = true → leafX e = false → permErr e nd hm = some (0x22, false)) ∧
    (leafP e = false ∨ hm = true → (nd.x = true → leafX e = true) → nd.r = true → leafR e = false →
      permErr e nd hm = some (0x20, false)) ∧
    (leafP e = false ∨ hm = true → (nd.x = true → leafX e = true) → (nd.r = true → leafR e = true) → nd.w = true →
      leafW e = false → permErr e nd hm = some (0x21, leafR e)) ∧
    (permErr e nd hm = none ↔ (leafP e = false ∨ hm = true) ∧ (nd.x = true → leafX e = true) ∧
      (nd.r = true → leafR e = true) ∧ (nd.w = true → leafW e = true) ∧ (nd.a = true → leafA e = true))

/-- R230, R233, R41, R250: the checks an access meets, in their order. -/
def Obligations.AccessAndPermissionChecks : Prop := AccessChecks ∧ PermissionOrder

/-! ## Special registers, context registers and translation maintenance -/

/-- R134, R135: SREAD copies a special register to S[DST], or each lane's LID to V[DST]; SWRITE writes the writable bits of a
special register, and nothing of one that is read-only. -/
def Sys2Proof.Slice0.SpecialRegisterResult : Prop :=
  ∀ (s : State) (t : Th) (f : Fields) (ex : BitVec 64),
    let n := (yNum f).toNat
    let x := t.sreg f.sa.toNat
    (Runs s t (.sread f) f .c ex → n ≠ 0 → t.splitWrite f.dst.toNat = false →
      exec (.sread f) s = .next (t.setS f.dst.toNat (mkW (readSpecial t n))).retired) ∧
    (Runs s t (.sread f) f .c ex → n = 0 →
      exec (.sread f) s = .next ((lanesOf t.p.exm).foldl (fun u L =>
        u.setV f.dst.toNat L (mkW (BitVec.ofNat 32 (t.w.lidOf L)))) t).retired) ∧
    (Runs s t (.swrite f) f .c ex → isHandlerOnly n = true → t.w.hmode = true → Unarmed t → bad x = false →
      sound x = true → ∃ u : Th, exec (.swrite f) s = .next u.retired ∧ u.s = s ∧ u.p = t.p ∧
        readSpecial u n = x.v &&& specialMask n ∧
        ∀ k, k ≠ n → k ∈ [0x20, 0x21, 0x28, 0x29, 0x2A, 0x2B, 0x2C, 0x2D, 0x2E, 0x30, 0x31, 0x32, 0x33, 0x39] →
          readSpecial u k = readSpecial t k) ∧
    (Runs s t (.swrite f) f .c ex → isHandlerOnly n = false → Unarmed t → bad x = false → sound x = true →
      exec (.swrite f) s = .next t.retired)

/-- R146, R3, R253, R363: CSRD reads a context control register; CSWR writes it for the whole context, or for the core where
the register exists once per core, and keeps its reserved bits; GENSYNC raises the generation, waits until every
translation unit and memory controller of the partition holds it, and returns it. -/
def Sys2Proof.Slice0.ContextRegisterResult : Prop :=
  ∀ (s : State) (t : Th) (f : Fields) (ex : BitVec 64), t.w.hmode = true →
    let n := (yNum f).toNat
    let x := t.sreg f.sa.toNat
    (Runs s t (.csrd f) f .c ex →
      exec (.csrd f) s = .next (t.setS f.dst.toNat (mkW (if n = 0x140 then s.dpord (s.fnOfDie t.w.die)
        else s.dbgReg t.w.pasid t.w.coreN n))).retired) ∧
    (Runs s t (.cswr f) f .c ex → n ≠ 0x140 → perCore n = false → Unarmed t → bad x = false → sound x = true →
      ∃ u : Th, exec (.cswr f) s = .next u.retired ∧ u.w = t.w ∧ u.p = t.p ∧
        u.s.ctxReg t.w.pasid n = ctxWritten n (s.ctxReg t.w.pasid n) x.v ∧
        (∀ k, k ≠ n → u.s.ctxReg t.w.pasid k = s.ctxReg t.w.pasid k) ∧
        (∀ c k, c ≠ t.w.pasid → u.s.ctxReg c k = s.ctxReg c k) ∧ u.s.ms.phys = s.ms.phys ∧ u.s.crews = s.crews) ∧
    (Runs s t (.gensync f) f .c ex →
      let own := fun (y : GenSync) => y.crew = t.w.crew ∧ y.wid = t.w.wid ∧ y.eid = t.p.eid
      (s.syncOf t.w.pasid = none → exec (.gensync f) s = .next (waits { t with
        s := (s.putCtx t.w.pasid { s.ctx t.w.pasid with gen := (s.ctx t.w.pasid).gen + 1 }).putSync t.w.pasid
          { crew := t.w.crew, wid := t.w.wid, eid := t.p.eid, behind := s.genUnits t.w.die } } t.p.wait)) ∧
      (∀ y u l, s.syncOf t.w.pasid = some y → own y → y.behind = u :: l → exec (.gensync f) s =
        .next (waits { t with s := s.putSync t.w.pasid { y with behind := l } } t.p.wait)) ∧
      (∀ y, s.syncOf t.w.pasid = some y → ¬ own y → exec (.gensync f) s = .next (waits t t.p.wait)) ∧
      (∀ y, s.syncOf t.w.pasid = some y → own y → y.behind = [] → exec (.gensync f) s =
        .next (({ t with s := s.endSync t.w.pasid } : Th).setS f.dst.toNat
          (mkW ((s.ctx t.w.pasid).gen.zeroExtend 64))).retired))

/-- R3: a write of a context control register changes no reserved bit of it. -/
def Sys2Proof.Slice0.ReservedBitsKept : Prop :=
  ∀ (num : Nat) (old x : BitVec 64), ctxWritten num old x &&& ~~~ctxMask num = old &&& ~~~ctxMask num

/-- R3, R134, R135, R146, R253, R363: special registers and context control registers, and the bits that a write keeps.
Rests in part on the model's own choices: log 30. -/
def Obligations.SystemRegisterResult : Prop := SpecialRegisterResult ∧ ContextRegisterResult ∧ ReservedBitsKept

/-- R259, R260, R336: TLBINV drops the translations it names once no access on its way has used them; PROBE of an address in an aperture
or beyond the address space reports it and reads no memory; FENCE with nothing to wait for retires with 0, and otherwise waits. -/
def Obligations.TranslationMaintenanceResult : Prop :=
  ∀ (s : State) (t : Th) (f : Fields) (ex : BitVec 64), Unarmed t →
    let a := laneAddr t f false 0
    let x := t.sreg f.sa.toNat
    let hit := fun (y : Tlb) => y.pasid == t.w.pasid && (mScope f == 4 || y.die == t.w.die) &&
      (f.sub == 2 || (if f.sub == 0 then y.va ≤ a.toNat && a.toNat < y.va + 2 ^ y.bits else y.va / 2 ^ 53 == a.toNat / 2 ^ 53))
    (Runs s t (.tlbinv f) f .c ex → t.w.hmode = true →
      s.usesXl t.w.pasid (fun d => mScope f == 4 || d == t.w.die) (f.sub == 2) (f.sub == 1) a = false →
      (f.sub ≠ 2 → bad x = false ∧ sound x = true) →
      exec (.tlbinv f) s = .next (({ t with s := { s with ms := { s.ms with tlb := s.ms.tlb.filter fun y => !hit y } } } :
        Th)).retired) ∧
    (Runs s t (.probe f) f .c ex → t.splitWrite f.dst.toNat = false → bad x = false → sound x = true →
      ((aperture s t.w.pasid a).isSome = true → exec (.probe f) s =
        .next (t.setS f.dst.toNat (mkW (BitVec.ofNat 64 (0xFE * 2 ^ 56)))).retired) ∧
      (aperture s t.w.pasid a = none → 2 ^ 57 ≤ a.toNat → exec (.probe f) s =
        .next (t.setS f.dst.toNat (mkW (BitVec.ofNat 64 (0x25 * 2 ^ 56)))).retired)) ∧
    (Runs s t (.fence f) f .c ex → t.splitWrite f.dst.toNat = false → t.p.wait = .none →
      (relWaits t f = false → exec (.fence f) s = .next ((t.acquires f).setS f.dst.toNat (mkW 0)).dropped.retired) ∧
      (relWaits t f = true → exec (.fence f) s = .next (waits t (.fence s.ptime (mScope f).toNat none))))

/-! ## Registers and reset -/

/-- R124, R125, R166: S0 reads as zero and discards writes, B7 and P15 read as all ones; a write of any other register is what
the next read returns, and changes no other register; a write of a V register drops its held copies (R111). -/
def Obligations.RegisterReadAfterWrite : Prop :=
  ∀ (t : Th),
    (t.sreg 0 = { v := 0, r := 0 } ∧ ∀ x, t.setS 0 x = t) ∧
    ((t.breg 7).v = 1 ∧ bad (t.breg 7) = false ∧ sound (t.breg 7) = true) ∧
    ((t.preg 15).v = 0xFFFFFFFFFFFFFFFF ∧ bad (t.preg 15) = false ∧ sound (t.preg 15) = true) ∧
    (∀ n x, 0 < n → n < 64 → (t.setS n x).sreg n = x ∧ (∀ k, k ≠ n → (t.setS n x).sreg k = t.sreg k) ∧
      (∀ k, (t.setS n x).breg k = t.breg k ∧ (t.setS n x).preg k = t.preg k) ∧
      (∀ k L, (t.setS n x).vreg k L = t.vreg k L) ∧ (t.setS n x).s = t.s) ∧
    (∀ n x, n < 7 → (t.setB n x).breg n = x ∧ (∀ k, k ≠ n → (t.setB n x).breg k = t.breg k) ∧
      (∀ k, (t.setB n x).sreg k = t.sreg k ∧ (t.setB n x).preg k = t.preg k) ∧ (t.setB n x).s = t.s) ∧
    (∀ n x, n < 15 → (t.setP n x).preg n = x ∧ (∀ k, k ≠ n → (t.setP n x).preg k = t.preg k) ∧
      (∀ k, (t.setP n x).sreg k = t.sreg k ∧ (t.setP n x).breg k = t.breg k) ∧ (t.setP n x).s = t.s) ∧
    (∀ n L x, L < 64 → (t.setV n L x).vreg n L = x ∧
      (∀ k M, M < 64 → (t.w.vname k, M) ≠ (t.w.vname n, L) → (t.setV n L x).vreg k M = t.vreg k M) ∧
      (∀ k, (t.setV n L x).sreg k = t.sreg k ∧ (t.setV n L x).preg k = t.preg k) ∧ (t.setV n L x).s = t.s ∧
      ∀ h, h ∈ (t.setV n L x).w.latch ↔ h ∈ t.w.latch ∧ h.reg ≠ t.w.vname n)

/-- R67, R92, R134, R392, R394: right after package reset no wave, crew or context exists, package time is 0, every context
control register reads 0, the package registers hold their reset values, the purses and token buffers are empty, and
memory lists nothing. Rests in part on the model's own choices: logs 2 and 3. -/
def Obligations.ResetState : Prop :=
  let s := State.reset
  s.waves = [] ∧ s.crews = [] ∧ s.ptime = 0 ∧ s.stop = false ∧ s.ops = [] ∧ s.passes = [] ∧ s.parks = [] ∧ s.routes = [] ∧
  s.ms.stores = [] ∧ s.ms.tlb = [] ∧ s.outbox = [] ∧ (∀ c, s.clk c = 0) ∧
  (∀ c k n, s.ctxReg c n = 0 ∧ s.dbgReg c k n = 0 ∧ (s.ctx c).gen = 0) ∧
  (∀ q, sget 0 s.pkg.qbuf q = 0 ∧ sget 0 s.pkg.purse q = 0) ∧ (∀ d < 8, s.online d = true) ∧
  (∀ off, s.pkgReg off = pkgRegReset off) ∧ (∀ fn off, s.fnReg fn off = fnRegReset off) ∧
  s.pkgReg 0x100 = 0x03FF0000 ∧ s.pkgReg 0x110 = 2400 ∧ s.fnReg 0 0x50 = 0xFFFFFFFFFFFFFFFF ∧
  (∀ a, s.ms.phys.byte a = unwritten) ∧ (∀ b, s.ms.phys.pair b = rawPair)

/-- The memories of the state after reset are in canonical form, and no access to absent memory is recorded. -/
def Obligations.ResetMeetsInvariant : Prop := State.reset.memWf = true ∧ State.reset.badPa = none

/-! ## Waiting instructions, completion objects, crew barriers and contests -/

namespace Sys2Proof.Slice0

/-- The word `i` of a completion object at offset `o` of a scratchpad (R277). -/
def objWord (m : Mem) (o i : Nat) : BitVec 64 := BitVec.ofNat 64 (m.nat (o + 8 * i) 8)

/-- The 32 bytes of the object at `o` hold these four words, none of them poison; every other byte is as in `m`, and the
sideband pairs of other blocks are. -/
def ObjectIs (m m' : Mem) (o : Nat) (w : List (BitVec 64)) : Prop :=
  (∀ i < 4, objWord m' o i = w.getD i 0) ∧ (∀ i < 8, bad (m'.word (o / 4 + i)) = false) ∧
  (∀ b, b < o ∨ o + 32 ≤ b → m'.byte b = m.byte b) ∧ ∀ k, k ≠ o / 64 → m'.pair k = m.pair k

/-- The object at `o` is at hand and clean. -/
def CleanObject (m : Mem) (o : Nat) : Prop := ∀ i < 8, bad (m.word (o / 4 + i)) = false ∧ sound (m.word (o / 4 + i)) = true

/-- The words of an object after a lowering by `n` bytes and, if `arr`, one arrival, by the agent `ident` (R278): where nothing is
awaited any more, the phase flips, the agent is recorded, the initial count is taken again and the promise ends. -/
def lowered (w : Nat → BitVec 64) (ident n : Nat) (arr : Bool) : List (BitVec 64) :=
  let parr := fld (w 0) 63 48 - arr.toNat
  let pb := fld (w 0) 47 0 - n
  if parr = 0 ∧ pb = 0 then
    [BitVec.ofNat 64 (fld (w 1) 15 0 * 2 ^ 48), setFld (setBit (w 1) 16 (!(w 1).getLsbD 16)) 63 48 ident, 0, w 3]
  else [BitVec.ofNat 64 (parr * 2 ^ 48 + pb), w 1, w 2, w 3]

end Sys2Proof.Slice0

/-- R330, R331, R277, R278, R332: on a clean object of the scratchpad, BINIT sets the count and the initial count and keeps the
phase; BARRIVE lowers the count by one, and where nothing is awaited any more flips the phase, records the wave and takes
the initial count again; an arrival that no count awaits records the error COUNT; BTEST reports the phase; BWAIT retires in
the awaited phase, and otherwise waits. -/
def Obligations.CompletionObjectResult : Prop :=
  ∀ (s : State) (t : Th) (f : Fields) (ex : BitVec 64) (m : Mem) (off : Nat → Nat), Unarmed t → relWaits t f = false →
    bad (t.sreg f.sc.toNat) = false → CleanObject m (off 0) →
    let o := off 0
    let w := objWord m o
    let x := (t.sreg f.sc.toNat).v
    let parr := fld (w 0) 63 48
    let phase := (w 1).getLsbD 16
    let err := (w 1).getLsbD 39
    (Runs s t (.binit f) f .c ex → InScratch t f (objUpd 0xE0) false ex m off → Sound [t.srcS 64 f.sc.toNat 3] →
      fld (w 0) 47 0 = 0 →
      ∃ m', exec (.binit f) s = .next (stored t [0] m').retired ∧ ObjectIs m m' o
        [BitVec.ofNat 64 (fld x 15 0 * 2 ^ 48), BitVec.ofNat 64 (fld x 15 0 + (if phase then 2 ^ 16 else 0)), 0, 0]) ∧
    (Runs s t (.barrive f) f .c ex → InScratch t f (objUpd 0xE1) false ex m off →
      (parr ≠ 0 → ∃ m', exec (.barrive f) s = .next (stored t [0] m').dropped.retired ∧
          ObjectIs m m' o (lowered w (identOf t.w).toNat 0 true)) ∧
      (parr = 0 → err = false →
        ∃ m', exec (.barrive f) s = .next (stored t [0] m').dropped.retired ∧
          ObjectIs m m' o [w 0, setBit (setFld (w 1) 47 40 9) 39 true, w 2, w 3])) ∧
    (Runs s t (.btest f) f .c ex → InScratch t f (objAcc 0xE3 { r := true }) false ex m off →
      Sound [t.srcS 64 f.sc.toNat 3] →
      (phase ≠ x.getLsbD 0 ∨ err = false → exec (.btest f) s =
        .next ((t.acquires f).setB f.dst.toNat (mkW (if phase = x.getLsbD 0 then 1 else 0))).retired) ∧
      (phase = x.getLsbD 0 → err = true → Handles t → exec (.btest f) s = .next (inHandler (t.acquires f)
        { cause := 0x31, sub := fld (w 1) 47 40, addr := laneAddr t f false 0 }).commit)) ∧
    (Runs s t (.bwait f) f .c ex → InScratch t f (objAcc 0xE2 { r := true }) false ex m off →
      Sound [t.srcS 64 f.sc.toNat 3] →
      (phase = x.getLsbD 0 → err = false → exec (.bwait f) s = .next (t.acquires f).dropped.retired) ∧
      (phase ≠ x.getLsbD 0 → exec (.bwait f) s = .next (waits (t.acquires f)
        (.bwait f.sa.toNat (laneAddr t f false 0) (x.getLsbD 0) s.ptime
          (f.sub == 1 && decide (s.ptime.toNat < (w 2).toNat))))))

/-- R334, R335: CBAR arrives at its barrier once in a phase; the arrival that completes the phase flips it, records its wave
and lets the waiting waves go on; any other CBAR.sync waits for the phase, and one whose phase completed while a debugger held
its path retires at once (R366). CBAR.rec reads the barrier's record. Each is a synchronising operation, whose trace record is
dropped where none is enabled (R337, R364). -/
def Obligations.CrewBarrierResult : Prop :=
  ∀ (s : State) (t : Th) (f : Fields) (ex : BitVec 64) (c : Crew), t.w.paths = [t.p] → s.crew t.w.crew = some c → c.h = t.w.crew →
    let n := fld (yNum f) 3 0
    let b := c.bar n
    let cnt := if b.arr = 0 then BitVec.ofNat 5 (fld (yNum f) 8 4) else b.cnt
    let b' : Barrier := { b with cnt := cnt, arr := b.arr + 1, mask := setBit b.mask t.w.wid true }
    let full := if cnt = 0 then (s.waves.all fun x => x.2.crew != c.h || x.2.ended || b'.mask.getLsbD x.2.wid) = true
      else cnt.toNat ≤ b.arr.toNat + 1
    let arrived : Th := { t with s := s.setBar c.h n b' }
    let flipped : Th := { t with s := { s.setBar c.h n { b' with phase := !b.phase, arr := 0, cnt := 0, mask := 0, last := identOf t.w }
      with agenda := s.agenda ++ (barWaiters s c.h n).map fun x => .cbarWake x.1 x.2 } }
    (b.mask.getLsbD t.w.wid = false → b.arr.toNat < 31 →
      (Runs s t (.cbarArrive f) f .c ex → exec (.cbarArrive f) s =
        .next (if full then flipped else arrived).dropped.retired) ∧
      (Runs s t (.cbarSync f) f .c ex → t.p.wait ≠ .brkpt → full → exec (.cbarSync f) s = .next flipped.acquire.dropped.retired) ∧
      (Runs s t (.cbarSync f) f .c ex → t.p.wait ≠ .brkpt → ¬ full → exec (.cbarSync f) s =
        .next (waits arrived (.cbar n b.phase s.ptime)))) ∧
    (Runs s t (.cbarSync f) f .c ex → t.p.wait = .brkpt → exec (.cbarSync f) s = .next t.acquire.dropped.retired) ∧
    (Runs s t (.cbarRec f) f .c ex → t.splitWrite f.dst.toNat = false → exec (.cbarRec f) s =
      .next (t.setS f.dst.toNat (mkW (BitVec.ofNat 64 (b.last.toNat * 2 ^ 48 + b.lwid.toNat * 2 ^ 32 +
        min b.lwait.toNat (2 ^ 31 - 1) * 2 + b.phase.toNat)))).dropped.retired)

/-- R339, R341, R343: CONTEND registers the slot's entry with its compound key, and a second one raises CONTEST_ERROR 2;
CRESULT returns the word of a closed round and consumes the entry, waits or returns 0 before, and raises CONTEST_ERROR 1 for
a voided round and 3 without an entry; CWITHDRAW takes back an entry that no round has taken. -/
def Sys2Proof.Slice0.ContestResult : Prop :=
  ∀ (s : State) (t : Th) (f : Fields) (ex : BitVec 64), Unarmed t →
    let mine := s.entry t.w.pslot
    let key := t.sreg f.sa.toNat
    let id := t.sreg f.sb.toNat
    let nb := t.sreg f.sc.toNat
    let gone : Th := { t with s := { s with contests := s.contests.filter fun c => c.slot != t.w.pslot } }
    let fails := fun (r : Nat) => (inHandler t { cause := 0x50, info := r }).commit
    (Runs s t (.contend f) f .c ex → bad key = false → bad nb = false → (f.immf = false → bad id = false) →
      Sound ([t.srcS 64 f.sa.toNat 1, t.srcS 64 f.sc.toNat 3] ++ if f.immf then [] else [t.srcS 64 f.sb.toNat 2]) →
      (mine = none → exec (.contend f) s = .next ({ t with s := { s with contests := s.contests ++
        [{ slot := t.w.pslot, wk := t.wk, cid := if f.immf then f.hi.extractLsb' 0 8 else id.v.extractLsb' 0 8,
           comp := BitVec.ofNat 48 (key.v.toNat % 2 ^ 32 * 2 ^ 16 + (identOf t.w).toNat + 1), nb := nb.v, ret := s.ptime,
           orphan := false, st := .pending }] } } : Th).dropped.retired) ∧
      (mine.isSome = true → Handles t → exec (.contend f) s = .next (fails 2))) ∧
    (∀ mk ∈ ([.cresultWait, .cresultTest] : List (Fields → Instr)), Runs s t (mk f) f .c ex → t.splitWrite f.dst.toNat = false →
      (∀ c w, mine = some c → c.orphan = false → c.st = .closed w →
        exec (mk f) s = .next (gone.setS f.dst.toNat (mkW w)).retired) ∧
      (mine = none → Handles t → exec (mk f) s = .next (fails 3))) ∧
    (∀ c, mine = some c → c.orphan = false → c.st = .pending → t.splitWrite f.dst.toNat = false →
      (Runs s t (.cresultWait f) f .c ex → exec (.cresultWait f) s =
        .next (waits t (.cresult f.dst.toNat))) ∧
      (Runs s t (.cresultTest f) f .c ex → exec (.cresultTest f) s = .next (t.setS f.dst.toNat (mkW 0)).retired) ∧
      (Runs s t (.cwithdraw f) f .c ex → exec (.cwithdraw f) s = .next (gone.setS f.dst.toNat (mkW 1)).retired)) ∧
    (∀ c b, mine = some c → c.orphan = false → c.st = .inRound b → t.splitWrite f.dst.toNat = false →
      Runs s t (.cwithdraw f) f .c ex → exec (.cwithdraw f) s = .next (t.setS f.dst.toNat (mkW 0)).retired)

/-- R338, R340, R341: a round opens at its boundary and takes the pending entries of its number that are eligible by then; 104 ns
later it closes, and every entry receives the greatest key with the identity that bid it, and whether that is its own. -/
def Sys2Proof.Slice0.RoundResult : Prop :=
  ∀ (s : State) (line : Nat), s.badPa = none →
    (∀ r, s.nextRound line = some r → r.bnd.toNat ≤ s.ptime.toNat →
      ∃ s', exec (.roundOpen line) s = .next s' ∧ r ∈ s'.rounds ∧
        s'.contests.length = s.contests.length ∧
        (∀ c ∈ s.contests, c.joins r = true → { c with st := .inRound r.bnd } ∈ s'.contests) ∧
        ∀ c ∈ s.contests, c.joins r = false → c ∈ s'.contests) ∧
    (∀ r, s.closing line = some r →
      ∃ s', exec (.roundClose line) s = .next s' ∧ (∀ x ∈ s'.rounds, ¬ (x.line = line ∧ x.run = true ∧ x.bnd = r.bnd)) ∧
        (∀ c ∈ s.contests, c.inRnd r = true → c.orphan = false →
          ∃ top ∈ s.contests, top.inRnd r = true ∧ (∀ d ∈ s.contests, d.inRnd r = true → d.comp.toNat ≤ top.comp.toNat) ∧
            { c with st := .closed (resultWord top.comp c.comp) } ∈ s'.contests) ∧
        ∀ c ∈ s.contests, c.inRnd r = false → c ∈ s'.contests)

/-- R338 to R341, R343: entries of a contest, and its rounds. Rests in part on the model's own choices: log 32. -/
def Obligations.ContentionResult : Prop := ContestResult ∧ RoundResult

/-- R139, R282, R305, R332, R335, R341: a waiting instruction retires once what it waits for has come about.
Rests in part on the model's own choices: log 48. -/
def Obligations.WaitsEnd : Prop :=
  ∀ (s : State) (t : Th), Waiting s t → t.crew.bind (·.region) = none →
    (∀ d, t.p.wait = .sleep d → d.toNat ≤ s.ptime.toNat → exec (.sleepDeadline t.wk t.p.eid) s = .next t.retired) ∧
    (∀ n, t.p.wait = .mtoken n → n ≤ s.qbuf t.w.quadN → exec (.mtokenReady t.wk t.p.eid) s = .next t.retired) ∧
    (∀ k n room c, t.p.wait = .chwait k n room → s.chan t.w.crew k = some c → n ≤ (if room then c.room else c.occ) →
      exec (.chwaitWake t.wk t.p.eid) s = .next t.acquire.retired) ∧
    (∀ n phase t0 c, t.p.wait = .cbar n phase t0 → s.crew t.w.crew = some c → (c.bar n).phase ≠ phase →
      ∃ b, (t.p.held = none → exec (.cbarWake t.wk t.p.eid) s =
          .next ({ t with s := s.setBar c.h n b } : Th).acquire.dropped.retired) ∧
        (t.p.held.isSome = true → exec (.cbarWake t.wk t.p.eid) s =
          .next ({ t with s := s.setBar c.h n b, p := { t.p with wait := .brkpt } } : Th).commit) ∧
        b.phase = (c.bar n).phase ∧ b.arr = (c.bar n).arr ∧ b.mask = (c.bar n).mask ∧
        b.lwait.toNat = max (c.bar n).lwait.toNat ((s.ptime - t0).toNat % 2 ^ 48)) ∧
    (∀ n c w, t.p.wait = .cresult n → s.entry t.w.pslot = some c → c.orphan = false → c.st = .closed w →
      exec (.cresultWake t.wk t.p.eid) s = .next (({ t with s := { s with contests := s.contests.filter fun c => c.slot != t.w.pslot } } :
        Th).setS n (mkW w)).retired) ∧
    (∀ sa a b t0 armed m off k, t.p.wait = .bwait sa a b t0 armed → Unarmed t → s.crews.filter (fun c => c.h == t.w.crew) = [k] →
      k.scr = m → aperture s t.w.pasid a = some (0, off) → off % 32 = 0 → off + 32 ≤ k.scrSize → CleanObject m off →
      let w := objWord m off
      ((w 1).getLsbD 16 = b → (w 1).getLsbD 39 = false →
        ∃ m' seen, exec (.bwaitWake t.wk t.p.eid) s =
            .next ({ withScratch t m' with p := { t.p with obs := seen } } : Th).dropped.retired ∧ (∀ i < 3, objWord m' off i = w i) ∧
          fld (objWord m' off 3) 47 0 = max (fld (w 3) 47 0) ((s.ptime - t0).toNat % 2 ^ 48)) ∧
      ((w 1).getLsbD 16 ≠ b → armed = true → (w 2).toNat ≤ s.ptime.toNat →
        (t.w.chkctl.getLsbD 1 = true → Handles t → exec (.promiseMiss t.wk t.p.eid) s =
          .next (inHandler t.acquire { cause := 0x30, addr := a, info := (w 2).toNat }).commit) ∧
        (t.w.chkctl.getLsbD 1 = false → exec (.promiseMiss t.wk t.p.eid) s =
          .next (waits t.acquire (.bwait sa a b t0 false)))))

/-! ## REGROUP, and the instructions and events of debugging and replay -/

/-- R217, R218: REGROUP waits for its participants. Alone it keeps its survivors in place and renumbers them; two participants
whose survivors fit in one wave leave them all in the wave of the lower WID, whose own keep their lanes and their registers,
and the other wave goes on with no lanes. Rests in part on the model's own choices: log 57. -/
def Obligations.RegroupResult : Prop :=
  ∀ (s : State),
    (∀ (t : Th) (f : Fields) (ex : BitVec 64), Runs s t (.regroup f) f .l ex → t.w.w32 = false →
      (t.w.paths = [t.p] → t.w.spilled = [] → exec (.regroup f) s = .next (waits t
        (.regroup (f.hi.extractLsb' 0 8) (f.hi.extractLsb' 16 16) f.sa.toNat (fld f.hi 14 8) ex))) ∧
      (1 < t.w.paths.length → Handles t → exec (.regroup f) s = .next (inHandler t { cause := 0x10 }).commit)) ∧
    (∀ wk x y, regroupParts s wk = some [x, y] → x.wk ≠ y.wk → Waiting s (x.view s) → Waiting s (y.view s) →
      x.w.paths = [x.p] → y.w.paths = [y.p] → x.w.spilled = [] → y.w.spilled = [] →
      0 < popcount x.ex + popcount y.ex → popcount x.ex + popcount y.ex ≤ 64 →
      ∃ s' w v p q, exec (.regroupExchange wk) s = .next s' ∧ s'.wave x.wk = some w ∧ s'.wave y.wk = some v ∧
        w.paths = [p] ∧ v.paths = [q] ∧ p.mask = p.exm ∧ popcount p.mask = popcount x.ex + popcount y.ex ∧
        x.ex &&& ~~~p.mask = 0 ∧ q.mask = 0 ∧ q.exm = 0 ∧ (sget (zw 64) w.p 0).v = p.mask ∧
        (∀ L ∈ lanesOf x.ex, ∀ r, sget (zw 32) w.v (64 * r + L) = sget (zw 32) x.w.v (64 * r + L)) ∧
        p.s = x.p.s ∧ q.s = y.p.s ∧ p.pia = nextAddr x.p.pia ∧ q.pia = nextAddr y.p.pia ∧ s'.ms = s.ms)

namespace Sys2Proof.Slice0

/-- A wave of its crew alone, with one path, `t`. -/
def Sole (s : State) (t : Th) : Prop :=
  s.waves.filter (fun x => x.2.crew == t.w.crew) = [(t.wk, t.w)] ∧ t.w.paths = [t.p] ∧ t.w.ended = false

/-- The 64 bytes of the record at virtual address `a` lie at `off` in the scratchpad `m` of the path's crew `k`, clean. -/
structure RecordAt (s : State) (t : Th) (a : BitVec 64) (k : Crew) (m : Mem) (off : Nat) : Prop where
  crew  : s.crews.filter (fun c => c.h == t.w.crew) = [k]
  scr   : k.scr = m
  place : aperture s t.w.pasid a = some (0, off)
  fits  : off + 64 ≤ k.scrSize
  whole : off % 64 = 0
  clean : ∀ i < 16, bad (m.word (off / 4 + i)) = false ∧ sound (m.word (off / 4 + i)) = true

end Sys2Proof.Slice0

/-- R366, R367, R371, R372, R364: MARK retires; BRKPT traps with NUM outside handler mode and retires in it, or when a debugger
lets a held path go; an instruction a breakpoint register names traps likewise, or is held where DBGCTL says so; SNAP stores its
eight words; RPLBEGIN and RPLEND wait for the other waves of the crew. The record of a mark or a breakpoint is dropped where its
type is not enabled, and counted on SPDROP. -/
def Sys2Proof.Slice0.DebugInstructionResult : Prop :=
  ∀ (s : State) (t : Th) (f : Fields) (ex : BitVec 64),
    let n := (yNum f).toNat
    (Runs s t (.mark f) f .c ex → exec (.mark f) s = .next t.dropped.retired) ∧
    let ctl := s.ctxReg t.w.pasid 0x163
    (Runs s t (.brkpt f) f .c ex →
      (t.p.wait = .brkpt → exec (.brkpt f) s = .next t.retired) ∧
      (t.p.wait ≠ .brkpt → ctl.getLsbD 0 = false → t.w.hmode = true → exec (.brkpt f) s = .next t.dropped.retired) ∧
      (Handles t → t.p.wait ≠ .brkpt → ctl.getLsbD 0 = false → exec (.brkpt f) s = .next
        (inHandler { t.dropped with w := { t.w with hsave := none } } { cause := 0x41, info := n }).commit) ∧
      (t.p.wait ≠ .brkpt → ctl = 1 → t.p.held = none → exec (.brkpt f) s = .next
        ({ t.dropped with p := { t.p with held := some s.ptime, wait := .brkpt, ibpSkip := false } } : Th).commit)) ∧
    (∀ i, Waiting s t → ibpHit t = some i →
      (ctl.getLsbD 0 = false → Handles t → exec (.ibpHit t.wk t.p.eid i) s = .next
        (inHandler { t.dropped with w := { t.w with hsave := some i } } { cause := 0x41, info := 0x1FFF0 + i }).commit) ∧
      (ctl.getLsbD 0 = false → t.w.hmode = true → exec (.ibpHit t.wk t.p.eid i) s = .next
        ({ t.dropped with p := { t.p with ibpSkip := true } } : Th).commit) ∧
      (ctl = 1 → t.p.held = none → exec (.ibpHit t.wk t.p.eid i) s = .next
        ({ t.dropped with p := { t.p with held := some s.ptime, wait := .none, ibpSkip := true } } : Th).commit)) ∧
    (∀ m off, Unarmed t → Runs s t (.snap f) f .c ex →
      let f' : Fields := { f with scls := 2, hi := 0x00F00000 }
      let words := [s.ptime, s.clk t.w.coreN, 0, 0, 0, 0, t.p.tc ++ (if t.w.hmode then t.p.pc else t.p.pc + 1),
        BitVec.ofNat 64 ((identOf t.w).toNat * 2 ^ 48 + t.p.idx)]
      InScratch t f' { op := 0xEC, c := true, n := 64, align := 64, nd := { w := true } } false ex m off →
      ∃ m', exec (.snap f) s = .next (stored t [0] m').retired ∧
        (∀ i < 8, BitVec.ofNat 64 (m'.nat (off 0 + 8 * i) 8) = words.getD i 0) ∧
        ∀ b, b < off 0 ∨ off 0 + 64 ≤ b → m'.byte b = m.byte b) ∧
    (∀ mk ∈ ([(.rplbeginRec, false), (.rplbeginCmp, true)] : List ((Fields → Instr) × Bool)), Unarmed t →
      Runs s t (mk.1 f) f .c ex → bad (t.sreg f.sa.toNat) = false → sound (t.sreg f.sa.toNat) = true →
      (t.sreg f.sa.toNat).v.toNat % 4096 = 0 → t.w.paths = [t.p] →
      exec (mk.1 f) s = .next (waits t (.rplbegin (t.sreg f.sa.toNat).v mk.2))) ∧
    (Runs s t (.rplend f) f .c ex → Handles t → exec (.rplend f) s = .next (inHandler t { cause := 0x10 }).commit) ∧
    (∀ g, s.issuer = some t → s.badPa = none → t.w.mcheck = [] → (t.crew.bind (·.region)).isSome = true → t.w.paths = [t.p] →
      fieldErr t.lim (.rplend f) = none → guardOf t .c f = .ok g → g ≠ 0 →
      exec (.rplend f) s = .next (waits t .rplend))

/-- R371, R372, R373: once every wave of the crew has issued RPLBEGIN.rec, the region opens, its RCB starts an empty list, and the
keys start anew; once every wave has issued RPLEND in a recording pass without a recorded mismatch, the region closes and the
pass is counted: here for a crew of one wave whose RCB lies in its scratchpad and lists no page. -/
def Sys2Proof.Slice0.ReplayRegionResult : Prop :=
  ∀ (s : State) (t : Th) (k : Crew) (m : Mem) (off : Nat) (a : BitVec 64), Waiting s t → Sole s t → RecordAt s t a k m off →
    let w := fun (i : Nat) => BitVec.ofNat 64 (m.nat (off + 8 * i) 8)
    (t.p.wait = .rplbegin a false → k.region = none →
      ∃ s' w' p' k', exec (.rplbeginGathered t.w.crew) s = .next s' ∧ s'.wave t.wk = some w' ∧ w'.paths = [p'] ∧ w'.logIdx = 0 ∧
        p'.pia = nextAddr t.p.pia ∧ p'.pc = (if t.w.hmode then 0 else 1) ∧ p'.tc = 0 ∧ s'.crew t.w.crew = some k' ∧
        k'.region = some { rcb := a, cmp := false, counts := [] } ∧
        BitVec.ofNat 64 (k'.scr.nat (off + 16) 8) =
          setFld (setFld (setBit (setBit (setBit (w 2) 32 false) 34 false) 35 false) 31 16 0) 47 40 0) ∧
    (t.p.wait = .rplend → k.region = some { rcb := a, cmp := false, counts := [] } → fld (w 2) 31 16 = 0 →
      (w 2).getLsbD 32 = false →
      ∃ s' w' p' k', exec (.rplendGathered t.w.crew) s = .next s' ∧ s'.wave t.wk = some w' ∧ w'.paths = [p'] ∧
        p'.pia = nextAddr t.p.pia ∧ s'.crew t.w.crew = some k' ∧ k'.region = none ∧
        sget 0 k'.logged t.w.wid = t.w.logIdx ∧
        BitVec.ofNat 64 (k'.scr.nat (off + 16) 8) = setFld (w 2) 47 40 ((fld (w 2) 47 40 + 1) % 256))

/-- R364, R365, R368, R370, R254: a sample writes one record of type 8 for each quad of the core, with the quad's number, at the
next four slots of the buffer, here one in the die scratch; samples of a frozen trace, or of one with the type disabled, are
dropped, counted on SPDROP. The courier's latency histogram counts a returned block in its bucket, saturating. -/
def Sys2Proof.Slice0.SampleAndLatencyResult : Prop :=
  ∀ (s : State) (core pasid wk ns : Nat), s.badPa = none →
    let ctl := s.dbgReg pasid core 0x161
    let b := if ns < 64 then 0 else if 2 ^ 20 ≤ ns then 15 else Nat.log2 ns - 5
    let slot := fun (q : Nat) => BitVec.ofNat 64
      (fld (s.dbgReg pasid core 0x160) 63 12 * 4096 + 32 * ((fld ctl 63 32 + q) % 2 ^ fld ctl 20 16))
    (∀ off : Nat → Nat, ctl.getLsbD 8 = true → ctl.getLsbD 31 = false → 4 ≤ fld ctl 20 16 → fld ctl 20 16 ≤ 20 →
      (∀ x ∈ s.pkg.issued, x.2.path.idx < 8) →
      (∀ q < 4, aperture s pasid (slot q) = some (2, off q) ∧ off q + 32 ≤ dscSize s pasid (core / 48)) →
      ∃ s', exec (.traceSample core pasid) s = .next s' ∧
        fld (s'.dbgReg pasid core 0x161) 63 32 = (fld ctl 63 32 + 4) % 2 ^ 32 ∧
        s'.ctxReg pasid 0x131 = s.ctxReg pasid 0x131 ∧ s'.waves = s.waves ∧ s'.ms.phys = s.ms.phys ∧
        ∀ q < 4, let word := fun i => (s'.dscMem pasid (core / 48)).nat (off q + 8 * i) 8
          word 0 = s.ptime.toNat ∧ word 3 / 2 ^ 36 % 256 = 8 ∧ word 3 / 2 ^ 44 % 2 ^ 16 = q) ∧
    (ctl.getLsbD 8 = false ∨ ctl.getLsbD 31 = true →
      ∃ s', exec (.traceSample core pasid) s = .next s' ∧ s'.ctxReg pasid 0x131 = s.ctxReg pasid 0x131 + 4 ∧
        s'.ms = s.ms ∧ s'.dbg = s.dbg ∧ s'.waves = s.waves) ∧
    (s.dbgReg pasid core 0x178 = 0x8000000000000000 → ctl.getLsbD 31 = false →
      ∃ s', exec (.courierBlockReturn core pasid wk ns) s = .next s' ∧
        s'.dbgReg pasid core (0x180 + b) =
          BitVec.ofNat 64 (min ((s.dbgReg pasid core (0x180 + b)).toNat + 1) (2 ^ 32 - 1)) ∧
        (∀ n, n ≠ 0x180 + b → n < 4096 → s'.dbgReg pasid core n = s.dbgReg pasid core n) ∧
        s'.waves = s.waves ∧ s'.ms = s.ms)

/-- R254, R365 to R368, R370 to R373: breakpoints, snapshots, replay regions, samples and histograms.
Rests in part on the model's own choices: logs 8 and 31. -/
def Obligations.DebugAndMeasurementResult : Prop := DebugInstructionResult ∧ ReplayRegionResult ∧ SampleAndLatencyResult

/-! ## Engine operations and channels -/

namespace Sys2Proof.Slice0

/-- The engine instructions with their opcodes. -/
def engineForms : List ((Fields → Instr) × Nat) :=
  [(.xcopy, 0xC0), (.xgath, 0xC1), (.xscat, 0xC2), (.xform, 0xC3), (.xfill, 0xC4), (.xcoll, 0xC5)]

/-- The words of the shape records that an engine instruction reads (R53). -/
def recordWords (t : Th) (kind : Nat) (f : Fields) : List Src :=
  let named := if kind = 0xC4 then [f.sb.toNat] else [f.sa.toNat, f.sb.toNat]
  (uniq (named ++ named.filterMap (indexOf t))).flatMap fun n => t.srcQ n 1 (usedWords t n)

/-- The operation `o` is what the instruction asks for: its records copied, its operand, its object, its options and its
channels, with no firing begun (R268, R277, R281). -/
def Asked (t : Th) (f : Fields) (kind off : Nat) (o : EngOp) : Prop :=
  o.h = t.s.nextH ∧ o.kind = BitVec.ofNat 8 kind ∧ o.coll = f.sub ∧ o.core = t.w.coreN ∧ o.wk = t.wk ∧
  o.ident = identOf t.w ||| 1 ∧ o.pasid = t.w.pasid ∧ o.crew = t.w.crew ∧ o.ia = t.p.pia ∧ o.hm = t.w.hmode ∧
  o.opnd = (t.sreg f.sc.toNat).v ∧ o.obj = (if f.dst = 0 then none else some off) ∧ o.arr = f.hi.getLsbD 16 ∧
  o.ascl = f.hi.getLsbD 17 ∧ o.rm = f.rm ∧ o.sat = f.sat ∧ o.nf = fld f.hi 31 24 + 1 ∧
  o.ki = (if f.hi.getLsbD 5 then some (fld f.hi 4 0) else none) ∧
  o.ko = (if f.hi.getLsbD 11 then some (fld f.hi 10 6) else none) ∧
  o.firing = 0 ∧ o.landed = false ∧ o.counts = [] ∧ o.stall = none ∧ o.late = none ∧ o.scales = [] ∧ o.vals = []

end Sys2Proof.Slice0

/-- R267, R268, R277, R278, R282: an engine instruction waits while its core holds 64 operations; a channel that is not bound
raises CHANNEL_ERROR; else it retires at once with its operation accepted behind those of its core, and its object, which lies
in the scratchpad, awaits the operation's bytes too. Memory outside the scratchpad is not touched, but where XCOLL reads a crowd
record. -/
def Obligations.EngineAcceptance : Prop :=
  ∀ r ∈ engineForms, ∀ (s : State) (t : Th) (f : Fields) (ex : BitVec 64) (k : Crew) (m : Mem) (off : Nat),
    Runs s t (r.1 f) f .c ex → Unarmed t → s.crews.filter (fun c => c.h == t.w.crew) = [k] → k.scr = m →
    let busy := (s.ops.filter fun o => o.core == t.w.coreN).length
    (64 ≤ busy → exec (r.1 f) s = .next (waits t t.p.wait)) ∧
    (busy < 64 → f.hi.getLsbD 5 = true → s.chan t.w.crew (fld f.hi 4 0) = none → Handles t →
      exec (r.1 f) s = .next (inHandler t { cause := 0x32, info := fld f.hi 4 0 * 256 + 3 }).commit) ∧
    (busy < 64 → (f.hi.getLsbD 5 = true → ∃ c, s.chan t.w.crew (fld f.hi 4 0) = some c ∧ c.cAdv = false) →
      (f.hi.getLsbD 11 = true → ∃ c, s.chan t.w.crew (fld f.hi 10 6) = some c ∧ c.pAdv = false) →
      bad (t.sreg f.dst.toNat) = false → bad (t.sreg f.sc.toNat) = false →
      (f.dst ≠ 0 → aperture s t.w.pasid (t.sreg f.dst.toNat).v = some (0, off) ∧ off + 32 ≤ k.scrSize ∧
        (t.sreg f.dst.toNat).v.toNat % 32 = 0) →
      Sound ([t.srcS 64 f.dst.toNat 0, t.srcS 64 f.sc.toNat 3] ++ recordWords t r.2 f) →
      (recordWords t r.2 f).any (·.bad) = false → s.ptime.toNat < 2 ^ 63 → (∀ c, (sget 0 s.courier c).toNat < 2 ^ 63) →
      ∃ s' w' p' o, exec (r.1 f) s = .next s' ∧ s'.ops = s.ops ++ [o] ∧ Asked t f r.2 off o ∧
        s'.wave t.wk = some w' ∧ w'.path t.p.eid = some p' ∧ p'.pia = nextAddr t.p.pia ∧ p'.s = t.p.s ∧ w'.v = t.w.v ∧
        (r.2 ≠ 0xC5 → s'.ms.phys = s.ms.phys) ∧ (f.dst = 0 → s'.crews = s.crews) ∧
        (f.dst ≠ 0 → o.stop = none → ∃ m', s'.crews = (withScratch t m').s.crews ∧
          fld (objWord m' off 0) 47 0 = fld (objWord m off 0) 47 0 + o.left ∧
          fld (objWord m' off 0) 63 48 = fld (objWord m off 0) 63 48 ∧ objWord m' off 1 = objWord m off 1 ∧
          (objWord m off 2).toNat ≤ (objWord m' off 2).toNat ∧ objWord m' off 3 = objWord m off 3 ∧
          ∀ b, b < off ∨ off + 32 ≤ b → m'.byte b = m.byte b))

namespace Sys2Proof.Slice0

/-- A channel just bound, with no slot filled (R280). -/
def emptyChan (off ssize sbase fire count : Nat) : Chan :=
  { off := off, ssize := ssize, sbase := sbase, fire := fire, scount := count, prod := 0, cons := 0, pAdv := false, cAdv := false }

/-- An index with its phase, `n` slots on in a channel of `count` slots (R280). -/
def moved (count : Nat) (x : BitVec 17) (n : Nat) (y : BitVec 17) : Prop :=
  fld y 15 0 = (fld x 15 0 + n) % count ∧ y.getLsbD 16 = (x.getLsbD 16 != decide (count ≤ fld x 15 0 + n))

end Sys2Proof.Slice0

/-- R280, R282, R283: CHBIND binds the channel a record describes, empty, or unbinds it; CHPUT and CHTAKE advance a side by n
slots, and raise CHANNEL_ERROR where there is no room or no data; CHWAIT retires where the channel offers n slots and waits
otherwise; XSTAT reads a word of an object, a channel's state, or the crew's engine error, which it clears.
Rests in part on the model's own choices: log 49. -/
def Obligations.ChannelResult : Prop :=
  ∀ (s : State) (t : Th) (f : Fields) (ex : BitVec 64) (k : Crew), Unarmed t → s.crews.filter (fun c => c.h == t.w.crew) = [k] →
    let n := fld f.hi 31 16
    let ch := fld f.hi 4 0
    let free := fun (prod : Bool) => s.holders t.w.crew ch prod = []
    let fails := fun (r : Nat) => (inHandler t { cause := 0x32, info := ch * 256 + r }).commit
    (Runs s t (.chbind f) f .c ex → free true → free false →
      (f.sc = 0 → ∃ s', exec (.chbind f) s = .next s' ∧ s'.chan t.w.crew ch = none ∧
        (∀ j, j ≠ ch → s'.chan t.w.crew j = s.chan t.w.crew j) ∧ s'.ms = s.ms) ∧
      (∀ off, f.sc ≠ 0 → bad (t.sreg f.sc.toNat) = false → sound (t.sreg f.sc.toNat) = true →
        aperture s t.w.pasid (t.sreg f.sc.toNat).v = some (0, off) → off + 32 ≤ k.scrSize → off % 32 = 0 →
        (t.sreg f.sc.toNat).v.toNat % 32 = 0 →
        (∀ i < 4, bad (k.scr.word (off / 4 + i)) = false ∧ sound (k.scr.word (off / 4 + i)) = true) →
        let w0 := objWord k.scr off 0
        let w1 := objWord k.scr off 1
        let ssize := fld w0 51 32
        let sbase := fld w0 31 0
        let fire := fld w1 23 16
        let count := fld w1 15 0
        fld w0 63 52 = 0 → fld w1 63 24 = 0 → 64 ≤ ssize → ssize % 64 = 0 → sbase % 64 = 0 → 0 < fire → 0 < count → count ≤ 4096 →
        count % fire = 0 → sbase + count * ssize ≤ k.scrSize →
        ∃ s' k', exec (.chbind f) s = .next s' ∧ s'.crew t.w.crew = some k' ∧
          s'.chan t.w.crew ch = some (emptyChan off ssize sbase fire count) ∧
          objWord k'.scr off 2 = 0 ∧ objWord k'.scr off 3 = 0 ∧
          (∀ b, b < off + 16 ∨ off + 32 ≤ b → k'.scr.byte b = k.scr.byte b) ∧ s'.ms = s.ms)) ∧
    (∀ c, s.chan t.w.crew ch = some c → n ≤ c.scount → c.scount < 2 ^ 16 → fld c.prod 15 0 < c.scount → fld c.cons 15 0 < c.scount →
      (Runs s t (.chput f) f .c ex → free true →
        (n ≤ c.room → ∃ s' c', exec (.chput f) s = .next s' ∧ s'.chan t.w.crew ch = some c' ∧ moved c.scount c.prod n c'.prod ∧
          c'.cons = c.cons ∧ c'.pAdv = true ∧ c'.scount = c.scount ∧ s'.ms = s.ms) ∧
        (c.room < n → Handles t → exec (.chput f) s = .next (fails 1))) ∧
      (Runs s t (.chtake f) f .c ex → free false →
        (n ≤ c.occ → ∃ s' c', exec (.chtake f) s = .next s' ∧ s'.chan t.w.crew ch = some c' ∧ moved c.scount c.cons n c'.cons ∧
          c'.prod = c.prod ∧ c'.cAdv = true ∧ c'.scount = c.scount ∧ s'.ms = s.ms) ∧
        (c.occ < n → Handles t → exec (.chtake f) s = .next (fails 2))) ∧
      (∀ mk ∈ ([(.chwaitData, false), (.chwaitRoom, true)] : List ((Fields → Instr) × Bool)), Runs s t (mk.1 f) f .c ex →
        (n ≤ (if mk.2 then c.room else c.occ) → exec (mk.1 f) s = .next t.acquire.retired) ∧
        ((if mk.2 then c.room else c.occ) < n → exec (mk.1 f) s = .next (waits t (.chwait ch n mk.2))))) ∧
    (Runs s t (.xstat f) f .c ex → t.splitWrite f.dst.toNat = false →
      (f.sub = 5 → exec (.xstat f) s = .next (({ t with s := { s with crews := lmod s.crews (fun c => c.h == t.w.crew) fun c =>
        { c with engErr := 0 } } } : Th).setS f.dst.toNat (mkW (k.engErr.zeroExtend 64))).retired) ∧
      (∀ c, f.sub = 4 → s.chan t.w.crew ch = some c → exec (.xstat f) s = .next (t.setS f.dst.toNat (mkW (BitVec.ofNat 64
        (c.prod.toNat + c.cons.toNat * 2 ^ 32 + 2 ^ 56 + (if s.holders t.w.crew ch true = [] then 0 else 2 ^ 57) +
          (if s.holders t.w.crew ch false = [] then 0 else 2 ^ 58))))).retired) ∧
      (∀ m off, f.sub.toNat < 4 →
        InScratch t { f with sa := f.dst, scls := 2, hi := 0x00F00000 } (objAcc 0xCA { r := true }) false ex m off →
        (∀ i < 2, bad (m.word (off 0 / 4 + 2 * f.sub.toNat + i)) = false ∧ sound (m.word (off 0 / 4 + 2 * f.sub.toNat + i)) = true) →
        exec (.xstat f) s = .next (t.setS f.dst.toNat (mkW (objWord m (off 0) f.sub.toNat))).retired))

namespace Sys2Proof.Slice0

/-- Operation `h` is `o`, of crew `k` with scratchpad `m`, and the only one of its name; none of its stores is on its way, and
nothing is traced. -/
structure OpAt (s : State) (h : Nat) (o : EngOp) (k : Crew) (m : Mem) : Prop where
  ops    : s.ops.filter (fun x => x.h == h) = [o]
  crew   : s.crews.filter (fun c => c.h == o.crew) = [k]
  scr    : k.scr = m
  alive  : k.st ≠ .ended
  stores : (s.ms.stores.any fun p => p.op == some h) = false
  quiet  : s.dbg = []
  real   : s.badPa = none
  noPage : k.region = none

/-- An operation that fills one element of FP32 at scratchpad offset `at'` from the start of its side: rank 1, extent 1,
row-major, no sideband, no index, no shards, one firing (R43, R45, R270). -/
def FillsOne (o : EngOp) : Prop :=
  let d := o.dstShape
  o.kind = 0xC4 ∧ d.rank = 1 ∧ d.fmt = 7 ∧ d.lay = 0 ∧ d.idx = false ∧ d.shard = false ∧ d.side = false ∧
  d.ext.headD 0 = 1 ∧ o.ascl = false ∧ o.nf = 1 ∧ o.firing = 0 ∧ o.stop = none ∧ o.stall = none ∧ o.late = none ∧ o.counts = [] ∧ o.landed = false ∧
  o.ki = none

end Sys2Proof.Slice0

/-- R269, R270, R271, R274, R278, R281: a fill writes its value, in one element here, and its bytes become countable; once its
writes are performed they are counted off its object; and when everything has landed and is counted the operation arrives at
its object and leaves the engines. A fill whose output is a channel writes at the slot of the channel's producer. -/
def Sys2Proof.Slice0.EngineOperationResult : Prop :=
  ∀ (s : State) (h : Nat) (o : EngOp) (k : Crew) (m : Mem), OpAt s h o k m →
    (∀ at', FillsOne o → o.ko = none → aperture s o.pasid o.dstShape.base = some (0, at') → at' + 4 ≤ k.scrSize →
      o.dstShape.base.toNat % 4 = 0 → at' % 4 = 0 →
      ∃ s' o' k', exec (.engineOpRun h) s = .next s' ∧ s'.ops.filter (fun x => x.h == h) = [o'] ∧ o' = { o with counts := [4] } ∧
        s'.crews.filter (fun c => c.h == o.crew) = [k'] ∧ (k'.scr.word (at' / 4)).v = o.opnd.extractLsb' 0 32 ∧
        bad (k'.scr.word (at' / 4)) = false ∧ (∀ b, b < at' ∨ at' + 4 ≤ b → k'.scr.byte b = m.byte b) ∧ s'.ms = s.ms) ∧
    (∀ at' c ch, FillsOne o → o.ko = some ch → slook k.chans ch = some c → c.fire ≤ c.room →
      (s.holders o.crew ch true).head?.map (·.h) = some h →
      let base := o.dstShape.base + BitVec.ofNat 64 ((s.ctxReg o.pasid 0x110).toNat / 2 ^ 30 * 2 ^ 30 + c.sbase + fld c.prod 15 0 * c.ssize)
      aperture s o.pasid base = some (0, at') → at' + 4 ≤ k.scrSize → base.toNat % 4 = 0 → at' % 4 = 0 →
      o.dstShape.base.toNat + 4 ≤ c.fire * c.ssize →
      ∃ s' o' k', exec (.engineFiring h) s = .next s' ∧ s'.ops.filter (fun x => x.h == h) = [o'] ∧ o' = { o with counts := [4] } ∧
        s'.crews.filter (fun c => c.h == o.crew) = [k'] ∧ (k'.scr.word (at' / 4)).v = o.opnd.extractLsb' 0 32 ∧
        (∀ b, b < at' ∨ at' + 4 ≤ b → k'.scr.byte b = m.byte b)) ∧
    (∀ off n, o.obj = some off → off % 32 = 0 → CleanObject m off → o.stop = none → o.ko = none →
      let w := objWord m off
      (o.counts = [n] → 0 < n → n ≤ fld (w 0) 47 0 →
        ∃ s' o' k', exec (.engineWriteCounted h) s = .next s' ∧ s'.ops.filter (fun x => x.h == h) = [o'] ∧
          o' = { o with counts := [], left := o.left - n, firing := o.firing + 1, landed := o.firing + 1 == o.nf } ∧
          s'.crews.filter (fun c => c.h == o.crew) = [k'] ∧ ObjectIs m k'.scr off (lowered w o.ident.toNat n false)) ∧
      (o.counts = [] → o.landed = true → o.kind ≠ 0xC5 →
        (o.arr = true → fld (w 0) 63 48 ≠ 0 →
          ∃ s' k', exec (.engineOpEnd h) s = .next s' ∧ s'.ops.filter (fun x => x.h == h) = [] ∧
            s'.crews.filter (fun c => c.h == o.crew) = [k'] ∧ ObjectIs m k'.scr off (lowered w o.ident.toNat 0 true)) ∧
        (o.arr = false → ∃ s', exec (.engineOpEnd h) s = .next s' ∧ s'.ops = s.ops.filter (fun x => x.h != h) ∧
          s'.crews = s.crews)))

/-- R276, R278, R285: an operation that stopped records its subcode in its object, with its remaining bytes counted off and its
arrival made. -/
def Sys2Proof.Slice0.EngineStopResult : Prop :=
  ∀ (s : State) (h : Nat) (o : EngOp) (k : Crew) (m : Mem) (off : Nat) (e : BitVec 8), OpAt s h o k m → o.stop = some e → e ≠ 0 →
    o.kind ≠ 0xC5 → o.obj = some off → off % 32 = 0 → CleanObject m off →
    let w := objWord m off
    (w 1).getLsbD 39 = false → o.left ≤ fld (w 0) 47 0 → (o.arr = true → fld (w 0) 63 48 ≠ 0) → (o.left ≠ 0 ∨ o.arr = true) →
    ∃ s' k', exec (.engineOpEnd h) s = .next s' ∧ s'.ops.filter (fun x => x.h == h) = [] ∧
      s'.crews.filter (fun c => c.h == o.crew) = [k'] ∧ ObjectIs m k'.scr off
        (lowered (fun i => if i = 1 then setBit (setFld (w 1) 47 40 e.toNat) 39 true else w i) o.ident.toNat o.left o.arr)

/-- R269 to R271, R274, R276, R278, R281, R285: an engine operation runs, completes or stops.
Rests in part on the model's own choices: log 15. -/
def Obligations.EngineRunResult : Prop := EngineOperationResult ∧ EngineStopResult

/-! ## The matrix engine -/

namespace Sys2Proof.Slice0

/-- The tiles of an instruction: the octets of OCTM, rising, take the tiles from DST on (R291). -/
def tilesOf (f : Fields) : List (Nat × Nat) :=
  let l := (List.range 8).filter fun i => f.hi.getLsbD i
  l.zip ((List.range l.length).map (f.dst.toNat + ·))

/-- No pass of the path's wave is still to be added to its tiles (R299). -/
def Settled' (s : State) (t : Th) : Prop := (s.passes.any fun p => p.wk == t.wk) = false

/-- A tile of which every element and every checksum passes its check and is no poison, with sums that match (R303). -/
def Whole (t : Tile) : Prop := t.scan = t ∧ drainCheck t = .ok none

/-- The exact sum of truncated products that a pass adds to an element of a tile of anchor `anchor` (R296). -/
def partial' (lsb : Int) (p : Pass) (r n k : Nat) : Int :=
  (((p.aRow r).zip (p.bCol n)).take k).foldl (fun a x => a + (toWindow lsb ((x.1.mul x.2).scale p.sh.toInt)).1) 0

end Sys2Proof.Slice0

/-- R93, R295, R296, R299: an MMA of register operands waits while its quad's buffer lacks its tokens; else it draws them and
retires, and its octet passes join the quad's array with the operands as they stand: rows of A from the lanes of the octet,
columns of B from every lane, zero where a lane does not execute. -/
def Sys2Proof.Slice0.MmaResult : Prop :=
  ∀ (s : State) (t : Th) (f : Fields) (ex : BitVec 64), Runs s t (.mma f) f .c ex → xAkind f = false → xBkind f = false →
    let cost := (tilesOf f).length * passTokens f.ty.toNat (xBty f).toNat
    let q := t.w.quadN
    (s.qbuf q < cost → exec (.mma f) s = .next (waits { t with p := { t.p with tokWait := true } } t.p.wait)) ∧
    (cost ≤ s.qbuf q → Unarmed t → (∀ L < 64, ∀ w < 16, sound (t.vreg (f.sa.toNat + w) L) = true ∧ sound (t.vreg (f.sb.toNat + w) L) = true) →
      ∃ ps, exec (.mma f) s = .next ({ t with s := { s.setQbuf q (s.qbuf q - cost) with passes := s.passes ++ ps } } : Th).retired ∧
        ps.map (fun p => (p.oct, p.tile)) = (tilesOf f).filter (fun x => t.p.exm.extractLsb' (8 * x.1) 8 != 0) ∧
        ∀ p ∈ ps, p.quad = q ∧ p.wk = t.wk ∧ p.eid = t.p.eid ∧ p.ia = t.p.pia ∧ p.ta = f.ty ∧ p.tb = xBty f ∧ p.sh = xAnch f ∧
          (∀ r < 8, ∀ w < 16, p.a.getD (16 * r + w) (zw 32) =
            if t.p.exm.getLsbD (8 * p.oct + r) then t.vreg (f.sa.toNat + w) (8 * p.oct + r) else zeroWord f.ty) ∧
          (∀ n < 64, ∀ w < 16, p.b.getD (16 * n + w) (zw 32) =
            if t.p.exm.getLsbD n then t.vreg (f.sb.toNat + w) n else zeroWord (xBty f)))

/-- R288, R290, R296, R298, R300: the oldest pass of a quad adds to each element the products of its row and column, each
truncated to the tile's window, exactly while no sum leaves the 128 bits; poison of a row or a column poisons the element; other
tiles do not change. -/
def Sys2Proof.Slice0.MatrixPassResult : Prop :=
  ∀ (s : State) (p : Pass) (rest : List Pass) (w : Wave), s.passes = p :: rest → s.badPa = none → s.wave p.wk = some w →
    ∃ s' w', exec (.matrixPass 0 []) s = .next s' ∧ s'.passes = rest ∧ s'.wave p.wk = some w' ∧ s'.ms = s.ms ∧
      s'.crews = s.crews ∧ w'.paths = w.paths ∧ w'.v = w.v ∧ (∀ n, n ≠ p.tile → w'.tile n = w.tile n) ∧
      (w'.tile p.tile).anchor = (w.tile p.tile).anchor ∧
      ∀ r < 8, ∀ n < 64,
        let e := (w.tile p.tile).elem r n
        let e' := (w'.tile p.tile).elem r n
        (e.res = 15 ∨ e.res = res e.e.toNat) →
        (∀ x ∈ (p.aRow r).zip (p.bCol n), specOf ((x.1.mul x.2).scale p.sh.toInt) = 0) →
        (∀ k ≤ 64, -(2 ^ 127 : Int) ≤ e.e.toInt + partial' (w.tile p.tile).lsb p r n k ∧
          e.e.toInt + partial' (w.tile p.tile).lsb p r n k < 2 ^ 127) →
        e'.e.toInt = e.e.toInt + partial' (w.tile p.tile).lsb p r n 64 ∧ e'.spec = e.spec ∧ e'.ovf = e.ovf ∧
        (e'.res = 15 ↔ p.aBad r = true ∨ p.bBad n = true ∨ e.res = 15)

/-- R93, R288, R290, R295 to R300: an MMA is accepted, and its passes add to the tile.
Rests in part on the model's own choices: log 34. -/
def Obligations.MatrixResult : Prop := MmaResult ∧ MatrixPassResult

/-- R303, R304, R305, R306, R307: MZERO zeroes its tiles at an anchor; MDRAIN of whole tiles writes each element, rounded, to the
lane of its column, poison for poison, and leaves the tiles, or with .clr zeroes them; MLOAD starts from zero, or adds; MSTAT
reads a tile's counts or the wave's CORR and RPL; MTOKEN retires when the buffer holds its tokens, and waits otherwise.
Rests in part on the model's own choices: log 35. -/
def Obligations.TileInstructionResult : Prop :=
  ∀ (s : State) (t : Th) (f : Fields) (ex : BitVec 64), Unarmed t → Settled' s t →
    (Runs s t (.mzero f) f .c ex → exec (.mzero f) s = .next ({ t with w := (tilesOf f).foldl (fun w x =>
      w.setTile x.2 { anchor := xAnch f, elems := [], cr := [], cc := [] }) t.w } : Th).retired) ∧
    (Runs s t (.mdrain f) f .c ex → xAkind f = false → f.rm.toNat < 5 → (∀ x ∈ tilesOf f, Whole (t.w.tile x.2)) →
      let cells := (tilesOf f).flatMap fun x => (List.range 8).flatMap fun r => (lanesOf t.p.exm).map fun n => (x.2, r, n)
      let written := cells.foldl (fun u c =>
        let e := (t.w.tile c.1).elem c.2.1 c.2.2
        u.putV (f.sa.toNat + 8 * (c.1 - f.dst.toNat) + c.2.1) c.2.2 false (e.res == 15)
          (drainPat f.ty.toNat { rm := f.rm.toNat, sat := f.sat, st := 0 } (t.w.tile c.1).lsb e)) t
      ∃ u : Th, exec (.mdrain f) s = .next u.retired ∧ u.p = written.p ∧ u.s = s ∧ u.w.v = written.w.v ∧
        (∀ n, (n ∉ (tilesOf f).map (·.2)) → u.w.tile n = t.w.tile n) ∧
        ∀ x ∈ tilesOf f, u.w.tile x.2 = 
          if f.sub = 1 then ({ anchor := (t.w.tile x.2).anchor, elems := [], cr := [], cc := [] } : Tile) else t.w.tile x.2) ∧
    (Runs s t (.mload f) f .c ex → xAkind f = false → f.sub = 0 →
      (∀ i < 64, ∀ L < 64, (t.srcV 32 (f.sa.toNat + i) L 1).ok = true ∧ (t.srcV 16 (f.sa.toNat + i) L 1).ok = true) →
      ∃ u : Th, exec (.mload f) s = .next u.retired ∧ u.p = t.p ∧ u.s = s ∧ u.w.v = t.w.v ∧
        (∀ n, (n ∉ (tilesOf f).map (·.2)) → u.w.tile n = t.w.tile n) ∧
        ∀ x ∈ tilesOf f, (u.w.tile x.2).anchor = (t.w.tile x.2).anchor ∧ ∀ r < 8, ∀ n ∈ lanesOf t.p.exm,
          let v := decodeF f.ty.toNat (t.srcV (if f.ty = 9 ∨ f.ty = 10 then 16 else 32) (f.sa.toNat + 8 * (x.2 - f.dst.toNat) + r) n 1).v
          let q := (toWindow (t.w.tile x.2).lsb v).1
          specOf v = 0 → -(2 ^ 127 : Int) ≤ q → q < 2 ^ 127 → ((u.w.tile x.2).elem r n).e.toInt = q) ∧
    (Runs s t (.mstatTile f) f .c ex → t.splitWrite f.sa.toNat = false →
      let tile := (t.w.tile f.dst.toNat).scan
      exec (.mstatTile f) s = .next (({ t with w := t.w.setTile f.dst.toNat tile } : Th).setS f.sa.toNat (mkW (BitVec.ofNat 64
        ((tile.elems.filter fun x => x.2.spec != 0).length * 2 ^ 54 + (tile.elems.filter fun x => x.2.res == 15).length * 2 ^ 44 +
          (tile.elems.filter fun x => x.2.ovf).length * 2 ^ 34 + (tile.elems.filter fun x => x.2.stk).length * 2 ^ 24 +
          tile.anchor.toNat)))).retired) ∧
    (Runs s t (.mstatCnt f) f .c ex → t.splitWrite f.sa.toNat = false →
      exec (.mstatCnt f) s = .next (t.setS f.sa.toNat (mkW (t.w.corr ++ t.w.rpl))).retired) ∧
    (Runs s t (.mtoken f) f .c ex →
      (fld f.hi 7 0 ≤ s.qbuf t.w.quadN → exec (.mtoken f) s = .next t.retired) ∧
      (s.qbuf t.w.quadN < fld f.hi 7 0 → exec (.mtoken f) s =
        .next (waits { t with p := { t.p with tokWait := true } } (.mtoken (fld f.hi 7 0)))))

/-! ## Events of issue, fetch and page service -/

namespace Sys2Proof.Slice0

/-- The error log of a function is disabled (R392, R396). -/
def Silent (s : State) (fn : Nat) : Prop := s.fnReg fn 0x20 = 0

end Sys2Proof.Slice0

/-- R89, R90, R93, R99: a quad's cycle selects, if any, a path of the quad that may issue, and changes no memory, no crew and no
register; a promotion is by age alone; a line that can be delivered is delivered to an offered path, and a line that fails raises
its cause at the path's instruction; a line fetched ahead of need traps and parks nothing.
Rests in part on the model's own choices: logs 7 and 13. -/
def Obligations.IssueAndFetchResult : Prop :=
  ∀ (s : State) (quad wk eid : Nat), s.badPa = none →
    (∃ s', exec (.quadIssueCycle quad) s = .next s' ∧ s'.ms = s.ms ∧ s'.crews = s.crews ∧ s'.ptime = s.ptime ∧
      (s.sel ≠ none → s' = s) ∧
      (∀ x, s.sel = none → s'.sel = some x → ∃ w p, (x.1, w, p) ∈ quadPaths s quad ∧ p.eid = x.2 ∧ issuable s w p = true ∧
        w.quadN = quad) ∧
      (∀ k w, s.wave k = some w → ∃ w', s'.wave k = some w' ∧ w'.v = w.v ∧ w'.sreg = w.sreg ∧ w'.p = w.p ∧ w'.tiles = w.tiles)) ∧
    exec (.pathPromote wk eid) s = .next s ∧
    (∀ t, s.view wk eid = some t →
      let due := ((offered s t.w).any fun p => p.eid == eid) = true
      (¬due → exec (.lineFetchComplete wk eid) s = .next s) ∧
      (due → lineHere t.p = true → (fetchAhead t).badPa = none → ∃ s', exec (.lineFetchComplete wk eid) s = .next s' ∧
        s'.waves = s.waves ∧ s'.parks = s.parks ∧ s'.crews = s.crews) ∧
      (∀ u d, due → lineHere t.p = false → targetHigh t = none → fetchLine t = .ok u d → u.commit.badPa = none →
        exec (.lineFetchComplete wk eid) s = .next u.commit ∧ u.p.line = some (t.p.pia.extractLsb' 6 58, d) ∧ u.p.pia = t.p.pia ∧
        slotMismatch d = 0 ∧ lineBad d = false) ∧
      (∀ u x, due → lineHere t.p = false → targetHigh t = none → fetchLine t = .trap u x → u.s.dbg = [] →
        u.s.badPa = none → Handles u → exec (.lineFetchComplete wk eid) s = .next (inHandler u x).commit))

namespace Sys2Proof.Slice0

/-- R256, R353, R358, for the one park of a function. -/
def responses (s : State) (fn idx : Nat) (k : Park) : Prop :=
  (k.dead = true ∨ (∃ c, s.crew k.crew = some c ∧ c.st = .saving) →
    ∀ e ∈ ([.prgResponseSuccess fn idx, .prgResponseInvalid fn idx] : List Instr),
      exec e s = .next { s with parks := s.parks.filter fun x => x.h != k.h }) ∧
  (∀ t wk eid, k.dead = false → (∀ c, s.crew k.crew = some c → c.st ≠ .saving) → k.denied = false → k.who = .path wk eid →
    s.view wk eid = some t → s.dbg = [] →
    (∃ s' w p, exec (.prgResponseSuccess fn idx) s = .next s' ∧ s'.parks = s.parks.filter (fun x => x.h != k.h) ∧
      s'.wave wk = some w ∧ w.path eid = some p ∧ p.st = .running ∧ p.park = none ∧ p.pia = t.p.pia ∧ p.s = t.p.s ∧
      w.v = t.w.v ∧ w.hmode = t.w.hmode ∧ s'.ms = s.ms) ∧
    (Handles t → ∃ s' w, exec (.prgResponseInvalid fn idx) s = .next s' ∧ s'.parks = s.parks.filter (fun x => x.h != k.h) ∧
      s'.wave wk = some w ∧ w.hmode = true ∧ w.hpath = eid ∧ w.tcause.toNat = k.cause.toNat ∧ w.taddr = k.addr ∧
      w.tlanes = k.lanes ∧ w.tinfo.toNat = k.cinfo.toNat ∧ w.tia = t.p.pia) ∧
    (Handles t → s.parks.filter (fun x => x.fn == fn) = [k] → ∃ s' w, exec (.prgResponseFailure fn idx) s = .next s' ∧
      (s'.fn fn).prStop = true ∧ s'.wave wk = some w ∧ w.hmode = true ∧ w.tcause.toNat = k.cause.toNat))

end Sys2Proof.Slice0

/-- R255, R256, R259, R353, R354, R358: a response with success lets the parked path make its access again; one without takes the
path into its handler with the cause of its park; Response Failure also stops the function's page requests; a response for a path
that is gone, or of a crew that is being saved, has no effect. A park that waited for an
index takes the lowest free one and sends its requests. An ATS invalidation drops the translations of host memory in its range.
A path parked for PARKLIM in an idempotent crew aborts the crew, which is requeued.
Rests in part on the model's own choices: logs 9 and 47. -/
def Obligations.PageServiceResult : Prop :=
  ∀ (s : State) (fn idx : Nat), s.badPa = none →
    (∀ k, s.parkAt fn idx = some k → responses s fn idx k) ∧
    (s.parkAt fn idx = none → ∀ e ∈ ([.prgResponseSuccess fn idx, .prgResponseInvalid fn idx, .prgResponseFailure fn idx] : List Instr),
      exec e s = .next s) ∧
    (∀ k i, s.parks.find? (fun k => k.fn == fn && k.idx.isNone && !k.dead && !k.denied) = some k → freePark s fn = some i →
      physOk (fld (s.fnReg fn 0x18) 63 14 * 2 ^ 14 + 32 * i) = true →
      ∃ s', exec (.pageRequestDeferred fn) s = .next s' ∧
        s'.parks = lmod s.parks (fun x => x.h == k.h) (fun _ => { k with idx := some i }) ∧
        s'.outbox.length = s.outbox.length + k.pages.length ∧ s'.waves = s.waves) ∧
    (∀ pasid va size, exec (.atsInvalidate pasid va size) s = .next { s with ms := { s.ms with tlb := s.ms.tlb.filter fun t =>
      !(t.pasid == pasid && isHost (leafFrame t.leaf) && (t.va < va.toNat + size && va.toNat < t.va + 2 ^ t.bits)) } }) ∧
    (∀ (t : Th) (c : Crew) (k : Nat × Nat), s.view k.1 k.2 = some t → s.crew t.w.crew = some c → c.h = t.w.crew →
      let lim := fld (s.ctxReg t.w.pasid 0x132) 31 0 * 1000
      ∀ q, t.p.st = .parked → (t.p.park.bind fun h => s.parks.find? fun k => k.h == h) = some q →
      (lim = 0 ∨ c.idem = false ∨ c.st ≠ .resident ∨ (s.ptime - q.t0).toNat < lim ∨ 4 ≤ c.requeues →
        exec (.parklimExpiry k.1 k.2) s = .next s) ∧
      (c.idem = true → c.st = .resident → lim ≠ 0 → c.requeues < 4 → lim ≤ (s.ptime - q.t0).toNat → Silent s c.fn →
        (∀ o ∈ s.ops, o.crew ≠ c.h) →
        ∃ s' c', exec (.parklimExpiry k.1 k.2) s = .next s' ∧ s'.crew c.h = some c' ∧ c'.st = .requeued ∧
          c'.requeues = c.requeues + 1 ∧ (∀ x ∈ s'.waves, x.2.crew ≠ c.h) ∧ s'.ms.phys = s.ms.phys))

/-! ## Routes, kicks and replays -/

namespace Sys2Proof.Slice0

/-- R77 to R80: kicks. -/
def kicks (s : State) (fn : Nat) (value : BitVec 64) : Prop :=
  let num := fld value 9 0
  let again (k : KickTry) : Prop :=
    s.tries = [k] ∧ k.fn = fn ∧ k.value = value ∧ k.next.toNat ≤ s.ptime.toNat ∧ s.cpWaits fn (.kick k.h) = false
  (∀ r u tbl, s.route fn num = some r → r.fn = fn → r.num = num → patchTable s r value = (u, .ok (some tbl)) → u.badPa = none →
    (tbl.all fun e => e.1.toNat < r.params.length) = true → r.queue.length < (if r.cur.isSome then 8 else 9) →
    let queued : Kick := { seq := value.extractLsb' 16 16, slot := fld value 15 10, patches := tbl.map fun e => (e.1.toNat, e.2) }
    let taken : Route := { r with queue := r.queue ++ [queued] }
    exec (.kick fn 64 value) s = .next (u.putRoute taken) ∧
    (∀ k, again k → exec (.kickReread fn 0) s = .next (({ u with tries := u.tries.filter fun x => x.h != k.h } : State).putRoute taken))) ∧
  (∀ r u, s.route fn num = some r → patchTable s r value = (u, .ok none) → u.badPa = none →
    exec (.kick fn 64 value) s = .next { u with
      tries := u.tries ++ [{ h := u.nextH, fn := fn, value := value, tries := 0, next := u.ptime + 250 }], nextH := u.nextH + 1 } ∧
    (∀ k, again k → k.tries < 7 → exec (.kickReread fn 0) s = .next { u with
      tries := lmod u.tries (fun x => x.h == k.h) fun x => { x with tries := k.tries + 1, next := k.next + 250 } }))

/-- R73, R396: registrations, and a refused command with its record in the error log. -/
def registrations (s : State) (fn num : Nat) (value : BitVec 64) : Prop :=
  let base := (s.fnReg fn 0x10).toNat / 64 * 64 + 32 * num
  let log := (s.fnReg fn 0x20).toNat / 2 ^ 17 * 2 ^ 17
  let wr := fld (s.fnReg fn 0x28) 23 0
  let rd := fld (s.fnReg fn 0x28) 47 24
  (∀ entry, num < 1024 → s.route fn num = none → s.cpWaits fn (.reg num) = false → s.physRead base 8 = some entry →
    (word64 entry 0 = 0 → exec (.rcmdRegister fn num) s = .next { s.dropRoute fn num with
      regPend := s.regPend.filter fun x => x != (fn, num) }) ∧
    (∀ u v hdr body r, word64 entry 0 ≠ 0 → fld (word64 entry 3) 63 20 = 0 →
      s.cpRead fn (fld (word64 entry 3) 19 0) (word64 entry 0) 64 = (u, .ok hdr) → headerOk hdr = true →
      u.cpRead fn (fld (word64 entry 3) 19 0) (word64 entry 0 + 64)
        (128 * fld (word64 hdr 0) 15 0 + 8 * fld (word64 hdr 0) 31 16) = (v, .ok body) → v.badPa = none →
      routeOf fn num entry hdr body = some r →
      ∃ s', exec (.rcmdRegister fn num) s = .next s' ∧ s'.routes = (s.dropRoute fn num).routes ++ [r] ∧
        r.nodes.length = fld (word64 hdr 0) 15 0 ∧ r.params.length = fld (word64 hdr 0) 31 16 ∧ r.rcompl = word64 entry 2)) ∧
  (∀ r, num < 1024 → s.route fn num = some r → r.fn = fn → r.num = num →
    (r.cur.isSome = true → ∃ s', exec (.rcmdRegister fn num) s = .next s' ∧ (fn, num) ∈ s'.regPend ∧ s'.routes = s.routes) ∧
    (r.cur.isSome = true → exec (.rcmdRetire fn num) s = .next (s.putRoute { r with retiring := true })) ∧
    (r.cur = none → r.queue = [] → ∃ s', exec (.rcmdRetire fn num) s = .next s' ∧ s'.route fn num = none)) ∧
  (log ≠ 0 → physOk log = true → isHost log = false → physOk (log + 128 * (wr % 1024)) = true → (wr + 2 ^ 24 - rd) % 2 ^ 24 ≠ 1024 →
    ∃ s', exec (.rcmdInvalid fn value) s = .next s' ∧ fld (s'.fnReg fn 0x28) 23 0 = (wr + 1) % 2 ^ 24 ∧
      s'.outbox = .msix fn 0 :: s.outbox ∧ s'.ms.phys.nat (log + 128 * (wr % 1024)) 8 = 0x0C ∧
      s'.ms.phys.nat (log + 128 * (wr % 1024) + 16) 8 = s.ptime.toNat ∧
      ∀ a, a < log + 128 * (wr % 1024) ∨ log + 128 * (wr % 1024) + 128 ≤ a → s'.ms.phys.byte a = s.ms.phys.byte a) ∧
  (Silent s fn → exec (.rcmdInvalid fn value) s = .next s)

/-- R70, R75, R76, R80: a replay and its nodes. -/
def replays (s : State) (fn num : Nat) (r : Route) : Prop :=
  (∀ k rest, r.cur = none → r.queue = k :: rest → s.regPend.contains (fn, num) = false →
    let patched := k.patches.foldl (fun l p => l.set p.1 p.2) r.params
    let begun : Replay := { seq := k.seq, params := patched, counts := [], ready := [0], running := [], begins := 0, failed := false }
    exec (.replayStart fn num) s = .next (s.putRoute { r with queue := rest, cur := some begun })) ∧
  (∀ rp i n, r.cur = some rp → r.nodes[i]? = some n → i ∈ rp.ready → s.cpWaits fn (.node num i) = false →
    rp.begins + 1 ≤ r.maxBegin.toNat →
    (fld n.ctl 7 0 = 0 → (∀ w < 8, w ≠ 0 → fld n.packet (64 * w + 63) (64 * w + 60) ≠ 0xF) →
      ∃ s' k, exec (.nodeBegin fn num i) s = .next s' ∧ s'.cons = s.cons ++ [k] ∧ k.packet = n.packet ∧ k.st = .waiting ∧
        k.node = i ∧ k.route = num ∧ k.fn = fn ∧ k.pasid = r.pasid ∧ k.seq = rp.seq ∧
        s'.agenda = s.agenda ++ [.dependenceReread k.h] ∧
        s'.route fn num = some { r with cur := some { rp with ready := rp.ready.erase i, begins := rp.begins + 1,
                                                              running := rp.running ++ [i] } }) ∧
    (fld n.ctl 7 0 = 2 → ∀ j m, fld n.ctl 31 16 = j → fld n.ctl 47 32 = 0xFFFF → r.nodes[j]? = some m → r.nodes[0xFFFF]? = none → j ≠ 0 →
      fld m.ctl 15 8 = 1 →
      exec (.nodeBegin fn num i) s = .next (s.putRoute { r with cur := some { rp with ready := rp.ready.erase i ++ [j],
                                                                                       begins := rp.begins + 1,
                                                                                       counts := sset 0 rp.counts j 0 } })))

end Sys2Proof.Slice0

/-- R70, R73, R75, R76 to R80, R396: a kick whose patch table matches is queued on its route, one that does not is read again every
250 ns; a route is registered from its table entry and object, waits for its running replays, and is retired when none is left;
a replay begins with the defaults patched and node 0 ready; a LAUNCH node makes its consignment, a JOIN node arrives at its
successors; and a command that is none is logged. Rests in part on the model's own choices: log 44. -/
def Obligations.RouteResult : Prop :=
  ∀ (s : State) (fn : Nat), s.badPa = none →
    (∀ value, kicks s fn value) ∧ (∀ num value, registrations s fn num value) ∧
    ∀ num r, s.route fn num = some r → r.fn = fn → r.num = num → replays s fn num r

/-! ## Consignments and caravans -/

namespace Sys2Proof.Slice0

/-- The arrival of a consignment on its COMPL, which is 0 for none, takes `s` to `u`: its object is the one that BARRIVE would reach,
and a failed consignment arrives in error (R72, R331). -/
def Arrived (s u : State) (k : Cons) : Prop :=
  (k.compl = 0 ∧ u = s) ∨
  (k.compl ≠ 0 ∧ k.compl.toNat % 32 = 0 ∧ ∃ v l o,
    resolve s (cpAgent s k.fn k.pasid) { noStk := true, noDsc := true } { r := true, w := true, a := true } 32 [(0, k.compl)] 4900 =
      (v, .ok [l]) ∧
    v.updObj (cpAgent s k.fn k.pasid) l (·.lower 0xFFFF 0 true (if k.failed then eLaunch else 0)) = some o ∧ u = o.rereadAll)

/-- R72, R75, R76: the consignment goes, its node has run and arrives at its successors, unless it has failed; the replay that
has nothing left ends. -/
def completions (s : State) (k : Cons) : Prop :=
  (consDone s k = true → s.cpWaits k.fn (.compl k.h) = false → ∀ u, Arrived s u k → u.badPa = none →
    let gone : State := { u with cons := u.cons.filter fun x => x.h != k.h }
    (u.route k.fn k.route = none → exec (.consignmentComplete k.h) s = .next gone) ∧
    (∀ r rp n, u.route k.fn k.route = some r → r.fn = k.fn → r.num = k.route → r.cur = some rp → r.nodes[k.node]? = some n →
      let ran : Replay := { rp with running := rp.running.erase k.node, failed := rp.failed || k.failed }
      let rp' := if k.failed then ran else n.succs.foldl (·.arrive r.nodes ·) ran
      ((rp'.ready ≠ [] ∨ rp'.running ≠ []) →
        exec (.consignmentComplete k.h) s = .next (gone.putRoute { r with cur := some rp' })) ∧
      (rp'.ready = [] → rp'.running = [] → r.rcompl = 0 → r.retiring = false → u.cpWaits k.fn (.rcompl k.route) = false →
        ∃ s', exec (.consignmentComplete k.h) s = .next s' ∧ (∃ x, s'.route k.fn k.route = some x ∧ x.cur = none ∧ x.queue = r.queue) ∧
          s'.cons = gone.cons ∧ s'.ms = u.ms))) ∧
  (consDone s k = false → exec (.consignmentComplete k.h) s = .next s)

/-- R70 to R72. -/
def consignments (s : State) (k : Cons) : Prop :=
  (k.st = .waiting → s.cpWaits k.fn (.cons k.h) = false → (s.stop = false ∨ k.reread = none) → (∀ i ∈ k.unmet, k.word i = 0) →
    exec (.dependenceReread k.h) s = .next { s.putCons { k with
      st := .ready, unmet := [], reread := some (s.ptime + 1000), order := s.nextH } with nextH := s.nextH + 1 }) ∧
  (k.st = .waiting → s.stop = true → k.reread ≠ none → exec (.dependenceReread k.h) s = .next s) ∧
  (∀ u ws, beginsNext s k = true → s.cpWaits k.fn (.cons k.h) = false → s.cpRead k.fn k.pasid k.code 192 = (u, .ok ws) → u.badPa = none →
    let k' : Cons := { k with hdr := BitVec.ofNat 1536 (natOf ws) }
    headerErr k'.hdr k.crews = none → packetOk k.packet = true → fitsEmpty s k' = true → k.packet.getLsbD 26 = false →
    ∃ s' c, exec (.consignmentBegin k.h) s = .next s' ∧ s'.consOf k.h = some c ∧ c.st = .begun ∧ c.total = fld k.packet 95 64 ∧
      c.hdr = k'.hdr ∧ (c.total = 0 → s'.cavs = s.cavs) ∧
      (c.total ≠ 0 → ∃ v ∈ s'.cavs, v.cons = k.h ∧ v.carav = 0 ∧ v.st = .queued)) ∧
  completions s k

/-- R85 to R87, R357. -/
def caravans (s : State) (v : Cav) (k : Cons) : Prop :=
  (∀ l, nextCav s = some (v, k, l) → s.ptime.toNat < 2 ^ 63 →
    ∃ s' t, exec (.caravanHandover v.h) s = .next s' ∧ t.toNat % 1000 = 0 ∧ s.ptime.toNat + 1000 ≤ t.toNat ∧
      t.toNat < s.ptime.toNat + 2000 ∧ (∃ x ∈ s'.cavs, x.h = v.h ∧ x.st = .starting t) ∧
      s.crews.length ≤ s'.crews.length ∧ s'.ms = s.ms) ∧
  ((∀ x, nextCav s = some x → x.1.h ≠ v.h) → exec (.caravanHandover v.h) s = .next s) ∧
  (∀ t, v.st = .starting t →
    (s.ptime.toNat < t.toNat → exec (.caravanStart v.h) s = .next s) ∧
    (t.toNat ≤ s.ptime.toNat → ∃ s', exec (.caravanStart v.h) s = .next s' ∧ (∃ x ∈ s'.cavs, x.h = v.h ∧ x.st = .running) ∧
      (∀ c ∈ s.crews, c.cav = v.h → (c.st = .placed ∨ c.st = .restoring) → c.start = t → (∀ x ∈ s.crews, x.abort = none) →
        { c with st := .resident, cwdog := c.start - c.cwdog } ∈ s'.crews) ∧
      ((∀ x ∈ s.crews, x.abort = none) → s'.ms = s.ms))) ∧
  (∀ t, v.head = some t → v.st = .queued → v.held = none → s.consOf v.cons = some k → heldCav s k.fn = none →
    (s.ptime.toNat - t.toNat < 50000 → exec (.caravanHold v.h) s = .next s) ∧
    (50000 ≤ s.ptime.toNat - t.toNat → ∃ s', exec (.caravanHold v.h) s = .next s' ∧
      s'.cavs = lmod s.cavs (fun x => x.h == v.h) (fun x => { x with held := some s.ptime }) ∧ s'.crews = s.crews)) ∧
  (∀ t, v.held = some t → v.st = .queued → s.consOf v.cons = some k →
    ((s.ptime - t).toNat < 50000 → exec (.holdPreempt v.h) s = .next s) ∧
    (∀ h c, 50000 ≤ (s.ptime - t).toNat →
      (placeCrews (launchSpec k.hdr) (usable s k.fn k.packet) (useAfter s) k.crews 0 []).isSome = false → victim s k = some h → s.crew h = some c → c.h = h →
      c.st = .resident → c.idem = false → recordLeft s c.pasid = true →
      exec (.holdPreempt v.h) s = .next (s.putCrew { c with st := .saving })))

end Sys2Proof.Slice0

/-- R70 to R72, R85 to R87, R357: a consignment with its dependences met is ready; it begins with the caravans of its packet, the
first one queued; it completes when its work has ended. A caravan handed over starts at the first 1,000 ns tick that is 1,000 ns
away, and its crews become resident then; one that heads its queue for 50,000 ns is held; held 50,000 ns more it takes a crew of
lower priority off. Rests in part on the model's own choices: log 45. -/
def Obligations.ConsignmentResult : Prop :=
  ∀ (s : State), s.badPa = none →
    (∀ k, s.consOf k.h = some k → consignments s k) ∧
    ∀ v k, s.cavs.find? (fun x => x.h == v.h) = some v → s.consOf k.h = some k → caravans s v k

/-! ## Power -/

/-- R401, R92: a write of PWRLIM takes effect at the next refill: until then the limit in force, which the OVER test of the
microsecond that ends uses, stays; the refill itself is of the new limit. After the refill the governor of every core steps, by the
vector instructions its core has issued in the microsecond that ends and their live lanes. PWRLIM is function 0's, clamped to
1,400 to 2,800 W. -/
def Obligations.PowerLimitResult : Prop :=
  ∀ (s : State) (drawn fn : Nat) (value : BitVec 64), s.badPa = none →
    let limit := fld (s.pkgReg 0x110) 11 0
    let watt := 84000000
    let refill := max (limit * watt - drawn) (limit * watt / 10) / ((List.range 8).filter s.online).length
    let overs := s.pkg.limit * watt < drawn + s.pkg.drawn * 68880
    (fn ≠ 0 → exec (.pwrlimWrite fn value) s = .next s) ∧
    (∃ s', exec (.pwrlimWrite 0 value) s = .next s' ∧ (s'.pkgReg 0x110).toNat = min 2800 (max 1400 (fld value 11 0)) ∧
      s'.pkg.limit = s.pkg.limit ∧ ∀ off, off ≠ 0x110 → s'.pkgReg off = s.pkgReg off) ∧
    (s.ptime.toNat / 1000 ≤ s.pkg.refilled → exec (.purseRefill drawn) s = .next s) ∧
    (s.pkg.refilled < s.ptime.toNat / 1000 → ∃ s', exec (.purseRefill drawn) s = .next s' ∧ s'.pkg.limit = limit ∧
      (∀ d, sget 0 s'.pkg.purse d = if s.online d then min (sget 0 s.pkg.purse d + refill) (2 * refill) else sget 0 s.pkg.purse d) ∧
      s'.pkg.overs = (if overs then s.pkg.overs + 1 else 0) ∧ (s'.pkgReg 0x118).getLsbD 0 = decide overs ∧
      s'.pkg.refilled = s.pkg.refilled + 1 ∧ s'.pkg.bound = 0 ∧ s'.pkg.vecs = [] ∧
      s'.agenda = (List.range 384).map (fun c => .governorStep c (sget (0, 0) s.pkg.vecs c).2 (sget (0, 0) s.pkg.vecs c).1) ++ s.agenda ∧
      s'.waves = s.waves ∧ s'.crews = s.crews ∧ s'.ms = s.ms)

/-- R96: the governor sets a core's clock once for each 1,000 ns tick. Rests in part on the model's own choices: log 54. -/
def Obligations.GovernorResult : Prop :=
  ∀ (s : State) (core live issued : Nat), s.badPa = none →
    let now := s.clock core
    let bound := s.pkg.wasBound.getLsbD (core / 48)
    (s.pkg.refilled ≤ sget 0 s.pkg.gov core → exec (.governorStep core live issued) s = .next s) ∧
    (sget 0 s.pkg.gov core < s.pkg.refilled → ∃ s', exec (.governorStep core live issued) s = .next s' ∧
      (4 ≤ s.pkg.overs → s'.clock core = max 1500 (now - 75)) ∧
      (s.pkg.overs < 4 → bound = true ∨ s.pkg.overs ≠ 0 ∨ now < 2250 ∨ issued = 0 ∨ 3 * (64 * issued) ≤ 4 * live → s'.clock core = 2250) ∧
      (s.pkg.overs = 0 → bound = false → 2250 ≤ now → issued ≠ 0 → 2 * live < 64 * issued → s'.clock core = 2700) ∧
      (s.pkg.overs = 0 → bound = false → 2250 ≤ now → 64 * issued ≤ 2 * live → 4 * live < 3 * (64 * issued) → s'.clock core = 2475) ∧
      (∀ c, c ≠ core → s'.clock c = s.clock c) ∧ sget 0 s'.pkg.gov core = sget 0 s.pkg.gov core + 1 ∧ s'.waves = s.waves ∧ s'.ms = s.ms)

namespace Sys2Proof.Slice0

/-- The crew as it is placed on a core anew, to start at the first 1,000 ns tick that is 1,000 ns away (R85, R355). -/
def placedAnew (s : State) (c : Crew) (core : Nat) : Crew :=
  { c with die := core / 48, core := core % 48, st := .placed, start := BitVec.ofNat 64 ((s.ptime.toNat + 1999) / 1000 * 1000),
           scr := Mem.empty, bars := [], chans := [], engErr := 0, region := none, logged := [], cwdog := 0, abort := none }

/-- Crew `h` has gone: neither it nor a wave of it stands anywhere, and its consignment is marked failed. -/
def Aborted (s : State) (c : Crew) : Prop :=
  (∀ x ∈ s.crews, x.h ≠ c.h) ∧ (∀ x ∈ s.waves, x.2.crew ≠ c.h) ∧ ∀ k ∈ s.cons, k.h = c.cons → k.failed = true

end Sys2Proof.Slice0

/-- R353 to R356, R362: a requeued crew all of whose page groups are answered is placed anew where it fits; a wave that retires
nothing for WLIM µs, and a crew that runs for CLIM µs, end as aborts, with CARV the whole caravan; the abort of a crew that is being
saved or restored waits for the end of that. Rests in part on the model's own choices: log 46. -/
def Obligations.RequeueAndWatchdogResult : Prop :=
  ∀ (s : State) (c : Crew), s.badPa = none → s.crew c.h = some c →
    (c.eligible s = false ∨ c.mayReturn s = false ∨ crewSpot s c = none → exec (.crewRequeuePlace c.h) s = .next s) ∧
    (∀ p x, c.eligible s = true → c.mayReturn s = true → crewSpot s c = some (p, x) → ∃ s', exec (.crewRequeuePlace c.h) s = .next s' ∧
      s'.crew c.h = some (placedAnew s c x.core) ∧ s'.ms = s.ms ∧ s'.parks = s.parks) ∧
    (∀ wk w, s.wave wk = some w → w.crew = c.h →
      let lim := fld (s.ctxReg w.pasid 0x152) 31 0 * 1000
      (lim = 0 ∨ w.ended = true ∨ c.st ≠ .resident ∨ s.ptime.toNat < w.wdog.toNat + lim → exec (.waveWatchdogExpiry wk) s = .next s) ∧
      (c.st = .resident → lim ≠ 0 → w.ended = false → w.wdog.toNat + lim ≤ s.ptime.toNat → s.ops = [] → s.dbg = [] → Silent s c.fn →
        ∃ s', exec (.waveWatchdogExpiry wk) s = .next s' ∧ Aborted s' c ∧ s'.ms.phys = s.ms.phys)) ∧
    (let r := s.ctxReg c.pasid 0x152
     let lim := fld r 62 32 * 1000
     (c.st ≠ .resident ∨ lim = 0 ∨ s.ptime.toNat < c.cwdog.toNat + lim → exec (.crewWatchdogExpiry c.h) s = .next s) ∧
     (c.st = .resident → lim ≠ 0 → c.cwdog.toNat + lim ≤ s.ptime.toNat → s.ops = [] → s.dbg = [] → (∀ fn, Silent s fn) →
       ∃ s', exec (.crewWatchdogExpiry c.h) s = .next s' ∧ Aborted s' c ∧ s'.ms.phys = s.ms.phys ∧
         (r.getLsbD 63 = true → ∀ x ∈ s'.crews, x.cav = c.cav →
           x.st = .ended ∨ (x.st = .saving ∨ x.st = .restoring) ∧ x.abort ≠ none)))

namespace Sys2Proof.Slice0

/-- R357, R393: the one crew that a pre-emption command names is to be saved, if a record is left for it. -/
def selects (s : State) (fn : Nat) (e : Instr) (mine : Crew → Bool) : Prop :=
  let idle := s.setFnReg fn 0x40 (setBit (s.fnReg fn 0x40) 20 false)
  (∀ c, s.crews.filter mine = [c] → c.fn = fn → s.crew c.h = some c → c.st = .resident → c.idem = false →
    (recordLeft s c.pasid = true → exec e s = .next (s.putCrew { c with st := .saving })) ∧
    (recordLeft s c.pasid = false → (∀ x ∈ s.crews, x.st ≠ .saving) → exec e s = .next idle)) ∧
  (s.crews.filter mine = [] → (∀ c ∈ s.crews, c.st ≠ .saving) → exec e s = .next idle)

end Sys2Proof.Slice0

/-- R357, R358, R361, R362, R366, R393: a pre-emption command selects the crews it names and stays BUSY while one is being saved; a
crew that has drained is saved in a free record and its waves leave their slots, and an abort that waited for that takes effect; a
saved crew returns to a core of its die, to start at a tick; BPREL releases held paths. A step is taken to reach no address that
names no memory. Rests in part on the model's own choices: logs 10 and 45. -/
def Obligations.PreemptionResult : Prop :=
  ∀ (s : State) (fn : Nat), s.badPa = none →
    (∀ pasid, let r := s.fnReg fn 0x40; fld r 63 62 = 1 → fld r 19 0 = pasid → r.getLsbD 20 = true →
      selects s fn (.precmdContext fn pasid) fun c => c.fn == fn && c.pasid == pasid) ∧
    (∀ route node, let r := s.fnReg fn 0x40; fld r 63 62 = 2 → fld r 61 52 = route → fld r 51 40 = node → r.getLsbD 20 = true →
      selects s fn (.precmdConsignment fn route node) fun c => match s.consOf c.cons with
        | some k => k.fn == fn && k.route == route && k.node == node
        | none => false) ∧
    (∀ c, s.crew c.h = some c →
      (c.st ≠ .saving ∨ drained s c = false ∨ freeRecord s c.pasid = none → exec (.crewSave c.h) s = .next s) ∧
      (∀ n, c.st = .saving → freeRecord s c.pasid = some n → drained s c = true → (saveCrew s c n).badPa = none →
        ∃ s', exec (.crewSave c.h) s = .next s' ∧ (∀ x ∈ s'.waves, x.2.crew ≠ c.h) ∧ (∀ o ∈ s'.ops, o.crew ≠ c.h) ∧
          (c.abort = none → ∃ c', s'.crew c.h = some c' ∧ c'.st = .saved ∧ c'.recNo = some n) ∧ (c.abort ≠ none → Aborted s' c)) ∧
      (c.st ≠ .saved ∨ c.recNo = none ∨ c.mayReturn s = false ∨ crewSpot s c = none → exec (.crewRestore c.h) s = .next s) ∧
      (∀ n p x, c.st = .saved → c.recNo = some n → c.mayReturn s = true → crewSpot s c = some (p, x) →
        (∀ y ∈ s.crews, y.die = c.die → y.eligible s = false) → (restoreCrew s c n p x).badPa = none →
        ∃ s' c', exec (.crewRestore c.h) s = .next s' ∧ s'.crew c.h = some c' ∧ c'.st = .restoring ∧ c'.recNo = none ∧
          c'.die = x.core / 48 ∧ c'.core = x.core % 48 ∧ c'.start.toNat = (s.ptime.toNat + 1999) / 1000 * 1000 % 2 ^ 64 ∧
          s'.ops.length = s.ops.length + c.savedOps.length)) ∧
    ∀ value, ∃ s', exec (.bprel fn value) s = .next s' ∧ s'.ms = s.ms ∧ s'.crews = s.crews ∧
      ∀ k w, s.wave k = some w →
        if w.pasid = fld value 19 0 ∧ s.fnOfDie w.die = fn then ∃ w', s'.wave k = some w' ∧ w'.v = w.v ∧ w'.sreg = w.sreg ∧
          w'.paths = w.paths.map (fun p =>
            if value.getLsbD 39 = true ∨ (identOf w).toNat = fld value 35 20 ∧ p.idx = fld value 38 36 then { p with held := none } else p) ∧
          (value.getLsbD 39 = true → ∀ q ∈ w'.spilled, q.held = none)
        else s'.wave k = some w

/-! ## Stores on their way home -/

namespace Sys2Proof.Slice0

/-- Every word that the store writes is written whole. -/
def Whole' (p : PStore) : Prop := ∀ i < 16, p.maskAt i = 0 ∨ p.maskAt i = 15

/-- The home block holds the store's words and its pair; every other word of memory is as it was. -/
def Written (s s' : State) (p : PStore) : Prop :=
  (∀ i < 16, s'.ms.phys.word (16 * p.blk + i) = if p.maskAt i = 15 then mkP (p.poison.getLsbD i) (p.data.extractLsb' (32 * i) 32)
    else s.ms.phys.word (16 * p.blk + i)) ∧
  s'.ms.phys.pair p.blk = p.pair ∧ (∀ w, w / 16 ≠ p.blk → s'.ms.phys.word w = s.ms.phys.word w) ∧
  s'.ms.phys.marks = s.ms.phys.marks

/-- The dies whose acknowledgement a home write waits for: the sharers of its region (R319), or its replicas (R321). -/
def awaited (s : State) (p : PStore) : BitVec 8 := if p.rep then s.replicas p.home else s.sharers p

/-- The store as it stands once its home has written it. -/
def performed (s : State) (p : PStore) : PStore :=
  { p with stage := if awaited s p = 0 then .done else .atHome, wait := awaited s p, got := 0, part := 0 }

/-- An invalidation of block `b` has reached the L1D of a core: a copy stands only while the core has a store to the block that is
not performed yet, and is then marked (R314). -/
def Invalidated (s s' : State) (b core : Nat) : Prop :=
  ∀ c ∈ s'.ms.l1d, c.blk = b → c.core = core → c.inv = true ∧ s.pending core b ≠ []

/-- R319: the writer's die takes a store to a remote home before it sends it; the memory controllers reject one of a generation
that is not theirs, which is counted and made again (R252). -/
def onItsWay (s : State) (p : PStore) : Prop :=
  (p.stage = .buffered → p.remote = true → s.online p.home = true →
    (s.sendWaits p = true → exec (.homeWrite p.sid) s = .next s) ∧
    (s.sendWaits p = false → Whole' p → ∃ s', exec (.homeWrite p.sid) s = .next s' ∧
      s'.findStore p.sid = some { p with stage := .sent, seq := s.ms.nextSid } ∧ s'.ms.phys = s.ms.phys ∧ s'.waves = s.waves ∧
      (∀ core, core ≠ p.core → core / 48 = p.core / 48 → Invalidated s s' p.blk core) ∧
      ∀ c ∈ s'.ms.way, c.blk = p.blk → c.die = p.core / 48 → ∀ i < 16, p.maskAt i = 15 →
        c.data.word i = mkP (p.poison.getLsbD i) (p.data.extractLsb' (32 * i) 32))) ∧
  ((p.stage = .sent ∨ p.stage = .buffered ∧ p.remote = false) → s.storeWaits p = true → exec (.homeWrite p.sid) s = .next s) ∧
  ((p.stage = .sent ∨ p.stage = .buffered ∧ p.remote = false) → s.storeWaits p = false → s.online p.home = true →
    s.accepted p = false → (s.replayStore p).badPa = none →
    ∃ s', exec (.homeWrite p.sid) s = .next s' ∧ s'.ms.phys = s.ms.phys ∧ s'.ctxReg p.pasid 0x130 = s.ctxReg p.pasid 0x130 + 1)

/-- R314, R319: HOME_WRITE, INVALIDATE, INVALIDATE_ACK, and what reaches the writer's die. -/
def plainStore (s : State) (p : PStore) : Prop :=
  ((p.stage = .sent ∨ p.stage = .buffered ∧ p.remote = false) → s.storeWaits p = false → s.accepted p = true →
    s.online p.home = true → isHost (64 * p.blk) = false → p.rep = false → Whole' p →
    ∃ s', exec (.homeWrite p.sid) s = .next s' ∧ Written s s' p ∧ s'.findStore p.sid = some (performed s p) ∧ s'.waves = s.waves) ∧
  (∀ die, p.stage = .atHome → p.rep = false → p.wait.getLsbD die = true →
    (p.got.getLsbD die = false → ∃ s', exec (.invalidate die p.sid) s = .next s' ∧
      (∀ core, core / 48 = die → Invalidated s s' p.blk core) ∧
      s'.ms.way = s.ms.way.filter (fun c => !(c.blk == p.blk && c.die == die)) ∧ s'.ms.phys = s.ms.phys ∧
      s'.findStore p.sid = some { p with got := setBit p.got die true }) ∧
    (p.got.getLsbD die = true → s.stale p.blk [die] = true → exec (.invalidateAck die p.sid) s = .next s) ∧
    (p.got.getLsbD die = true → s.stale p.blk [die] = false → ∃ s', exec (.invalidateAck die p.sid) s = .next s' ∧ s'.ms.phys = s.ms.phys ∧
      s'.findStore p.sid = some (if setBit p.wait die false = 0 then { p with stage := .done, wait := 0, got := 0 }
        else { p with wait := setBit p.wait die false, got := setBit p.got die false }))) ∧
  (p.stage = .atHome → p.told = false → ∃ s', exec (.acceptDoneReceive p.sid) s = .next s' ∧ s'.ms.phys = s.ms.phys ∧
    s'.findStore p.sid = some { p with told := true }) ∧
  (p.stage = .done → s.stale p.blk [p.home, p.core / 48] = true → exec (.acceptDoneReceive p.sid) s = .next s) ∧
  (p.stage = .done → p.part = 0 → s.stale p.blk [p.home, p.core / 48] = false → ∃ s', exec (.acceptDoneReceive p.sid) s = .next s' ∧ s'.ms.phys = s.ms.phys ∧
    s'.ms.stores = s.ms.stores.filter fun q => q.sid != p.sid) ∧
  (p.stage = .atHome → isHost (64 * p.blk) = true → p.part = 0 → ∃ s', exec (.hostLinkCompletion p.sid) s = .next s' ∧
    s'.ms.phys = s.ms.phys ∧ s'.ms.stores = s.ms.stores.filter fun q => q.sid != p.sid) ∧
  (p.stage ≠ .atHome ∨ isHost (64 * p.blk) = false → exec (.hostLinkCompletion p.sid) s = .next s)

/-- R321: the two steps of a commit on a replicated page. -/
def replicated (s : State) (p : PStore) : Prop :=
  (p.stage = .buffered → s.storeWaits p = false → s.online p.home = true → s.accepted p = true → s.replicas p.home ≠ 0 →
    exec (.homeWrite p.sid) s = .next (s.putStore { p with stage := .locking, wait := s.replicas p.home, got := 0 })) ∧
  (∀ die, p.stage = .locking → p.wait.getLsbD die = true →
    (s.locked die p.blk = false → exec (.replicaLock die p.sid) s = .next { s with ms := { s.ms with locks := (die, p.blk) :: s.ms.locks } }) ∧
    (s.locked die p.blk = true → p.got.getLsbD die = false →
      let p' : PStore := { p with got := setBit p.got die true }
      (p.wait &&& ~~~p'.got ≠ 0 → ∃ s', exec (.replicaLockAck die p.sid) s = .next s' ∧ s'.findStore p.sid = some p' ∧
        s'.ms.phys = s.ms.phys) ∧
      (p.wait &&& ~~~p'.got = 0 → Whole' p → s.replicas p.home ≠ 0 → ∃ s', exec (.replicaLockAck die p.sid) s = .next s' ∧
        Written s s' p ∧ s'.findStore p.sid = some (performed s p)))) ∧
  (∀ die, p.stage = .atHome → p.wait.getLsbD die = true → p.part = 0 → p.blk / 2 ^ 31 = p.home →
    let mine := p.blk % 2 ^ 31 + 2 ^ 31 * die
    ∃ s', exec (.replicaUpdate die p.sid) s = .next s' ∧ (∀ i < 16, s'.ms.phys.word (16 * mine + i) = s.ms.phys.word (16 * p.blk + i)) ∧
      s'.ms.phys.pair mine = s.ms.phys.pair p.blk ∧ (∀ w, w / 16 ≠ mine → s'.ms.phys.word w = s.ms.phys.word w) ∧
      s'.locked die p.blk = false ∧ s'.findStore p.sid = some (if setBit p.wait die false = 0 then
        { p with stage := .done, wait := 0, got := 0 } else { p with wait := setBit p.wait die false }))

end Sys2Proof.Slice0

/-- R235, R252, R314, R319, R321, R327: a store to another die is taken by its own die and sent; it reaches its home when nothing
earlier holds it back and its generation is accepted, and its words are written; the sharers of its region drop their copies and
acknowledge, and with the last acknowledgement it is done. On a replicated page the replicas are locked first and take the home copy after. A word of which some bytes are written merges at home, and is poison
where it was poison or failed its check. Rests in part on the model's own choices: logs 14 and 40. -/
def Obligations.StoreReachesHome : Prop :=
  ∀ (s : State) (p : PStore), s.badPa = none → s.findStore p.sid = some p →
    onItsWay s p ∧ plainStore s p ∧ (p.rep = true → isHost (64 * p.blk) = false → replicated s p) ∧
    (∀ i, i < 16 → p.maskAt i ≠ 0 → p.maskAt i ≠ 15 → p.part.getLsbD i = true → s.dbg = [] → Silent s (s.fnOfDie p.home) →
      let w := 16 * p.blk + i
      let old := s.ms.phys.word w
      ∃ s', exec (.cachePartialMerge p.sid w) s = .next s' ∧ (∀ j < 4, s'.ms.phys.byte (4 * w + j) =
          if (p.maskAt i).getLsbD j then p.data.extractLsb' (32 * i + 8 * j) 8 else s.ms.phys.byte (4 * w + j)) ∧
        bad (s'.ms.phys.word w) = (p.poison.getLsbD i || bad old || !sound old) ∧
        (∀ v, v ≠ w → s'.ms.phys.word v = s.ms.phys.word v) ∧
        s'.findStore p.sid = some { p with part := setBit p.part i false })

/-- R228, R254, R319, R322: the waystation cache takes a line from its home, and the home notes the sharer; when the die has
evicted the region, the bit is cleared. A hardware prefetch brings at most a copy of its block, as a load would read it, and changes
no memory and no wave; one that meets a cause is dropped and counted. A load that has stalled
2,000 ns on a locked replica is selected. Rests in part on the model's own choices: logs 5, 40 and 41. -/
def Obligations.CopiesResult : Prop :=
  ∀ (s : State) (die blk region : Nat), s.badPa = none →
    (physOk (64 * blk) = true → isHost (64 * blk) = false → dieOf (64 * blk) ≠ die → s.online die = true →
      s.online (dieOf (64 * blk)) = true → ∃ s', exec (.waystationFill die blk) s = .next s' ∧
        s'.wayCopy die blk = some { die := die, blk := blk, data := overlay (s.ms.phys.blk blk) (s.sentBy die blk) } ∧
        (sget 0 s'.ms.dir (blk / 64)).getLsbD die = true ∧ s'.ms.phys = s.ms.phys) ∧
    (dieOf (64 * blk) = die ∨ isHost (64 * blk) = true → exec (.waystationFill die blk) s = .next s) ∧
    ((∀ c ∈ s.ms.l1d, c.core / 48 = die → c.blk / 64 = region → c.pin = none) →
      ∃ s', exec (.waystationEvictReport die region) s = .next s' ∧ (sget 0 s'.ms.dir region).getLsbD die = false ∧
        (∀ c ∈ s'.ms.way, ¬ (c.die = die ∧ c.blk / 64 = region)) ∧ (∀ r, r ≠ region → sget 0 s'.ms.dir r = sget 0 s.ms.dir r) ∧
        s'.ms.phys = s.ms.phys) ∧
    (∀ core wk va, s.wave wk = none → exec (.hardwarePrefetch core wk va) s = .next s) ∧
    (∀ wk w va u a pa m, s.wave wk = some w →
      prefetchLoc s { agentOf s wk w 0 with hm := false } (0, va) = (u, some (some (.mem a pa m))) → u.badPa = none →
      physOk (64 * m.blk) = true →
      ∃ s', exec (.hardwarePrefetch w.coreN wk va) s = .next s' ∧ s'.waves = u.waves ∧ s'.crews = u.crews ∧ s'.ctxs = u.ctxs ∧
        s'.ms.phys = u.ms.phys ∧ s'.ms.stores = u.ms.stores ∧
        (∀ c ∈ s'.ms.l1d, c ∈ u.ms.l1d ∨ c.core = w.coreN ∧ c.blk = m.blk ∧ (c.data = u.dieBlk w.coreN m ∨
          ∃ y, u.wayCopy (w.coreN / 48) m.blk = some y ∧ c.data = y.data))) ∧
    (∀ wk w va, s.wave wk = some w → (aperture s w.pasid va).isSome = true → exec (.hardwarePrefetch w.coreN wk va) s = .next s) ∧
    (∀ wk w va, s.wave wk = some w → aperture s w.pasid va = none → 2 ^ 57 ≤ va.toNat →
      ∃ s', exec (.hardwarePrefetch w.coreN wk va) s = .next s' ∧ s' = s.spdrop w.pasid 1 ∧ s'.waves = s.waves ∧ s'.ms = s.ms) ∧
    ∀ wk eid t t0, s.view wk eid = some t → t.p.wait = .replica t0 →
      ((s.ptime - t0).toNat < 2000 ∨ s.sel ≠ none → exec (.replicaStallTimeout wk eid) s = .next s) ∧
      (2000 ≤ (s.ptime - t0).toNat → s.sel = none → exec (.replicaStallTimeout wk eid) s = .next { s with sel := some (wk, eid) })

/-! ## The host and HBM -/

namespace Sys2Proof.Slice0

/-- Every word of the block is poison, its sector is marked and its page's bit is set (R257). -/
def Poisoned (s' : State) (blk : Nat) : Prop :=
  (∀ i < 16, bad (s'.ms.phys.word (16 * blk + i)) = true) ∧ blk ∈ s'.ms.phys.marks ∧ blk / 64 ∈ s'.ms.pbits

/-- The words of the block are as they were. -/
def SameWords (s s' : State) (blk : Nat) : Prop := ∀ i < 16, s'.ms.phys.word (16 * blk + i) = s.ms.phys.word (16 * blk + i)

/-- How many symbols of a codeword a bank corrects (R379). -/
def corrects (s : State) (blk : Nat) : Nat := if (s.bank (bankOfBlk blk)).st = .strong then 2 else 1

/-- The bank's window runs on (R381). -/
def InWindow (s : State) (b : Nat) : Prop :=
  let hours := fld (s.pkgReg 0x108) 47 32
  hours = 0 ∨ (s.ptime - (s.bank b).since).toNat < hours * 3600000000000

end Sys2Proof.Slice0

/-- R257, R377 to R380: a block written to HBM with a word that is poison or fails its check is marked poisoned; a clean one
clears the mark. A read of a codeword with as many symbols in error as its bank corrects counts on the bank, one more poisons the
sector. A scrub does what a read does, while scrubbing is on and package time runs.
Rests in part on the model's own choices: log 12. -/
def Obligations.HbmResult : Prop :=
  ∀ (s : State) (blk : Nat) (syms : List (Nat × BitVec 8)), s.badPa = none → s.dbg = [] →
    let n := symErrors syms
    let b := bankOfBlk blk
    let ctl := s.pkgReg 0x108
    let reads : List Instr := .hbmRead blk syms :: if ctl.getLsbD 0 = true ∧ s.stopped = false then [.lehrScrub blk syms false] else []
    (inHbm blk = false → exec (.hbmWrite blk) s = .next s ∧ ∀ e ∈ reads, exec e s = .next s) ∧
    (ctl.getLsbD 0 = false ∨ s.stopped = true → ∀ r, exec (.lehrScrub blk syms r) s = .next s) ∧
    (inHbm blk = true →
      ((∀ i < 16, let x := s.ms.phys.word (16 * blk + i); bad x = false ∧ sound x = true) →
        ∃ s', exec (.hbmWrite blk) s = .next s' ∧ SameWords s s' blk ∧ s'.ms.pbits = s.ms.pbits ∧
          s'.ms.phys.marks = nerase s.ms.phys.marks blk) ∧
      (Silent s (s.fnOfDie (dieOf (64 * blk))) →
        (∃ i < 16, let x := s.ms.phys.word (16 * blk + i); bad x = true ∨ sound x = false) →
        ∃ s', exec (.hbmWrite blk) s = .next s' ∧ Poisoned s' blk) ∧
      (n = 0 → ∀ e ∈ reads, exec e s = .next s) ∧
      (0 < n → n ≤ corrects s blk → (∀ x ∈ s.pkg.banks, x.2.queued = false) → InWindow s b →
        ctl.getLsbD 1 = false ∨ (s.bank b).count + 1 < fld ctl 63 48 → (s.bank b).queued = false → ∀ e ∈ reads,
        exec e s = .next (s.putBank b { s.bank b with count := (s.bank b).count + 1 })) ∧
      (n = corrects s blk + 1 → (∀ e ∈ reads, ∃ s', exec e s = .next s' ∧ Poisoned s' blk) ∧
        (ctl.getLsbD 0 = true → s.stopped = false → exec (.lehrScrub blk syms true) s = .next s)))

namespace Sys2Proof.Slice0

/-- The bytes of a host write as they stand in memory after it: those from `a` on are `bytes`, every other is as it was. -/
def BytesWritten (m m' : Mem) (a : Nat) (bytes : List (BitVec 8)) : Prop :=
  (∀ j < bytes.length, m'.byte (a + j) = bytes.getD j 0) ∧ ∀ b, b < a ∨ a + bytes.length ≤ b → m'.byte b = m.byte b

end Sys2Proof.Slice0

/-- R326: a host request is performed at home through the context's translation, outside handler mode; one that does not translate
writes nothing. Rests in part on the model's own choices: log 43. -/
def Obligations.HostAccessResult : Prop :=
  ∀ (s : State) (fn pasid : Nat) (va : BitVec 64) (bytes : List (BitVec 8)) (relaxed : Bool), s.badPa = none →
    let g := hostAgent s fn pasid
    let n := bytes.length
    0 < n → va.toNat % 64 + n ≤ 64 →
    (∀ u, hostPlace s g { w := true } va.toNat 0 = (u, none) → u.badPa = none → exec (.hostWrite fn pasid va bytes relaxed) s = .next u) ∧
    (∀ u pa m, hostPlace s g { w := true } va.toNat 0 = (u, some (pa, m)) → u.badPa = none → u.ms.stores = [] → m.rep = false →
      physOk (64 * m.home) = true → isHost (64 * m.home) = false → u.online m.hdie = true → pa % 64 = va.toNat % 64 → pa % 4 = 0 → n % 4 = 0 →
      ∃ s', exec (.hostWrite fn pasid va bytes relaxed) s = .next s' ∧
        BytesWritten u.ms.phys s'.ms.phys (64 * m.home + pa % 64) bytes ∧ s'.waves = u.waves) ∧
    (∀ u pa m, hostPlace s g { r := true } va.toNat 0 = (u, some (pa, m)) → u.badPa = none → pa % 64 = va.toNat % 64 →
      (∀ i < 16, bad ((u.served m).word i) = false) →
      exec (.hostRead fn pasid va n) s = .next { u with outbox := .readData fn ((List.range n).map fun j =>
        (u.served m).data.extractLsb' (8 * (pa % 64 + j)) 8) :: u.outbox })

/-! ## The lehr and lifetime histograms -/

/-- R381 to R383: a bank's window ends and its count begins anew; LEHRACK poisons the frames that a pending bank loses and starts
its conversion, after whose last group it is strong for the life of the part; histograms are stored at most every 10 s. Which
frames a bank loses is a constant without a value (log 12). Rests in part on the model's own choices: logs 12 and 55. -/
def Obligations.LehrResult : Prop :=
  ∀ (s : State) (fn b : Nat), s.badPa = none →
    let x := s.bank b
    let n := fld (s.pkgReg 0x108) 47 32 * 3600000000000
    (n ≤ (s.ptime - x.since).toNat →
      exec (.lehrWindow b) s = .next (s.putBank b { x with count := 0, since := x.since + BitVec.ofNat 64 n })) ∧
    ((s.ptime - x.since).toNat < n → exec (.lehrWindow b) s = .next s) ∧
    (∀ k, x.st = .pending k → ∃ s', exec (.lehrack fn b) s = .next s' ∧ (s'.bank b).st = .converting 0 ∧
      (∀ i < 768, frameOf b (8 * i + 7) ∈ s'.ms.pbits) ∧ (∀ p ∈ s.ms.pbits, p ∈ s'.ms.pbits) ∧ s'.ms.phys = s.ms.phys) ∧
    (x.st = .normal ∨ x.st = .strong → exec (.lehrack fn b) s = .next s ∧ exec (.lehrReencodeGroup b) s = .next s) ∧
    (∀ g, x.st = .converting g →
      (g + 1 < 768 → exec (.lehrReencodeGroup b) s = .next (s.putBank b { x with st := .converting (g + 1) })) ∧
      (768 ≤ g + 1 → (∀ y ∈ s.pkg.banks, y.2.queued = false) → x.queued = false → ∃ s', exec (.lehrReencodeGroup b) s = .next s' ∧
        (s'.bank b).st = .strong ∧ b ∈ s'.pkg.strong ∧ s'.ms = s.ms)) ∧
    ((s.ptime - s.pkg.stored).toNat < 10000000000 → exec .histogramStore s = .next s) ∧
    (10000000000 ≤ (s.ptime - s.pkg.stored).toNat → (s.pkg.gath.map (·.1)).Nodup → ∃ s', exec .histogramStore s = .next s' ∧
      s'.pkg.gath = [] ∧ s'.pkg.stored = s.ptime ∧ ∀ h k, k < 4 → fld (sget 0 s'.pkg.hist h) (16 * k + 15) (16 * k) =
        min (fld (sget 0 s.pkg.hist h) (16 * k + 15) (16 * k) + fld (sget 0 s.pkg.gath h) (16 * k + 15) (16 * k)) 65535) ∧
    ∀ (p : PStore) since, s.findStore p.sid = some p → s.dieSt b = .resetting since → Silent s (s.fnOfDie b) →
      (s.ptime.toNat < max since.toNat p.t0.toNat + 100000 → exec (.homeStallTimeout b p.sid) s = .next s) ∧
      (p.home = b → p.stage = .buffered ∨ p.stage = .sent → s.pkg.strays = [] → max since.toNat p.t0.toNat + 100000 ≤ s.ptime.toNat →
        exec (.homeStallTimeout b p.sid) s = .next
          { s with ms := { s.ms with stores := s.ms.stores.filter fun q => q.sid != p.sid } })

/-! ## Links and ports -/

namespace Sys2Proof.Slice0

/-- R324, R387: every ordered pair of dies whose route is no longer the default one has its new route and no ordering bit; one on
its default route has none listed. -/
def Rerouted (u : State) : Prop :=
  ∀ a h, a < 8 → h < 8 → a ≠ h →
    (u.routeNow a h = some (defaultRoute 4 a h) → slook u.pkg.routes (8 * a + h) = none) ∧
    (u.routeNow a h ≠ some (defaultRoute 4 a h) →
      slook u.pkg.routes (8 * a + h) = some ((u.routeNow a h).getD []).dropLast ∧
      (u.fnReg (u.fnOfDie a) 0x50).getLsbD (8 * a + h) = false)

/-- The state with link `n` down and its traffic rerouted. -/
def lost (s : State) (n : Nat) : State := (s.putLink n { up := false, retries := 0 }).reroute

/-- No partition is cut. -/
def Joined (s : State) : Prop := ∀ fn < 8, s.cut fn = false

end Sys2Proof.Slice0

/-- R324, R387: a link fails after sixteen retries in a row, or when it is reset; its traffic takes other routes; once retrained it
works again. -/
def Sys2Proof.Slice0.LinkResult : Prop :=
  ∀ (s : State) (n fn seq : Nat), s.badPa = none →
    (16 ≤ n ∨ (s.link n).up = false → exec (.linkFail n) s = .next s ∧ ∀ ok, exec (.linkFlitReceive n ok) s = .next s) ∧
    (n < 16 → (s.link n).up = true →
      (Joined (lost s n) → exec (.linkFail n) s = .next (lost s n) ∧ ((lost s n).link n).up = false ∧ Rerouted (lost s n)) ∧
      exec (.linkFlitReceive n true) s = .next (s.putLink n { up := true, retries := 0 }) ∧
      ((s.link n).retries + 1 < 16 → exec (.linkFlitReceive n false) s = .next (s.putLink n { up := true, retries := (s.link n).retries + 1 })) ∧
      (15 ≤ (s.link n).retries → ∃ s', exec (.linkFlitReceive n false) s = .next s' ∧ s'.agenda = .linkFail n :: s.agenda)) ∧
    (let u := s.setFnReg fn 0x38 (BitVec.ofNat 64 (seq % 256 * 2 ^ 24 + 2 * 2 ^ 16 + 1))
     n < 16 → Joined (lost u n) → exec (.linkReset fn seq n) s = .next (lost u n)) ∧
    (16 ≤ n → exec (.linkRetrainDone n) s = .next s) ∧
    (n < 16 → (∀ f, fld (s.fnReg f 0x38) 3 0 ≠ 1) → ∃ s', exec (.linkRetrainDone n) s = .next s' ∧ (s'.link n).up = true ∧
      (s'.link n).retries = 0 ∧ Rerouted s' ∧ s'.ms = s.ms ∧ s'.waves = s.waves)

/-- R392, R398: a fabric port counts the flits it asks for again; the sixteenth in a row takes it down, and more than 256 within
1 µs are a retry storm. A trained port is up. -/
def Sys2Proof.Slice0.PortResult : Prop :=
  ∀ (s : State) (n : Nat), s.badPa = none → s.dbg = [] →
    let off := 0x200 + 8 * n
    let r := s.pkgReg off
    (64 ≤ n → exec (.portTrained n) s = .next s ∧ ∀ ok, exec (.flitReceive n ok) s = .next s) ∧
    (n < 64 →
      exec (.portTrained n) s = .next (s.setPkgReg off (setBit r 0 true)) ∧
      (r.getLsbD 0 = false → ∀ ok, exec (.flitReceive n ok) s = .next s) ∧
      (r.getLsbD 0 = true → exec (.flitReceive n true) s = .next (s.putPort n { s.port n with streak := 0 })) ∧
      (r.getLsbD 0 = true → ∃ s', exec (.flitReceive n false) s = .next s' ∧ s'.waves = s.waves ∧ s'.ms = s.ms ∧
        fld (s'.pkgReg off) 63 32 = (fld r 63 32 + 1) % 2 ^ 32 ∧
        (s'.pkgReg off).getLsbD 0 = decide ((s.port n).streak + 1 < 16) ∧
        ((s.port n).times.length < 256 → (s'.pkgReg off).getLsbD 1 = r.getLsbD 1) ∧
        (∀ t, (s.port n).times.length = 256 → (s.port n).times.getLast? = some t → (s.ptime - t).toNat ≤ 1000 →
          (s'.pkgReg off).getLsbD 1 = true)))

/-- R324, R387, R392, R398: die-to-die links and fabric ports. Rests in part on the model's own choices: log 51. -/
def Obligations.LinkAndPortResult : Prop := LinkResult ∧ PortResult

/-! ## Partial resets -/

namespace Sys2Proof.Slice0

/-- RSTSTAT of the function says this of its command, and no command waits (R385). -/
def Status (s : State) (fn seq kind result : Nat) : Prop := s.fnReg fn 0x38 = BitVec.ofNat 64 (seq % 256 * 2 ^ 24 + kind * 2 ^ 16 + result)

/-- Die `die` carries a route of the partition (R388). -/
def carriesRoute (s : State) (fn die : Nat) : Bool :=
  diePairs.any fun (a, h) => s.fnOfDie a == fn && s.fnOfDie h == fn && ((s.routeNow a h).getD []).dropLast.contains die

/-- R362, R388: the die is being reset from now on: it holds no crew but one whose abort waits for the end of its save or restore,
no copy, no translation and no scratch. -/
def Wiped (s s' : State) (die : Nat) : Prop :=
  s'.dieSt die = .resetting s.ptime ∧
  (∀ c ∈ s'.crews, c.die = die → c.st = .ended ∨ (c.st = .saving ∨ c.st = .restoring) ∧ c.abort ≠ none) ∧ (∀ c ∈ s'.ms.l1d, c.core / 48 ≠ die) ∧
  (∀ c ∈ s'.ms.way, c.die ≠ die) ∧ (∀ t ∈ s'.ms.tlb, t.die ≠ die) ∧ ∀ x ∈ s'.ms.dsc, x.1.2 ≠ die

end Sys2Proof.Slice0

/-- R385 to R389: a refused command reports RESULT 3; an engine reset cancels the operations of its core; a die reset waits while
the die carries a route of its partition (RESULT 2), else the die loses what it holds (RESULT 1) until it returns online; a
partition reset leaves no crew of the function. A step is taken to reach no address that names no memory.
Rests in part on the model's own choices: log 51. -/
def Obligations.PartialResetResult : Prop :=
  ∀ (s : State) (fn seq : Nat), s.badPa = none → (s.fn fn).rstq = [] →
    (∀ value, ∃ s', exec (.rstcmdRefused fn value) s = .next s' ∧ Status s' fn (fld value 31 24) (fld value 19 16) 3 ∧ s'.ms = s.ms ∧
      s'.waves = s.waves) ∧
    (∀ target, let core := 48 * (target / 64 % 8) + target % 64
      (∀ o ∈ s.ops, o.core = core → o.crowd = []) →
      ∃ s', exec (.engineReset fn seq target) s = .next s' ∧ Status s' fn seq 1 0 ∧
        s'.ops = s.ops.map (fun o => if o.core = core then { o with stop := some (BitVec.ofNat 8 (((o.stop.map (·.toNat)).getD eCancel))) } else o) ∧
        s'.ms = s.ms) ∧
    (∀ die, die < 8 →
      (let u := s.setFnReg fn 0x38 (BitVec.ofNat 64 (seq % 256 * 2 ^ 24 + 3 * 2 ^ 16 + 1))
       (carriesRoute u fn die = true → ∃ s', exec (.dieReset fn seq die) s = .next s' ∧ s'.dieSt die = .deferred ∧
         Status s' fn seq 3 2 ∧ s'.ms = s.ms ∧ s'.crews = s.crews) ∧
       (carriesRoute u fn die = false → (u.beginReset fn die).badPa = none →
         ∃ s', exec (.dieReset fn seq die) s = .next s' ∧ Wiped s s' die ∧ Status s' fn seq 3 1)) ∧
      (s.dieSt die = .deferred → (s.beginReset (s.fnOfDie die) die).badPa = none →
        ∃ s', exec (.dieResetResume die) s = .next s' ∧ Wiped s s' die) ∧
      (s.dieSt die ≠ .deferred → exec (.dieResetResume die) s = .next s) ∧
      (s.dieSt die = .online ∨ s.dieSt die = .deferred ∨ s.pkg.recovery = true → exec (.dieResetComplete die) s = .next s) ∧
      (∀ t, s.dieSt die = .resetting t → s.pkg.recovery = false → (s.fn (s.fnOfDie die)).rstq = [] →
        ∃ s', exec (.dieResetComplete die) s = .next s' ∧ s'.dieSt die = .online ∧ (∀ l ∈ s'.ms.lost, l.1 ≠ die) ∧ s'.waves = s.waves ∧
          (fld (s.fnReg (s.fnOfDie die) 0x38) 3 0 = 1 → fld (s'.fnReg (s.fnOfDie die) 0x38) 3 0 = 0))) ∧
    ((s.resetPartition fn).badPa = none → ∃ s', exec (.partitionReset fn seq) s = .next s' ∧ Status s' fn seq 4 0 ∧
      (∀ c ∈ s'.crews, c.fn = fn → c.st = .ended) ∧ (∀ k ∈ s'.cons, k.fn ≠ fn) ∧
      (∀ r ∈ s'.routes, r.fn = fn → r.queue = [] ∧ r.cur = none) ∧ ∀ d, s.fnOfDie d = fn → d < 8 → s'.dieSt d = .online)

namespace Sys2Proof.Slice0

/-- The image meets every check (R399). -/
def Accepted (image sig1 sig2 : List (BitVec 8)) : Prop := imageOk image sig1 sig2 = true

/-- R399: the package is in recovery, with its dies held in reset. -/
def InRecovery (s : State) : Prop := s.pkg.recovery = true ∧ ∀ d < 8, s.dieSt d = .resetting s.ptime

/-- R399: the image runs, with the version its header gives. -/
def Booted (s : State) (image : List (BitVec 8)) : Prop :=
  s.pkg.recovery = false ∧ s.pkg.image = image ∧ s.pkg.version = BitVec.ofNat 32 (leNat ((image.drop 4).take 4)) ∧ ∀ d < 8, s.dieSt d = .online

end Sys2Proof.Slice0

/-- R14, R383, R392, R399, R400: a package reset leaves no wave, crew, context or register as it was, keeps strong banks and
histograms, takes the partition size that PARTCFG names, and runs the image only if it is accepted. Losing power also loses what
device memory held. FWLOAD resets every partition and reports whether the image was accepted; HISTREAD, HISTCLEAR and refused
commands end with their STATUS. That a package reset keeps memory is the model's choice (log 2), and so is what memory holds after
a loss of power. Rests in part on the model's own choices: logs 2, 3 and 53. -/
def Obligations.PackageResult : Prop :=
  ∀ (s : State) (image sig1 sig2 : List (BitVec 8)), s.badPa = none →
    (∃ s', exec (.packageReset image sig1 sig2) s = .next s' ∧ s'.waves = [] ∧ s'.crews = [] ∧ s'.ctxs = [] ∧ s'.fns = [] ∧ s'.ptime = 0 ∧
      s'.routes = [] ∧ s'.pkg.strong = s.pkg.strong ∧ s'.pkg.hist = s.pkg.hist ∧ s'.pkg.size = fld (s.pkgReg 0x100) 1 0 ∧
      s'.ms.phys = s.ms.phys ∧ (Accepted image sig1 sig2 → Booted s' image) ∧ (¬ Accepted image sig1 sig2 → InRecovery s')) ∧
    (∃ s', exec .powerLoss s = .next s' ∧ s'.waves = [] ∧ s'.crews = [] ∧ s'.fns = [] ∧ s'.pkg.strong = s.pkg.strong ∧
      s'.pkg.hist = s.pkg.hist ∧ s'.pkg.gath = [] ∧ (∀ a, a < 2 ^ 55 → s'.ms.phys.byte a = 0) ∧
      ∀ a, 2 ^ 55 ≤ a → s'.ms.phys.byte a = s.ms.phys.byte a) ∧
    (((List.range 8).foldl State.failPartition s).badPa = none → ∃ s', exec (.fwload image sig1 sig2) s = .next s' ∧
      (Accepted image sig1 sig2 → Booted s' image ∧ fld (s'.fnReg 0 0x400) 15 8 = 0) ∧
      (¬ Accepted image sig1 sig2 → InRecovery s' ∧ fld (s'.fnReg 0 0x400) 15 8 = 2)) ∧
    (let done (r : Nat) : State := s.setFnReg 0 0x400 (setFld (s.fnReg 0 0x400) 15 8 r)
     let buf := 2 ^ 55 + (s.fnReg 0 0x408).toNat % 2 ^ 55
     (∀ value, exec (.mgmtcmdRefused value) s = .next (done 2)) ∧
     (∀ n, s.pkg.recovery = true ∨ 98312 ≤ n → exec (.histread n) s = .next (done 2)) ∧
     (∀ n, s.pkg.recovery = false → n < 98312 → buf % 4 = 0 → buf + 8 ≤ 2 ^ 56 → ∃ s', exec (.histread n) s = .next s' ∧
       s'.fnReg 0 0x400 = (done 0).fnReg 0 0x400 ∧ s'.ms.phys.nat buf 8 = (sget 0 s.pkg.hist n).toNat ∧
       ∀ a, a < buf ∨ buf + 8 ≤ a → s'.ms.phys.byte a = s.ms.phys.byte a) ∧
     (s.pkg.recovery = true → exec .histclear s = .next (done 2)) ∧
     (s.pkg.recovery = false → ∃ s', exec .histclear s = .next s' ∧ s'.pkg.hist = [] ∧ fld (s'.fnReg 0 0x400) 15 8 = 0)) ∧
    ∀ fn req, (s.pkg.recovery = true → exec (.spdmRequest fn req) s = .next s) ∧
      (s.pkg.recovery = false → ∃ a, exec (.spdmRequest fn req) s = .next { s with outbox := .spdm fn a :: s.outbox })

/-! ## Registers of the host -/

/-- R392, R394, R395: a register of a function is written whole, and its stored fields read back; a write that the register's width
does not match, or of a function that does not exist, is ignored; a write of KICK is a kick, and one of a part of it a narrow one. PTCTL is function 0's. A context is
loaded only while it has no crew and no running replay, and retired only when nothing uses it.
Rests in part on the model's own choices: log 56. -/
def Obligations.HostRegisterResult : Prop :=
  ∀ (s : State) (fn : Nat), s.badPa = none →
    (∀ off width value, (2 ^ s.pkg.size ≤ fn ∨ (8 ≤ off ∧ width ≠ 64) → exec (.registerWrite fn off width value) s = .next s) ∧
      (fn < 2 ^ s.pkg.size → s.pkg.recovery = false →
        (∀ t, exec (.kick fn width value) s = .next t → exec (.registerWrite fn 0 width value) s = .next t) ∧
        (∀ t, off ≠ 0 → off < 8 → exec (.kick fn 32 value) s = .next t → exec (.registerWrite fn off width value) s = .next t) ∧
        (off ∈ [0x10, 0x18, 0x20, 0x28, 0x58, 0x70] → ∃ s', exec (.registerWrite fn off 64 value) s = .next s' ∧
          s'.fnReg fn off = (s.fnReg fn off &&& ~~~storedBits off) ||| (value &&& storedBits off) ∧
          (∀ o, o ≠ off → s'.fnReg fn o = s.fnReg fn o) ∧ (∀ f, f ≠ fn → s'.fn f = s.fn f) ∧ s'.waves = s.waves ∧ s'.ms = s.ms))) ∧
    exec (.ptctlStop 0) s = .next { s with stop := true } ∧ exec (.ptctlResume 0) s = .next { s with stop := false } ∧
    (fn ≠ 0 → exec (.ptctlStop fn) s = .next s ∧ exec (.ptctlResume fn) s = .next s) ∧
    ∀ pasid, let idle := ∀ c ∈ s.crews, c.pasid = pasid → c.st = .ended
      let status (r : Nat) : State := s.setFnReg fn 0x68 (setFld (s.fnReg fn 0x68) 61 60 r)
      (Silent s fn → (¬ idle ∨ ∃ r ∈ s.routes, r.pasid = pasid ∧ r.cur.isSome = true) → exec (.ctxcmdLoad fn pasid) s = .next (status 2)) ∧
      (Silent s fn → (¬ idle ∨ ∃ r ∈ s.routes, r.pasid = pasid) → exec (.ctxcmdRetire fn pasid) s = .next (status 2)) ∧
      (∀ ws, idle → (∀ r ∈ s.routes, r.pasid = pasid → r.cur = none) →
        let base := fld (s.fnReg fn 0x70) 63 12 * 4096
        isHost base = false → s.physRead base 1024 = some ws →
        ∃ s', exec (.ctxcmdLoad fn pasid) s = .next s' ∧ (s'.ctx pasid).gen = 0 ∧ (s'.ctx pasid).owner = some fn ∧
          fld (s'.fnReg fn 0x68) 61 60 = 0 ∧
          (∀ num ∈ [0x100, 0x110, 0x111, 0x130, 0x131, 0x132, 0x150, 0x151, 0x152], s'.ctxReg pasid num =
            (s.ctxReg pasid num &&& ~~~ctxMask num) ||| (word64 ws (num - 0x100) &&& ctxMask num)) ∧
          ∀ p, p ≠ pasid → s'.ctx p = s.ctx p) ∧
      (idle → (∀ r ∈ s.routes, r.pasid ≠ pasid) → ∃ s', exec (.ctxcmdRetire fn pasid) s = .next s' ∧
        (∀ num, s'.ctxReg pasid num = 0) ∧ (s'.ctx pasid).gen = (s.ctx pasid).gen ∧ fld (s'.fnReg fn 0x68) 61 60 = 0 ∧
        ∀ p, p ≠ pasid → s'.ctx p = s.ctx p)

/-! ## Encoding, fetching and the step -/

namespace Sys2Proof.Slice0

/-- The fields of a word of class C whose every named field is 0: the guard is B7 (R105, R109). -/
def plainFields : Fields :=
  { sub := 0, gsel := 23, gneg := false, hold := 0, dst := 0, sa := 0, sb := 0, sc := 0, ty := 0, rm := 0, sat := false,
    immf := false, scls := 0, hi := 0 }

/-- The word whose three 32-bit parts are these, lowest first. -/
def words3 (a b c : BitVec 32) : BitVec 96 := c ++ b ++ a

end Sys2Proof.Slice0

/-- Words that the spec writes out, with the instructions they stand for. -/
def Obligations.SpecWordsDecode : Prop :=
  decodeWord (words3 0x10017511 0x20700001 0x00000001) =
    .ok (.scmp { plainFields with sub := 5, sa := 17, ty := 7, immf := true, hi := 1 }) ∧
  decodeWord (words3 0x40017029 0x80000001 0x00F00080) = .ok (.lsave { plainFields with sa := 20, scls := 2, hi := 0x00F00080 }) ∧
  decodeWord (words3 0x10419044 0x4050401C 0x00000000) =
    .ok (.vmad { plainFields with gsel := 25, dst := 4, sa := 193, sb := 1, sc := 4, ty := 5, scls := 1 }) ∧
  decodeWord (words3 0x50302250 0x20500000 0x00000000) =
    .ok (.vcmp { plainFields with sub := 2, gsel := 2, dst := 3, sa := 5, ty := 5, immf := true }) ∧
  decodeWord (words3 0x100170A5 0x80510000 0x00F00140) =
    .ok (.sst { plainFields with sa := 1, sc := 16, ty := 5, scls := 2, hi := 0x00F00140 }) ∧
  decodeWord (words3 0x105170C0 0x00000020 0x01000800) = .ok (.xcopy { plainFields with dst := 5, sa := 1, sb := 2, hi := 0x01000800 }) ∧
  decodeWord (words3 0x401170D5 0x00000001 0x00000000) = .ok (.mstatTile { plainFields with dst := 1, sa := 20 })

/-- R105, R118, R119: encoding and decoding agree: the 12 bytes of every well-formed instruction that has a word decode to it, and
leave what follows them; and every word at all is the word of what it decodes to. -/
def Obligations.EncodeDecodeRoundTrip : Prop :=
  (∀ (i : Instr) (w : BitVec 96), i.WellFormed → encode i = some w → decodeWord w = .ok i ∧
    ∃ bs, encodeBytes i = some bs ∧ bs.length = 12 ∧ ∀ rest, decode (bs ++ rest) = .ok (i, rest)) ∧
  (∀ w, encode (decodeRaw w) = some w) ∧
  (∀ w i, decodeWord w = .ok i → i.WellFormed ∧ encode i = some w) ∧
  ∀ bs : List (BitVec 8), bs.length < 12 → decode bs = .error .truncated

/-- R99, R119, R366: a step at which a path is selected, whose line is delivered and whose address passes the target check, runs
the instruction that the word of its slot decodes to, and the selection ends with it; the mark of a checked transfer is consumed.
An instruction that a breakpoint register names meets the breakpoint instead. A path that stands at its reconvergence
address or where an exit entry waits merges and runs nothing (R207), and one that owes the return of spilled entries brings
them back first (R205): neither is meant here. Rests in part on the model's own choices: logs 13 and 14. -/
def Obligations.StepRunsDecodedInstruction : Prop :=
  ∀ (s : State) (t : Th) (d : BitVec 512), s.tick.issuer = some t → meets t.w t.p = false → t.p.owes = false →
    targetHigh t = none → t.p.line = some (t.p.pia.extractLsb' 6 58, d) → targetCheck t d = none →
    let t' : Th := { t with p := { t.p with xfer := none } }
    let w := slotOf d (t.p.pia.toNat % 8)
    (ibpHit t' = none → step s = unselect (exec (decodeRaw w) t'.commit) ∧
      ∀ i, decodeWord w = .ok i → step s = unselect (exec i t'.commit)) ∧
    ∀ n, ibpHit t' = some n → step s = unselect (exec (.ibpHit t.wk t.p.eid n) t'.commit)

/-- R38, R40, R54, R257: every step keeps each memory in its canonical form: listed bytes rise in address and none is what an
unlisted byte reads as; a residue, a pair and a mark is listed only where it says something. -/
def Obligations.StepKeepsMemoryForm : Prop :=
  ∀ s s' : State, s.memWf = true → step s = .next s' → s'.memWf = true

/-- A step that answers a next state has reached no physical address that names no memory (R249); one that has, ends in the
fault that names it. Rests in part on the model's own choices: log 59. -/
def Obligations.StepReachesMemoryOnly : Prop :=
  ∀ s s' : State, step s = .next s' → s'.badPa = none
end

