-- ==== Sys2Proof/Laws/Check.lean ====
section
/-!
SUPPORT. The residue checker on sources that pass their check: nothing fails, and the instruction writes its results.
-/
namespace Sys2Proof.Machine

theorem laneFail_clean {o : LaneOut} {v : Nat} (hs : ∀ q ∈ o.srcs, q.ok = true) (hc : o.bad = true ∨ o.chk v = true) :
    laneFail o v = none := by
  have hf : o.srcs.filter (fun x => !x.ok) = [] := by
    rw [List.filter_eq_nil_iff]; intro q hq; simp [hs q hq]
  have : (!o.bad && !o.chk v) = false := by cases hc with
    | inl h => simp [h]
    | inr h => simp [h]
  simp [laneFail, this, hf]

theorem tryFails_clean {outs : List (Nat × LaneOut)} {flip : Nat → Nat → Nat}
    (h : ∀ x ∈ outs, laneFail x.2 (flip x.1 x.2.v) = none) : tryFails outs flip = (0, none) := by
  unfold tryFails
  induction outs with
  | nil => rfl
  | cons x l ih =>
    simp only [List.foldl_cons, h x List.mem_cons_self]
    exact ih fun y hy => h y (List.mem_cons_of_mem _ hy)

/-- Outside every loop an instruction has no loop words among its sources. -/
theorem edgeSrcs_none {t : Th} (h : t.w.d = 0) (op : Nat) : edgeSrcs t op = [] := by
  simp only [edgeSrcs, h, edgeWords, List.map_nil, ite_self]

/-- Outside every loop, where nothing is injected, every source passes and every result passes or is poisoned, the checker
lets the instruction write. -/
theorem check_clean {t : Th} {op : Nat} {el wide lane : Bool} {outs : List (Nat × LaneOut)} {write : Th → List (Nat × LaneOut) → Res}
    (h0 : t.w.d = 0) (hi : t.w.inj.getLsbD 63 = false) (hs : ∀ x ∈ outs, ∀ q ∈ x.2.srcs, q.ok = true)
    (hc : ∀ x ∈ outs, x.2.bad = true ∨ x.2.chk x.2.v = true) : check t op el wide lane outs write = write t outs := by
  have hh : injHits t op el = false := by
    simp only [injHits, hi, Bool.and_false, Bool.false_and]
  have e : tryFails outs (fun _ v => v) = (0, none) :=
    tryFails_clean fun x hx => laneFail_clean (hs x hx) (hc x hx)
  have en : outs.map (fun x => (x.1, { x.2 with srcs := x.2.srcs ++ [] })) = outs :=
    (List.map_congr_left fun x _ => by rw [List.append_nil]; rfl).trans (List.map_id _)
  have em : outs.map (fun x => (x.1, { x.2 with v := x.2.v })) = outs :=
    (List.map_congr_left fun _ _ => rfl).trans (List.map_id _)
  unfold check
  simp only [edgeSrcs_none h0, List.any_nil, en, hh, Bool.false_eq_true, if_false, e, twoTries]
  exact congrArg (write t) em

/-- The checker without a result to check: sources that pass let the instruction go on. -/
theorem checked_clean {t : Th} {op : Nat} {srcs : List Src} {k : Th → Res} (h0 : t.w.d = 0)
    (hi : t.w.inj.getLsbD 63 = false) (hs : ∀ q ∈ srcs, q.ok = true) : checked t op srcs k = k t := by
  unfold checked
  rw [check_clean h0 hi]
  · intro x hx; simp at hx; subst hx; exact hs
  · intro x hx; simp at hx; subst hx; exact .inr rfl

/-- A scalar result whose sources pass. -/
theorem runScalar_clean {t : Th} {f : Fields} {op : Nat} {o : LaneOut} (hw : t.splitWrite f.dst.toNat = false)
    (h0 : t.w.d = 0) (hi : t.w.inj.getLsbD 63 = false) (hs : ∀ q ∈ o.srcs, q.ok = true) (hc : o.bad = true ∨ o.chk o.v = true) :
    runScalar t f op o = .done (t.setS f.dst.toNat (mkP o.bad (BitVec.ofNat 64 o.v))) := by
  simp only [runScalar, hw, Bool.false_eq_true, if_false]
  rw [check_clean h0 hi]
  · intro x hx; simp at hx; subst hx; exact hs
  · intro x hx; simp at hx; subst hx; exact hc

end Sys2Proof.Machine
end

