-- ==== Sys2Proof/Laws/Xlate.lean ====
section
/-!
SUPPORT. What translating an address, placing an access and a read of the command processor can do to the state: they touch the
memory system and note an address that names no memory, and nothing else.
-/
namespace Sys2Proof.Machine

/-- `s'` differs from `s` at most in the memory system, in the note of an absent address and in the registers of contexts, where
GENRPL counts. -/
def OnlyMem (s s' : State) : Prop := ∃ m b c, s' = { s with ms := m, badPa := b, ctxs := c }

theorem OnlyMem.refl (s : State) : OnlyMem s s := ⟨s.ms, s.badPa, s.ctxs, rfl⟩
theorem OnlyMem.trans {s u v : State} : OnlyMem s u → OnlyMem u v → OnlyMem s v := by
  rintro ⟨m, b, c, rfl⟩ ⟨m', b', c', rfl⟩; exact ⟨m', b', c', rfl⟩

theorem touch_onlyMem (s : State) (pa : Nat) : OnlyMem s (s.touch pa) := by
  unfold State.touch; split
  · exact .refl s
  · exact ⟨s.ms, _, s.ctxs, rfl⟩

theorem dropTlb_onlyMem (s : State) (q : Tlb → Bool) : OnlyMem s (s.dropTlb q) := ⟨_, s.badPa, s.ctxs, rfl⟩

theorem invalL1_onlyMem (s : State) (b hb : Nat) (q : L1Copy → Bool) : OnlyMem s (s.invalL1 b hb q) := ⟨_, s.badPa, s.ctxs, rfl⟩
theorem dropWay_onlyMem (s : State) (q : WayCopy → Bool) : OnlyMem s (s.dropWay q) := ⟨_, s.badPa, s.ctxs, rfl⟩
theorem catchUp_onlyMem (s : State) (pasid : Nat) (l : List Nat) : OnlyMem s (s.catchUp pasid l) := by
  unfold State.catchUp; split
  · exact ⟨_, s.badPa, s.ctxs, rfl⟩
  · exact .refl s

/-- Invalidations that a write at home sends (R319) only touch the memory system. -/
theorem announce_onlyMem (s : State) (g : Agent) (b : Nat) : OnlyMem s (s.announce g b) := by
  have h := fun q r => (invalL1_onlyMem s b b q).trans (dropWay_onlyMem (s.invalL1 b b q) r)
  unfold State.announce
  dsimp only
  split
  · exact h _ _
  · exact (h _ _).trans ⟨_, _, _, rfl⟩

theorem announceAll_onlyMem (s : State) (a n : Nat) : OnlyMem s (s.announceAll a n) := by
  unfold State.announceAll
  generalize ((List.range ((a + n - 1) / 64 + 1 - a / 64)).map (· + a / 64)) = l
  induction l generalizing s with
  | nil => exact .refl s
  | cons b l ih => exact (announce_onlyMem s deviceAgent b).trans (ih _)

theorem setAD_onlyMem (s : State) (x : Xl) (d : Bool) : OnlyMem s (s.setAD x d) := by
  have h := fun m => OnlyMem.trans ⟨m, s.badPa, s.ctxs, rfl⟩ (announceAll_onlyMem { s with ms := m } x.addr 8)
  unfold State.setAD
  dsimp only
  cases d <;> simp only [Bool.false_eq_true, ↓reduceIte] <;> split
  all_goals first | exact .refl s | exact h _

/-- A walk of the tables (R246) only touches memory. -/
theorem walkFrom_onlyMem (s : State) (va : BitVec 64) (p n lvl t : Nat) : OnlyMem s (walkFrom s va p n lvl t).1 := by
  induction n generalizing s lvl t with
  | zero => exact .refl s
  | succ n ih =>
    have h := touch_onlyMem s (t + 8 * (va.toNat % 2 ^ 53 / 2 ^ (p + 9 * n) % 512))
    simp only [walkFrom]
    repeat' split
    all_goals first | exact h | exact h.trans (ih _ _ _)

theorem walkRegion_onlyMem (s : State) (va rgn : BitVec 64) : OnlyMem s (walkRegion s va rgn).1 := walkFrom_onlyMem ..

theorem findXl_onlyMem (s : State) (die pasid : Nat) (va rgn : BitVec 64) (held : Option Tlb) :
    OnlyMem s (s.findXl die pasid va rgn held).1 := by
  cases held with
  | none => exact (dropTlb_onlyMem ..).trans (walkRegion_onlyMem ..)
  | some t => exact .refl s

theorem noteXl_onlyMem (s : State) (die pasid : Nat) (va : BitVec 64) (dirty : Bool) (x : Xl) :
    OnlyMem s (s.noteXl die pasid va dirty x).1 :=
  ((setAD_onlyMem ..).trans (dropTlb_onlyMem ..)).trans ⟨_, _, _, rfl⟩

theorem translateOnce_onlyMem (s : State) (die pasid : Nat) (va : BitVec 64) (nd : Need) (hm : Bool) (i : Nat) :
    OnlyMem s (translateOnce s die pasid va nd hm i).1 := by
  unfold translateOnce
  dsimp only
  split
  · exact .refl s
  split
  · exact .refl s
  have h := findXl_onlyMem s die pasid va (s.ctxReg pasid (0x120 + fld va 56 53)) (s.heldTlb die pasid va i)
  split <;> rename_i heq <;> rw [heq] at h
  · exact h
  split
  · exact h
  split
  · exact h
  · exact h.trans (noteXl_onlyMem ..)

/-- A translation, with the replay of a rejected access (R245 to R252), changes the memory system at most. -/
theorem translate_onlyMem (s : State) (die pasid : Nat) (va : BitVec 64) (nd : Need) (hm : Bool) (i : Nat) :
    OnlyMem s (translate s die pasid va nd hm i).1 := by
  have h := translateOnce_onlyMem s die pasid va nd hm i
  unfold translate
  split <;> rename_i heq <;> rw [heq] at h
  · exact h
  split
  · exact h
  dsimp only
  split
  · exact (h.trans ⟨_, _, _, rfl⟩).trans ((catchUp_onlyMem ..).trans (translateOnce_onlyMem ..))
  · exact h.trans ⟨_, _, _, rfl⟩

/-- Placing an access changes the memory system at most. -/
theorem xlatePages_onlyMem (s : State) (g : Agent) (nd : Need) (i : Nat) (l : List Nat) : OnlyMem s (xlatePages s g nd i l).1 := by
  induction l generalizing s i with
  | nil => exact .refl s
  | cons p l ih => exact (translate_onlyMem ..).trans (ih ..)

theorem placeAll_onlyMem (s : State) (g : Agent) (r : ApRule) (nd : Need) (n : Nat) (els : List El) (i : Nat) :
    OnlyMem s (placeAll s g r nd n els i).1 := by
  unfold placeAll
  dsimp only
  split
  · exact .refl s
  · exact xlatePages_onlyMem ..

theorem resolve_onlyMem (s : State) (g : Agent) (r : ApRule) (nd : Need) (n : Nat) (els : List El) (i : Nat) :
    OnlyMem s (resolve s g r nd n els i).1 := by
  have h := placeAll_onlyMem s g r nd n els i
  unfold resolve
  split
  · rename_i heq; rw [heq] at h; exact h
  · rename_i heq; rw [heq] at h; dsimp only; split <;> exact h

/-- A read of the command processor (R68) changes the memory system at most. -/
theorem cpPiece_onlyMem (s : State) (g : Agent) (i : Nat) (p : Nat × Nat) : OnlyMem s (cpPiece s g i p).1 := by
  have h := resolve_onlyMem s g {} { r := true } 4 [(0, BitVec.ofNat 64 p.1)] (4000 + i)
  unfold cpPiece
  split <;> rename_i heq <;> rw [heq] at h
  · split <;> exact h
  · split
    · exact h
    · dsimp only; split <;> exact h

theorem cpRead_onlyMem (s : State) (fn pasid : Nat) (a : BitVec 64) (n : Nat) : OnlyMem s (s.cpRead fn pasid a n).1 := by
  unfold State.cpRead
  generalize cpAgent s fn pasid = g
  generalize cpPieces _ _ _ = ps
  generalize (0 : Nat) = i
  induction ps generalizing s i with
  | nil => exact .refl s
  | cons p ps ih =>
    have h := cpPiece_onlyMem s g i p
    unfold cpPiecesAll
    split <;> rename_i heq <;> rw [heq] at h
    · exact h
    · rename_i u ws
      have k := ih u (i + 1)
      split <;> rename_i heq' <;> rw [heq'] at k <;> exact h.trans k

end Sys2Proof.Machine
end

