-- ==== Sys2Proof/Tests/Slice0.lean ====
section
/-!
SUPPORT. Tests: words that the spec writes out, terms that are not well formed, and for every statement states and operands
that meet its hypotheses. Each is about one step, on a small state.
-/
open Sys2Proof Sys2Proof.Machine Sys2Proof.Slice0

namespace Sys2Proof.Tests

-- one proof at a time: many kernel evaluations at once would need as many stacks
set_option Elab.async false

/-! ## Small states -/

/-- The only path of the only wave of the only crew, selected to issue, in lane 0 of two lanes. -/
def th (fp : Path → Path) (fw : Path → Wave → Wave) (fc : Crew → Crew) (fs : State → State) : Th :=
  let p := fp { pathAt placedPc 3 with exm := 1, s := [(1, mkW 0x100000000), (2, mkW 5), (3, mkW 1)] }
  let w := fw p (waveAt 0 0 0 0 0 0 0 32 32 0 0x2000000000 p)
  let s := fs { State.reset.setCtxReg 0 0x110 0x100000004 with
    sel := some (0, 0), waves := [(0, w)], crews := [fc (placedCrew 0)], nextH := 1 }
  { s := s, wk := 0, w := w, p := p }

/-- In user mode, with a handler. The scratchpad stands at 4 GiB, where S1 points; S2 is 5 and S3 is 1. -/
def tU : Th := th id (fun _ w => w) id id
/-- The same in handler mode. -/
def tH : Th := th id (fun _ w => { w with hmode := true }) id id

theorem plain_tU : Plain tU.s tU :=
  { issuer := rfl, real := rfl, untraced := rfl, noCheck := rfl, noExit := rfl, noRegion := rfl, noLoop := rfl, noJoin := rfl }
theorem plain_tH : Plain tH.s tH :=
  { issuer := rfl, real := rfl, untraced := rfl, noCheck := rfl, noExit := rfl, noRegion := rfl, noLoop := rfl, noJoin := rfl }
theorem handles_tU : Handles tU := by unfold Handles; decide

/-- Are the fields legal and the guard readable, and does the instruction execute in the lanes `ex`? -/
def fitsRun (t : Th) (i : Instr) (f : Fields) (cls : Cls) (ex : BitVec 64) : Bool :=
  decide (fieldErr t.lim i = none) && (f.hold == 0 || cls != .l) && match guardOf t cls f with
    | .ok g => (cls != .c || g != 0) && ex == (t.p.exm &&& g)
    | .error _ => false

/-- The path once the instruction has issued: a class-L instruction counts for the governor. -/
def counts (t : Th) (cls : Cls) (ex : BitVec 64) : Th := if cls == .l then t.vecIssued ex else t

/-- `tU` once a class-L instruction of one lane has issued. -/
abbrev tV : Th := tU.vecIssued 1

theorem runs {t u : Th} {i : Instr} {f : Fields} {cls : Cls} {ex : BitVec 64} (h : Plain t.s t)
    (m : fitsRun t i f cls ex = true) (eu : u = counts t cls ex := by rfl) : Runs t.s u i f cls ex := by
  subst eu
  unfold fitsRun at m
  simp only [Bool.and_eq_true, decide_eq_true_eq] at m
  obtain ⟨⟨m1, m3⟩, m2⟩ := m
  have e : counts t cls ex = t.entered cls f ex := by
    simp only [counts, Th.entered, Th.latched]
    cases cls <;> simp_all
  split at m2
  · rename_i g hg
    simp only [Bool.and_eq_true, Bool.or_eq_true, bne_iff_ne, ne_eq, beq_iff_eq] at m2
    exact ⟨⟨t, h, e⟩, by cases cls <;> exact m1, g, by cases cls <;> exact hg, fun hc => m2.1.resolve_left (fun hn => hn hc),
      by cases cls <;> exact m2.2⟩
  · simp at m2

theorem sound_of {l : List Src} (h : l.all (·.ok) = true) : Sound l := by
  intro x hx; exact (List.all_eq_true.mp h) x hx

/-- Do the sources of every executing lane pass their checks? -/
def lanesOk (t : Th) (f : Fields) (ex : BitVec 64) (srcs : Nat → List Src) : Bool :=
  (lanesOf ex).all fun L => (guardSrc t f ++ srcs L).all (·.ok)

theorem soundLanes_of {t : Th} {f : Fields} {ex : BitVec 64} {srcs : Nat → List Src} (h : lanesOk t f ex srcs = true) :
    SoundLanes t f ex srcs := by
  intro L hL; exact sound_of ((List.all_eq_true.mp h) L hL)

/-- Both for a class-L instruction. -/
theorem runsL {t : Th} {i : Instr} {f : Fields} {ex : BitVec 64} {srcs : Nat → List Src} (h : Plain t.s t)
    (m : (fitsRun t i f .l ex && lanesOk (t.vecIssued ex) f ex srcs) = true) :
    Runs t.s (t.vecIssued ex) i f .l ex ∧ SoundLanes (t.vecIssued ex) f ex srcs := by
  simp only [Bool.and_eq_true] at m
  exact ⟨runs h m.1, soundLanes_of m.2⟩

/-- Fields of a class-L instruction with the guard P15. -/
def vf (sub dst sa sb sc ty : Nat) : Fields :=
  { plainFields with sub := BitVec.ofNat 4 sub, gsel := 15, dst := BitVec.ofNat 8 dst, sa := BitVec.ofNat 8 sa,
                     sb := BitVec.ofNat 8 sb, sc := BitVec.ofNat 8 sc, ty := BitVec.ofNat 5 ty }
/-- Fields of a class-C instruction with the guard B7. -/
def cf (sub dst sa sb sc ty : Nat) : Fields := { vf sub dst sa sb sc ty with gsel := 23 }

/-! ## Hypotheses of the statements about operations -/

theorem test_ScalarBinaryResult_applies : ∀ r ∈ scalarBinaries,
    Runs tU.s tU (r.1 (cf 0 4 2 3 0 7)) (cf 0 4 2 3 0 7) .c 1 ∧ tU.splitWrite 4 = false ∧ Unarmed tU ∧
      Sound [tU.srcS 64 2 1, tU.scalB (cf 0 4 2 3 0 7) 64] := by
  intro r hr
  exact ⟨runs plain_tU (by revert r; decide), rfl, rfl, sound_of (by decide)⟩

theorem test_ScalarShiftResult_applies : ∀ r ∈ counted,
    Runs tU.s tU (r.1 (cf 0 0 2 3 0 7)) (cf 0 0 2 3 0 7) .c 1 ∧ tU.splitWrite 0 = false ∧ Unarmed tU ∧
      Sound [tU.srcS 64 2 1, scalarCount tU (cf 0 0 2 3 0 7)] := by
  intro r hr
  exact ⟨runs plain_tU (by revert r; decide), rfl, rfl, sound_of (by decide)⟩

theorem test_ScalarMoveAndCountResult_applies :
    Runs tU.s tU (.smov (cf 0 4 0 3 0 7)) (cf 0 4 0 3 0 7) .c 1 ∧
    (Runs tU.s tU (.ssel (cf 0 4 2 3 7 7)) (cf 0 4 2 3 7 7) .c 1 ∧ bad (tU.breg 7) = false) ∧
    Runs tU.s tU (.sclz (cf 0 4 2 0 0 7)) (cf 0 4 2 0 0 7) .c 1 ∧ Runs tU.s tU (.spopc (cf 0 4 2 0 0 7)) (cf 0 4 2 0 0 7) .c 1 ∧
    Runs tU.s tU (.sbfi (cf 0 4 2 3 1 7)) (cf 0 4 2 3 1 7) .c 1 ∧
    Sound [tU.srcS 64 2 1, tU.scalB (cf 0 4 2 3 1 7) 64, scalarCount tU (cf 0 4 2 3 1 7), tU.srcS 64 1 3] :=
  ⟨runs plain_tU (by decide), ⟨runs plain_tU (by decide), by decide⟩, runs plain_tU (by decide), runs plain_tU (by decide),
    runs plain_tU (by decide), sound_of (by decide)⟩

theorem test_ScalarPredicateResult_applies :
    (Runs tU.s tU (.scmp (cf 5 6 2 3 0 7)) (cf 5 6 2 3 0 7) .c 1 ∧ Sound [tU.srcS 64 2 1, tU.scalB (cf 5 6 2 3 0 7) 64]) ∧
    Runs tU.s tU (.blop (cf 5 6 7 0 0 0)) (cf 5 6 7 0 0 0) .c 1 :=
  ⟨⟨runs plain_tU (by decide), sound_of (by decide)⟩, runs plain_tU (by decide)⟩

/-- Two paths in the table, of which the wave's first is selected. -/
def tSplit : Th := th id (fun p w => { w with paths := [p, { p with idx := 1, eid := 1, mask := 4, exm := 4 }], nextEid := 2 }) id id
theorem plain_tSplit : Plain tSplit.s tSplit :=
  { issuer := rfl, real := rfl, untraced := rfl, noCheck := rfl, noExit := rfl, noRegion := rfl, noLoop := rfl, noJoin := rfl }

theorem test_SplitScalarWrite_applies : ∀ mk ∈ scalarBinaries.map (·.1) ++ counted.map (·.1),
    Runs tSplit.s tSplit (mk (cf 0 16 2 3 0 7)) (cf 0 16 2 3 0 7) .c 1 ∧ tSplit.splitWrite 16 = true := by
  intro mk hm
  exact ⟨runs plain_tSplit (by revert mk; decide), rfl⟩

/-- Another type where an instruction does not take `.s64`. -/
def vty (r : (Fields → Instr) × (Fields → Nat → Nat → Nat)) : Fields :=
  if fieldErr tU.lim (r.1 (vf 0 4 2 6 0 5)) = none then vf 0 4 2 6 0 5 else vf 0 4 2 6 0 8

theorem test_VectorBinaryResult_applies : ∀ r ∈ vectorBinaries,
    Runs tU.s tV (r.1 (vty r)) (vty r) .l 1 ∧ SoundLanes tV (vty r) 1 (fun L => [tV.srcA (vty r) (wid (vty r)) L, tV.srcB (vty r) (wid (vty r)) L]) := by
  intro r hr
  exact runsL plain_tU (by revert r; decide)

theorem test_VectorShiftResult_applies : ∀ r ∈ counted,
    Runs tU.s tV (r.2.1 (vf 0 4 2 6 0 5)) (vf 0 4 2 6 0 5) .l 1 ∧
      SoundLanes tV (vf 0 4 2 6 0 5) 1 (fun L => [tV.srcA (vf 0 4 2 6 0 5) 32 L, tV.srcCount (vf 0 4 2 6 0 5) L]) := by
  intro r hr
  exact runsL plain_tU (by revert r; decide)

theorem test_VectorUnaryResult_applies : Unarmed tV ∧
    (∀ r ∈ ([(.vabs, 5), (.vneg, 5), (.vpopc, 6), (.vclz, 6)] : List ((Fields → Instr) × Nat)), let f := vf 0 4 2 0 0 r.2
      Runs tU.s tV (r.1 f) f .l 1 ∧ SoundLanes tV f 1 (fun L => [tV.srcA f (wid f) L])) ∧
    (let f := vf 0 4 0 6 0 7
     Runs tU.s tV (.vmov f) f .l 1 ∧ SoundLanes tV f 1 (fun L => [tV.srcB f (wid f) L])) ∧
    (let f := vf 1 4 2 0 0 7
     Runs tU.s tV (.vcvti f) f .l 1 ∧ SoundLanes tV f 1 (fun L => [tV.srcA f (tyW f.sub.toNat) L])) ∧
    (let f := vf 0 4 0 0 0 6
     Runs tU.s tV (.viota f) f .l 1 ∧ SoundLanes tV f 1 (fun _ => [])) ∧
    (let f := vf 0 4 2 0 0 6
     Runs tU.s tV (.vres f) f .l 1 ∧ SoundLanes tV f 1 (fun _ => [])) :=
  ⟨rfl, fun r hr => runsL plain_tU (by revert r; decide), runsL plain_tU (by decide), runsL plain_tU (by decide),
    runsL plain_tU (by decide), runsL plain_tU (by decide)⟩

/-- A source that HOLD names. -/
def heldF : Fields := { vf 0 4 2 6 0 6 with hold := 1 }

theorem test_HeldSourceResult_applies :
    (∃ r ∈ vectorBinaries, r.1 heldF = .vadd heldF) ∧ Plain tU.s tU ∧ Runs tU.s (tU.entered .l heldF 1) (.vadd heldF) heldF .l 1 ∧
    Unarmed (tU.entered .l heldF 1) ∧
    SoundLanes (tU.entered .l heldF 1) heldF 1 (fun L => [(tU.entered .l heldF 1).srcA heldF 32 L, (tU.entered .l heldF 1).srcB heldF 32 L]) ∧
    (∀ h ∈ tU.w.latch, h.life ≤ 2) ∧ heldF.hold ≠ 0 :=
  ⟨⟨_, List.mem_cons_self, rfl⟩, plain_tU, ⟨⟨tU, plain_tU, rfl⟩, by decide, _, rfl, by decide, rfl⟩, rfl,
    soundLanes_of (by decide), by decide, by decide⟩

/-- R111: the held copy of V2 stays for the two instructions that follow. -/
theorem test_hold : (match exec (.vadd heldF) tU.s with
    | .next s => (s.wave tU.wk).map (·.latch)
    | _ => none) = some [{ eid := tU.p.eid, reg := 2, life := 2 }] := by decide +kernel

/-- R110, R111: the spec's VFMA of V0, V4 and V12 costs two extra cycles, and one with V4 held. -/
theorem test_bank_conflicts :
    let ks := vSources tU.lim (.vfma (vf 0 8 0 4 12 11))
    tU.bankExtra ks = 2 ∧
    ({ tU with w := { tU.w with latch := [{ eid := tU.p.eid, reg := 4, life := 2 }] } } : Th).bankExtra ks = 1 := by decide

theorem test_VectorTernaryResult_applies :
    (let f := vf 0 4 2 6 8 5
     Runs tU.s tV (.vmad f) f .l 1 ∧ SoundLanes tV f 1 (fun L => [tV.srcA f (wid f) L, tV.srcB f (wid f) L, tV.srcC f (wid f) L])) ∧
    (let f := vf 0 4 2 6 8 5
     Runs tU.s tV (.vadds f) f .l 1 ∧ SoundLanes tV f 1 (fun L => [tV.srcA f (wid f) L, tV.srcB f (wid f) L, tV.srcC f (wid f) L])) ∧
    (let f := vf 0 4 2 6 8 6
     Runs tU.s tV (.vbfi f) f .l 1 ∧ SoundLanes tV f 1 (fun L => [tV.srcA f (wid f) L, tV.srcCount f L, tV.srcC f (wid f) L])) ∧
    (let f := vf 0 4 2 6 8 1
     Runs tU.s tV (.vdot4 f) f .l 1 ∧ SoundLanes tV f 1 (fun L => [tV.srcA f 32 L, tV.srcB f 32 L, tV.srcC f 32 L])) ∧
    (let f := vf 0 4 2 6 0 5
     Runs tU.s tV (.vdymul f) f .l 1 ∧ SoundLanes tV f 1 (fun L => [tV.srcA f (wid f) L, tV.srcB f 8 L])) :=
  ⟨runsL plain_tU (by decide), runsL plain_tU (by decide), runsL plain_tU (by decide), runsL plain_tU (by decide),
    runsL plain_tU (by decide)⟩

theorem test_VectorPredicateResult_applies :
    (let f := vf 2 14 2 6 0 5
     Runs tU.s tV (.vcmp f) f .l 1 ∧ SoundKept tV f 1 ∧ SoundLanes tV f 1 (fun L => [tV.srcA f (wid f) L, tV.srcB f (wid f) L])) ∧
    (let f := vf 0 4 15 6 0 0
     Runs tU.s tV (.plop f) f .l 1 ∧ SoundKept tV f 1 ∧ SoundLanes tV f 1 (fun _ => [tV.srcP 15 1, tV.srcP 6 2])) ∧
    (let f := { vf 0 4 0 2 0 0 with scls := 1 }
     Runs tU.s tV (.pmov f) f .l 1 ∧ f.sub = 0 ∧ SoundKept tV f 1 ∧ SoundLanes tV f 1 (fun _ => [tV.srcS 64 2 2])) ∧
    (let f := vf 2 4 2 0 0 0
     Runs tU.s tV (.pmov f) f .l 1 ∧ f.sub = 2 ∧ SoundKept tV f 1 ∧ SoundLanes tV f 1 (fun L => [tV.srcA f 32 L])) :=
  ⟨⟨runs plain_tU (by decide), .inr rfl, soundLanes_of (by decide)⟩,
    ⟨runs plain_tU (by decide), .inr rfl, soundLanes_of (by decide)⟩,
    ⟨runs plain_tU (by decide), rfl, .inr rfl, soundLanes_of (by decide)⟩,
    ⟨runs plain_tU (by decide), rfl, .inr rfl, soundLanes_of (by decide)⟩⟩

theorem test_VectorSelectResult_applies :
    (let f := vf 0 4 2 6 8 7
     (tV.srcP 8 7).bad = false ∧ Runs tU.s tV (.vsel f) f .l 1 ∧ SoundLanes tV f 1 (fun L => [tV.srcP 8 7,
       if (tV.srcP 8 7).v.testBit L then tV.srcA f (wid f) L else tV.srcB f (wid f) L])) ∧
    (let f := vf 1 4 15 0 0 0
     Runs tU.s tV (.pmov f) f .l 1 ∧ f.sub = 1 ∧ SoundLanes tV f 1 (fun _ => [tV.srcP 15 1]) ∧ tV.splitWrite 4 = false) ∧
    (let f := vf 3 4 15 0 0 0
     Runs tU.s tV (.pmov f) f .l 1 ∧ f.sub = 3 ∧ SoundLanes tV f 1 (fun _ => [tV.srcP 15 1])) :=
  ⟨⟨by decide, runsL plain_tU (by decide)⟩, ⟨runs plain_tU (by decide), rfl, soundLanes_of (by decide), rfl⟩,
    ⟨runs plain_tU (by decide), rfl, soundLanes_of (by decide)⟩⟩

theorem test_FloatArithmeticResult_applies :
    (∀ mk ∈ ([.vfadd, .vfsub, .vfmul] : List (Fields → Instr)), let f := { vf 0 4 2 6 0 11 with rm := 5 }
      Runs tU.s tV (mk f) f .l 1 ∧ SoundLanes tV f 1 (fun L => withGen tV f L [tV.srcA f 32 L, tV.srcBF f L])) ∧
    (∀ mk ∈ ([.vfrcp, .vfrsq, .vfex2, .vflg2] : List (Fields → Instr)), let f := vf 0 4 2 0 0 11
      Runs tU.s tV (mk f) f .l 1 ∧ SoundLanes tV f 1 (fun L => withGen tV f L [tV.srcA f 32 L])) ∧
    (let f := { vf 3 4 2 6 8 12 with rm := 3 }
     Runs tU.s tV (.vfma f) f .l 1 ∧ SoundLanes tV f 1 (fun L => withGen tV f L [tV.srcA f 64 L, tV.srcBF f L, tV.srcC f 64 L])) :=
  ⟨fun r hr => runsL plain_tU (by revert r; decide), fun r hr => runsL plain_tU (by revert r; decide), runsL plain_tU (by decide)⟩

theorem test_FloatConversionResult_applies :
    (let f := vf 0 4 2 6 8 9
     Runs tU.s tV (.vfdot2 f) f .l 1 ∧ SoundLanes tV f 1 (fun L => withGen tV f L [tV.srcA f 32 L, tV.srcB f 32 L, tV.srcC f 32 L])) ∧
    (let f := vf 11 4 2 0 0 13
     Runs tU.s tV (.vcvt f) f .l 1 ∧ SoundLanes tV f 1 (fun L => withGen tV f L [tV.srcA f (tyW f.sub.toNat) L])) ∧
    (let f := vf 0 4 2 6 0 13
     Runs tU.s tV (.vqscl f) f .l 1 ∧ f.sub = 0 ∧ SoundLanes tV f 1 (fun L => withGen tV f L [tV.srcA f 32 L, tV.srcB f 8 L])) ∧
    (let f := vf 0 4 2 0 0 11
     Runs tU.s tV (.vfrnd f) f .l 1 ∧ SoundLanes tV f 1 (fun L => withGen tV f L [tV.srcA f 32 L])) :=
  ⟨runsL plain_tU (by decide), runsL plain_tU (by decide), ⟨runs plain_tU (by decide), rfl, soundLanes_of (by decide)⟩,
    runsL plain_tU (by decide)⟩

theorem test_FloatSelectResult_applies :
    (∀ mk ∈ ([.vfmin, .vfmax] : List (Fields → Instr)), let f := vf 1 4 2 6 0 11
      Runs tU.s tV (mk f) f .l 1 ∧ SoundLanes tV f 1 (fun L => [tV.srcA f 32 L, tV.srcBF f L])) ∧
    (let f := vf 7 4 2 6 0 11
     Runs tU.s tV (.vfcmp f) f .l 1 ∧ SoundKept tV f 1 ∧ SoundLanes tV f 1 (fun L => [tV.srcA f 32 L, tV.srcBF f L])) ∧
    (∀ f ∈ [vf 2 4 2 6 0 11, vf 4 4 2 0 0 11], Runs tU.s tV (.vfsgn f) f .l 1 ∧
      SoundLanes tV f 1 (fun L => if f.sub.toNat < 3 then [tV.srcA f 32 L, tV.srcBF f L] else [tV.srcA f 32 L])) ∧
    (let f := vf 0 4 2 0 0 11
     Runs tU.s tV (.vfcls f) f .l 1 ∧ SoundLanes tV f 1 (fun L => [tV.srcA f 32 L])) :=
  ⟨fun r hr => runsL plain_tU (by revert r; decide), ⟨runs plain_tU (by decide), .inr rfl, soundLanes_of (by decide)⟩,
    fun f hf => runsL plain_tU (by revert f; decide), runsL plain_tU (by decide)⟩

theorem test_PackAndSeedResult_applies :
    (let f := vf 0 4 2 6 0 9
     Runs tU.s tV (.vpack f) f .l 1 ∧ tyW f.ty.toNat = 16 ∧ SoundLanes tV f 1 (fun L => [tV.srcA f 16 L, tV.srcB f 16 L])) ∧
    (let f := vf 1 4 2 6 8 13
     Runs tU.s tV (.vpack f) f .l 1 ∧ tyW f.ty.toNat = 8 ∧ SoundLanes tV f 1 (fun L => [tV.srcA f 8 L, tV.srcB f 8 L, tV.srcC f 32 L])) ∧
    (let f := vf 3 4 2 0 0 13
     Runs tU.s tV (.vunpk f) f .l 1 ∧ SoundLanes tV f 1 (fun L => [tV.srcA f 32 L])) ∧
    (let f := vf 1 4 2 0 0 13
     Runs tU.s tV (.vqscl f) f .l 1 ∧ f.sub = 1 ∧ SoundLanes tV f 1 (fun L => [tV.srcA f 32 L])) ∧
    (let f := vf 0 0 0 6 0 6
     Runs tU.s tV (.vseed f) f .l 1 ∧ SoundLanes tV f 1 (fun L => [tV.srcB f 32 L])) :=
  ⟨⟨runs plain_tU (by decide), rfl, soundLanes_of (by decide)⟩, ⟨runs plain_tU (by decide), rfl, soundLanes_of (by decide)⟩,
    runsL plain_tU (by decide), ⟨runs plain_tU (by decide), rfl, soundLanes_of (by decide)⟩, runsL plain_tU (by decide)⟩

theorem test_ShuffleResult_applies :
    (∀ r ∈ ([(.vshfl, shuffled (vf 1 4 2 6 8 8)), (.vlrot, rotated (vf 1 4 2 6 8 8))] : List ((Fields → Instr) × (Nat → Nat → Int))),
      let f := vf 1 4 2 6 8 8
      Runs tU.s tV (r.1 f) f .l 1 ∧
        SoundLanes tV f 1 (fun L => [received tV f 1 L (r.2 (tV.w.lidOf L) (tV.srcIndex f L).v), tV.srcIndex f L])) ∧
    (let f := vf 0 4 2 15 8 8
     Runs tU.s tV (.vcprs f) f .l 1 ∧ (tV.srcP 15 7).bad = false ∧
       SoundLanes tV f 1 (fun L => [(match ((tV.w.byLid 1).filter fun L => (tV.srcP 15 7).v.testBit L)[(tV.w.byLid 1).idxOf L]? with
         | some M => tV.srcV (wid f) 2 M 1
         | none => tV.srcC f (wid f) L), tV.srcP 15 7])) :=
  ⟨fun r hr => runsL plain_tU (by revert r; decide), runs plain_tU (by decide), by decide, soundLanes_of (by decide)⟩

theorem test_ScanResult_applies : ∀ f ∈ [vf 0 4 2 0 0 5, vf 1 4 2 0 0 5],
    Runs tU.s tV (.vscan f) f .l 1 ∧ SoundLanes tV f 1 (fun L => [tV.srcA f (wid f) L]) :=
  fun f hf => runsL plain_tU (by revert f; decide)

theorem test_ReduceResult_applies :
    (let f := { vf 0 4 2 0 8 8 with immf := true, scls := 2 }
     Runs tU.s tV (.vreadl f) f .l 1 ∧ SoundLanes tV f 1 (fun _ => [(match laneOfLid tV.w 1 0 with
       | some M => tV.srcV (wid f) 2 M 1
       | none => tV.srcS (wid f) 8 3), immInt f 32])) ∧
    (let f := vf 2 4 2 0 0 7
     Runs tU.s tV (.vred f) f .l 1 ∧ SoundLanes tV f 1 (fun L => [tV.srcA f (wid f) L])) ∧
    (∀ f ∈ [vf 0 4 15 0 0 0, vf 1 6 15 0 0 0, vf 2 6 15 0 0 0], Runs tU.s tV (.vvote f) f .l 1 ∧
      SoundLanes tV f 1 (fun _ => [tV.srcP 15 1])) ∧ (tV.srcP 15 1).bad = false ∧ tV.splitWrite 4 = false ∧
    (let f := vf 3 6 2 0 0 0
     Runs tU.s tV (.vvote f) f .l 1 ∧ SoundLanes tV f 1 (fun L => [tV.srcV 32 2 L 1])) :=
  ⟨runsL plain_tU (by decide), runsL plain_tU (by decide), fun f hf => runsL plain_tU (by revert f; decide), by decide, rfl,
    runsL plain_tU (by decide)⟩

theorem test_ExecuteMaskResult_applies :
    (let f := { vf 0 0 0 2 0 0 with scls := 1 }
     Runs tU.s tV (.setexm f) f .l 1 ∧ guardOf tV .l f = .ok 0xFFFFFFFFFFFFFFFF ∧ bad (tV.sreg 2) = false ∧
       Sound (guardSrc tV f ++ [tV.srcS 64 2 2])) ∧
    (let f := vf 1 4 0 0 0 0
     Runs tU.s tV (.getexm f) f .l 1 ∧ Sound (guardSrc tV f) ∧ tV.splitWrite 4 = false) ∧
    (let f := vf 0 4 0 0 0 0
     Runs tU.s tV (.pathinfo f) f .l 1 ∧ Sound (guardSrc tV f)) :=
  ⟨⟨runs plain_tU (by decide), rfl, by decide, sound_of (by decide)⟩,
    ⟨runs plain_tU (by decide), sound_of (by decide), rfl⟩, ⟨runs plain_tU (by decide), sound_of (by decide)⟩⟩

/-! ## Hypotheses of the statements about exceptions and control -/

theorem test_TrapEntryRecords_applies : tU.s.dbg = [] ∧ Handles tU := ⟨rfl, handles_tU⟩

theorem test_TrapWithoutHandler_applies : tH.w.hmode = true ∧ ({ tU with w := { tU.w with tvec := 0 } } : Th).w.tvec = 0 :=
  ⟨rfl, rfl⟩

theorem test_IllegalInstructionTraps_applies : Quiet tU.s tU ∧ Handles tU ∧
    isHandlerOnly (yNum { cf 0 0 2 0 0 0 with hi := 0x20 }).toNat = true ∧
    (∀ r ∈ scalarBinaries, fieldErr tU.lim (r.1 { cf 0 4 2 3 0 7 with hold := 1 }) = some 18) ∧
    (∀ r ∈ vectorBinaries, fieldErr tU.lim (r.1 (vf 0 4 2 6 0 31)) = some 52) :=
  ⟨plain_tU.toQuiet, handles_tU, by decide, by decide, by decide⟩

theorem test_FalseGuardHasNoEffect_applies :
    (∀ r ∈ scalarBinaries, fieldErr tU.lim (r.1 { cf 0 4 2 3 0 7 with gneg := true }) = none) ∧
    (∀ x ∈ ([(.smov, cf 0 4 0 3 0 7), (.ssel, cf 0 4 2 3 0 7), (.scmp, cf 0 4 2 3 0 7), (.sclz, cf 0 4 2 0 0 7)] :
        List ((Fields → Instr) × Fields)), fieldErr tU.lim (x.1 { x.2 with gneg := true }) = none) ∧
    (∀ x ∈ ([(.bra, cf 0 0 0 0 0 0), (.call, cf 0 0 0 0 0 0), (.ret, cf 0 0 0 0 0 0), (.loop, { cf 0 0 2 0 0 0 with hi := 2 }),
        (.exit, cf 0 0 0 0 0 0), (.sst, { cf 0 0 2 6 8 7 with scls := 1 }), (.sld, { cf 0 4 2 6 0 7 with scls := 1 }),
        (.satom, { cf 0 4 2 6 8 7 with scls := 1 }), (.mdrain, { cf 0 4 0 0 0 11 with hi := 1 }),
        (.xcopy, cf 0 4 2 6 0 0), (.contend, cf 0 0 2 6 8 0), (.mark, cf 0 0 0 0 0 0), (.rplend, cf 0 0 0 0 0 0)] :
        List ((Fields → Instr) × Fields)), fieldErr tU.lim (x.1 { x.2 with gneg := true }) = none ∧
      guardOf tU .c { x.2 with gneg := true } = .ok 0) := by
  refine ⟨by decide, by decide, fun x hx => ⟨by revert x; decide, ?_⟩⟩
  simp only [List.mem_cons, List.not_mem_nil, or_false] at hx
  rcases hx with rfl | rfl | rfl | rfl | rfl | rfl | rfl | rfl | rfl | rfl | rfl | rfl | rfl <;> rfl

/-- S2 carries a residue that is not that of its bits. -/
def tBad : Th := th (fun p => { p with s := [(2, { v := 5, r := 3 }), (3, mkW 1)] }) (fun _ w => w) id id
theorem plain_tBad : Plain tBad.s tBad :=
  { issuer := rfl, real := rfl, untraced := rfl, noCheck := rfl, noExit := rfl, noRegion := rfl, noLoop := rfl, noJoin := rfl }

theorem test_BadResidueTraps_applies : ∀ r ∈ scalarBinaries, let f := cf 0 4 2 3 0 7
    Runs tBad.s tBad (r.1 f) f .c 1 ∧ Handles tBad ∧ tBad.splitWrite 4 = false ∧ Unarmed tBad ∧
      (tBad.srcS 64 2 1).ok = false ∧ (tBad.scalB f 64).ok = true := by
  intro r hr
  exact ⟨runs plain_tBad (by revert r; decide), by unfold Handles; decide, rfl, rfl, by decide, by decide⟩

theorem test_TrapReturn_applies : tH.w.hmode = true ∧ tH.w.tia.toNat % 8 < 5 ∧
    Runs tH.s tH (.tretRetry (cf 0 0 0 0 0 0)) (cf 0 0 0 0 0 0) .c 1 ∧
    Runs tH.s tH (.tretSkip { cf 0 0 0 0 0 0 with hi := 1 }) { cf 0 0 0 0 0 0 with hi := 1 } .c 1 :=
  ⟨rfl, by decide, runs plain_tH (by decide), runs plain_tH (by decide)⟩

theorem test_TrapAborts_applies : let f := { cf 0 0 0 0 0 0 with hi := 0xFFFF }
    Runs tH.s tH (.trap f) f .c 1 ∧ tH.w.hmode = true ∧ tH.commit.crew tH.w.crew = some (placedCrew 0) ∧
    Quiet tU.s tU ∧ tU.w.hmode = false :=
  ⟨runs plain_tH (by decide), rfl, rfl, plain_tU.toQuiet, rfl⟩

/-- A path that has called. -/
def tCall : Th := th (fun p => { p with recs := [{ addr := 0x0000002000000000, ldep := 0, spill := none }] }) (fun _ w => w) id id
theorem plain_tCall : Plain tCall.s tCall :=
  { issuer := rfl, real := rfl, untraced := rfl, noCheck := rfl, noExit := rfl, noRegion := rfl, noLoop := rfl, noJoin := rfl }

theorem test_BranchResult_applies :
    Runs tU.s tU (.bra { cf 0 0 0 0 0 0 with hi := 7 }) { cf 0 0 0 0 0 0 with hi := 7 } .c 1 ∧
    Runs tU.s tU (.call { cf 0 0 0 0 0 0 with hi := 7 }) { cf 0 0 0 0 0 0 with hi := 7 } .c 1 ∧
    Runs tU.s tU (.brx (cf 0 0 1 0 0 0)) (cf 0 0 1 0 0 0) .c 1 ∧ Runs tU.s tU (.callx (cf 0 0 1 0 0 0)) (cf 0 0 1 0 0 0) .c 1 ∧
    bad (tU.sreg 1) = false ∧ sound (tU.sreg 1) = true ∧ Unarmed tU ∧ poolSize (tU.w.putPath tU.p) < 16 ∧
    Runs tCall.s tCall (.ret (cf 0 0 0 0 0 0)) (cf 0 0 0 0 0 0) .c 1 ∧ (tCall.p.recs.map (·.spill)) = [none] :=
  ⟨runs plain_tU (by decide), runs plain_tU (by decide), runs plain_tU (by decide), runs plain_tU (by decide), by decide, by decide,
    rfl, by decide, runs plain_tCall (by decide), rfl⟩

theorem test_ReturnWithoutRecord_applies :
    Runs tU.s tU (.ret (cf 0 0 0 0 0 0)) (cf 0 0 0 0 0 0) .c 1 ∧ Handles tU ∧ tU.p.recs = [] :=
  ⟨runs plain_tU (by decide), handles_tU, rfl⟩

/-- A line whose five slots are targets. -/
def tLine : BitVec 512 := 0x1F000000000000000000000000000000000000000000000000000000000000000000000000000000000000000000000000000000000000000000000000
theorem tLine_word : lineWord tLine = 0x1F := by decide +kernel

/-- Two lanes, of which P1 names the first, in a line whose five slots are targets. -/
def tTwo : Th := th (fun p => { p with exm := 3, line := some (placedPc.extractLsb' 6 58, tLine) })
  (fun _ w => { w with p := [(1, mkW 1), (2, mkW 3)] }) id id
theorem plain_tTwo : Plain tTwo.s tTwo :=
  { issuer := rfl, real := rfl, untraced := rfl, noCheck := rfl, noExit := rfl, noRegion := rfl, noLoop := rfl, noJoin := rfl }
/-- BRV to slot 2 that reconverges at slot 3, under a guard. -/
def brvF (g : BitVec 5) : Fields := { vf 0 0 0 0 0 0 with gsel := g, hi := 0x00030002 }

/-- The same once a class-L instruction of one lane has issued. -/
abbrev tTwoV : Th := tTwo.vecIssued 1

theorem line_tTwo (a : BitVec 64) (hl : a.extractLsb' 6 58 = placedPc.extractLsb' 6 58) :
    fetchLine { tTwoV with p := { tTwoV.p with pia := a } } = .ok { tTwoV with p := { tTwoV.p with pia := a } } tLine := by
  simp only [fetchLine]
  rw [hl]
  rfl

theorem target_tTwo (a : BitVec 64) (ha : a.toNat < 2 ^ 57) (hl : a.extractLsb' 6 58 = placedPc.extractLsb' 6 58)
    (hb : (0x1F : BitVec 32).getLsbD (a.toNat % 8) = true) : LegalTarget tTwoV a :=
  ⟨ha, _, _, line_tTwo a hl, rfl, rfl, tLine_word ▸ hb⟩

/-- The same path in a line whose slot 2 is no target. -/
def tLineB : BitVec 512 := 0x1B000000000000000000000000000000000000000000000000000000000000000000000000000000000000000000000000000000000000000000000000
theorem tLineB_word : lineWord tLineB = 0x1B := by decide +kernel
def tNoTarget : Th := th (fun p => { p with exm := 3, line := some (placedPc.extractLsb' 6 58, tLineB) })
  (fun _ w => { w with p := [(1, mkW 1), (2, mkW 3)] }) id id
theorem plain_tNoTarget : Plain tNoTarget.s tNoTarget :=
  { issuer := rfl, real := rfl, untraced := rfl, noCheck := rfl, noExit := rfl, noRegion := rfl, noLoop := rfl, noJoin := rfl }

abbrev tNoTargetV : Th := tNoTarget.vecIssued 1

theorem noTarget (a : BitVec 64) (hl : a.extractLsb' 6 58 = placedPc.extractLsb' 6 58)
    (hb : (0x1B : BitVec 32).getLsbD (a.toNat % 8) = false) :
    ∃ u d, fetchLine { tNoTargetV with p := { tNoTargetV.p with pia := a } } = .ok u d ∧ u.s = tNoTargetV.s ∧ u.w = tNoTargetV.w ∧
      (lineWord d).getLsbD (a.toNat % 8) = false := by
  refine ⟨{ tNoTargetV with p := { tNoTargetV.p with pia := a } }, tLineB, ?_, rfl, rfl, tLineB_word ▸ hb⟩
  simp only [fetchLine]
  rw [hl]
  rfl

theorem test_VectorBranchResult_applies :
    (Runs tTwo.s (tTwo.vecIssued 0) (.brv (brvF 0)) (brvF 0) .l 0 ∧ Sound (guardSrc (tTwo.vecIssued 0) (brvF 0))) ∧
    (Runs tTwo.s (tTwo.vecIssued 3) (.brv (brvF 2)) (brvF 2) .l 3 ∧ Sound (guardSrc (tTwo.vecIssued 3) (brvF 2)) ∧ (tTwo.vecIssued 3).p.mask = 3) ∧
    (Runs tTwo.s tTwoV (.brv (brvF 1)) (brvF 1) .l 1 ∧ Sound (guardSrc tTwoV (brvF 1)) ∧
      LegalTarget tTwoV (placedPc + 2) ∧ LegalTarget tTwoV (placedPc + 3) ∧
      addrOf (linear placedPc + toSigned 16 (fld (brvF 1).hi 15 0)) = placedPc + 2 ∧
      addrOf (linear placedPc + toSigned 16 (fld (brvF 1).hi 31 16)) = placedPc + 3 ∧
      2 ≤ (tTwoV.w.putPath tTwoV.p).freeIdx.length ∧ nextAddr placedPc ≠ placedPc + 3 ∧ tTwoV.p.eid < tTwoV.w.nextEid) ∧ Unarmed tTwo ∧
    (Runs tNoTarget.s tNoTargetV (.brv (brvF 1)) (brvF 1) .l 1 ∧ Unarmed tNoTargetV ∧ Sound (guardSrc tNoTargetV (brvF 1)) ∧
      Handles tNoTargetV ∧ ∃ u d, fetchLine { tNoTargetV with p := { tNoTargetV.p with pia := placedPc + 2 } } = .ok u d ∧
        u.s = tNoTargetV.s ∧ u.w = tNoTargetV.w ∧ (lineWord d).getLsbD ((placedPc + 2).toNat % 8) = false) :=
  ⟨⟨runs plain_tTwo (by decide), sound_of (by decide)⟩, ⟨runs plain_tTwo (by decide), sound_of (by decide), rfl⟩,
    ⟨runs plain_tTwo (by decide), sound_of (by decide),
      target_tTwo _ (by decide) (by decide) (by decide), target_tTwo _ (by decide) (by decide) (by decide), by decide, by decide, by decide, by decide, by decide⟩, rfl,
    ⟨runs plain_tNoTarget (by decide), rfl, sound_of (by decide), by unfold Handles; decide, noTarget _ (by decide) (by decide)⟩⟩

/-- The taken arm of a split, selected; its sibling is in the given state. -/
def tArm (st : PState) : Th := th
  (fun p => { p with idx := 2, eid := 2, parent := some 0, taken := true, mask := 1, rca := placedPc + 3, level := 1 })
  (fun p w => { w with nextEid := 3, paths :=
    [{ p with idx := 0, eid := 0, parent := none, taken := false, st := .join, pia := placedPc + 3, mask := 3, exm := 3, rca := 0, level := 0 },
     { p with idx := 1, eid := 1, taken := false, st := st, mask := 2, exm := 2 }, p] })
  id (fun s => { s with sel := some (0, 2) })
theorem quiet_tArm (st : PState) (h : st ≠ .loopExit) : Quiet (tArm st).s (tArm st) :=
  { issuer := rfl, real := rfl, untraced := rfl, noCheck := rfl, noExit := by cases st <;> first | rfl | exact absurd rfl h, noRegion := rfl }

theorem test_ReconvergeResult_applies : let f := cf 0 0 0 0 0 0
    (Quiet tU.s tU ∧ fieldErr tU.lim (.rcv f) = none ∧ guardOf tU .c f = .ok 0xFFFFFFFFFFFFFFFF ∧ tU.p.parent = none ∧ Handles tU) ∧
    (let t := tArm .running
     Quiet t.s t ∧ fieldErr t.lim (.rcv f) = none ∧ guardOf t .c f = .ok 0xFFFFFFFFFFFFFFFF ∧ t.p.parent = some 0 ∧
       normPc t.p.rca = t.p.rca ∧ ∃ q ∈ t.w.paths, q.parent = some 0 ∧ q.eid ≠ t.p.eid ∧ q.st = .running) ∧
    (let t := tArm .waiting
     Quiet t.s t ∧ t.w.spilled = [] ∧ t.p.taken = true ∧ ∃ q jp, t.w.path 0 = some jp ∧ jp.parent = none ∧ jp.eid = 0 ∧
       t.w.kids 0 = [q, t.p] ∧ q.taken = false ∧ q.st = .waiting ∧ q.eid ≠ t.p.eid ∧ t.p.mask ||| q.mask ≠ 0 ∧ jp.eid ≠ t.p.eid ∧
       ∀ r ∈ t.w.paths, r.eid = t.p.eid → r = t.p) :=
  ⟨⟨plain_tU.toQuiet, by decide, rfl, rfl, handles_tU⟩,
    ⟨quiet_tArm _ (by decide), by decide, rfl, rfl, by decide, by decide⟩,
    ⟨quiet_tArm _ (by decide), rfl, rfl, _, _, rfl, rfl, rfl, rfl, rfl, rfl, by decide, by decide, by decide, by decide⟩⟩

theorem test_LoopOpens_applies :
    (∀ f ∈ [{ cf 0 0 2 0 0 0 with hi := 0x02100002 }, { cf 0 0 0 0 0 0 with hi := 0x10000002 }],
      Runs tU.s tU (.loop f) f .c 1 ∧ f.dst = 0 ∧ fld f.hi 23 16 ≤ 64 ∧ (fld f.hi 23 16 ≠ 0 → 192 + fld f.hi 23 16 ≤ 8 * tU.w.vregs)) ∧
    bad (tU.sreg 2) = false ∧ sound (tU.sreg 2) = true ∧ Unarmed tU ∧ tU.rsd < 256 ∧
    ((tU.w.paths ++ tU.w.spilled).all fun q => q.eid == tU.p.eid || q.st == .waiting || q.st == .join || q.st == .loopExit) = true := by
  refine ⟨fun f hf => ⟨runs plain_tU (by revert f; decide), by revert f; decide, by revert f; decide, by revert f; decide⟩,
    by decide, by decide, rfl, by decide, by decide⟩

/-- One loop level is open around the slot `pc`, with `rem` trips to go. -/
def tLoopAt (pc rem : Nat) : Th := th (fun p => { p with ldep := 1 })
  (fun _ w => { w with d := 1, lc := [(0, levelOf (BitVec.ofNat 256
    (2 ^ 255 + 8 * 2 ^ 248 + 2 * 2 ^ 192 + rem * 2 ^ 128 + pc * 2 ^ 64 + pc)))] }) id id
/-- Around the path's slot. -/
def tLoop (rem : Nat) : Th := tLoopAt 0x1000000000 rem
theorem quiet_tLoop (pc n : Nat) : Quiet (tLoopAt pc n).s (tLoopAt pc n) :=
  { issuer := rfl, real := rfl, untraced := rfl, noCheck := rfl, noExit := rfl, noRegion := rfl }

theorem test_BackEdge_applies : ∀ n ∈ [1, 2], let t := tLoop n
    let l := t.w.level 0
    Quiet t.s t ∧ t.p.parent = none ∧ fieldErr t.lim (.nop { cf 0 0 0 0 0 0 with gsel := 0 }) = none ∧ t.w.d = 1 ∧
      t.edgeApplies 0 = true ∧ (∀ j ∈ [4, 5, 7], bad (l.word j) = false ∧ sound (l.word j) = true) ∧ normPc l.starta = l.starta ∧
      l.iter + 1 < 2 ^ 32 ∧ l.rot ≤ 64 ∧ l.rem = n := by
  intro n hn
  exact ⟨quiet_tLoop _ n, rfl, by revert n; decide, rfl, by revert n; decide, by revert n; decide, by revert n; decide,
    by revert n; decide, by revert n; decide, by revert n; decide⟩

theorem test_LoopBreak_applies : let f := cf 0 0 0 0 0 0
    (Quiet tU.s tU ∧ fieldErr tU.lim (.lbrk f) = none ∧ guardOf tU .c f = .ok 0xFFFFFFFFFFFFFFFF ∧ tU.w.d = 0 ∧ Handles tU) ∧
    (Quiet (tLoop 2).s (tLoop 2) ∧ fieldErr (tLoop 2).lim (.lbrk f) = none ∧ (tLoop 2).w.d = 1 ∧ (tLoop 2).acts 0 = true) :=
  ⟨⟨plain_tU.toQuiet, by decide, rfl, rfl, handles_tU⟩, ⟨quiet_tLoop _ 2, by decide, rfl, by decide⟩⟩

theorem test_ControlHintResult_applies :
    Runs tU.s tU (.nop { cf 0 0 0 0 0 0 with gsel := 0 }) { cf 0 0 0 0 0 0 with gsel := 0 } .none 1 ∧
    Runs tU.s tU (.yield (cf 0 0 0 0 0 0)) (cf 0 0 0 0 0 0) .c 1 ∧
    Runs tU.s tU (.setpri { cf 0 0 0 0 0 0 with hi := 3 }) { cf 0 0 0 0 0 0 with hi := 3 } .c 1 ∧
    (∀ f ∈ [cf 0 0 0 0 0 0, { cf 0 0 0 0 0 0 with hi := 0xFFFF }], Runs tU.s tU (.sleep f) f .c 1) ∧
    Runs tU.s tU (.fenceq (cf 0 0 0 0 0 0)) (cf 0 0 0 0 0 0) .c 1 ∧ Runs tU.s tU (.fencei (cf 0 0 0 0 0 0)) (cf 0 0 0 0 0 0) .c 1 :=
  ⟨runs plain_tU (by decide), runs plain_tU (by decide), runs plain_tU (by decide), fun f hf => runs plain_tU (by revert f; decide),
    runs plain_tU (by decide), runs plain_tU (by decide)⟩

/-- Another wave of the crew runs in the next slot. -/
def tPair : Th := th id (fun _ w => w) id fun s =>
  { s with waves := s.waves ++ s.waves.map fun x => (2, { x.2 with slot := 1, wid := 1 }) }
theorem plain_tPair : Plain tPair.s tPair :=
  { issuer := rfl, real := rfl, untraced := rfl, noCheck := rfl, noExit := rfl, noRegion := rfl, noLoop := rfl, noJoin := rfl }

theorem test_ExitResult_applies : let f := cf 0 0 0 0 0 0
    (Runs tPair.s tPair (.exit f) f .c 1 ∧ tPair.w.paths = [tPair.p] ∧ tPair.w.spilled = [] ∧
      (∃ x ∈ tPair.s.waves, x.1 ≠ tPair.wk ∧ x.2.crew = tPair.w.crew ∧ x.2.ended = false) ∧ (tPair.s.crew tPair.w.crew).isSome = true) ∧
    (Runs tSplit.s tSplit (.exit f) f .c 1 ∧ tSplit.w.hmode = false ∧ tSplit.w.spilled = [] ∧
      ∃ q ∈ tSplit.w.paths, q.eid ≠ tSplit.p.eid ∧ q.st = .running) :=
  ⟨⟨runs plain_tPair (by decide), rfl, rfl, by decide, rfl⟩, ⟨runs plain_tSplit (by decide), rfl, rfl, by decide⟩⟩

/-! ## Hypotheses of the statements about accesses -/

/-- Do the addresses of an access lie in the crew's scratchpad at `off`, aligned and sound? -/
def scrOk (t : Th) (f : Fields) (a : Acc) (strided : Bool) (ex : BitVec 64) (off : Nat → Nat) : Bool :=
  (accLanes t a.c ex).all fun L => off L + a.n ≤ 65536 && aperture t.s t.w.pasid (laneAddr t f strided L) == some (0, off L) &&
    (laneAddr t f strided L).toNat % a.align == 0 && (guardSrc t f ++ addrSrcs t f L).all (·.ok) &&
    !(addrSrcs t f L).any (·.bad)

theorem inScratch {t : Th} {f : Fields} {a : Acc} {strided : Bool} {ex : BitVec 64} {k : Crew} {off : Nat → Nat}
    (hc : t.s.crews.filter (fun c => c.h == t.w.crew) = [k]) (hk : k.scrSize = 65536)
    (h : scrOk t f a strided ex off = true) : InScratch t f a strided ex k.scr off := by
  have H : ∀ L ∈ accLanes t a.c ex, _ := fun L hL => (List.all_eq_true.mp h) L hL
  simp only [Bool.and_eq_true, decide_eq_true_eq, beq_iff_eq, Bool.not_eq_true'] at H
  exact ⟨⟨k, hc, rfl, fun L hL => by rw [hk]; exact (H L hL).1.1.1.1⟩, fun L hL => ⟨(H L hL).1.1.1.2, (H L hL).1.1.2⟩,
    fun L hL => ⟨sound_of (H L hL).1.2, (H L hL).2⟩⟩

/-- The crew's scratchpad in the small states. -/
def scr : Mem := (placedCrew 0).scr

/-- Fields of a lane access at S1 + V6 and of a scalar one at S1. -/
def vacc (sub dst sc ty : Nat) : Fields := vf sub dst 1 6 sc ty
def sacc (sub dst sc ty : Nat) : Fields := { cf sub dst 1 0 sc ty with scls := 2, hi := 0x00F00040 }

theorem test_ScratchLoadResult_applies :
    (let f := vacc 0 4 0 7
     Runs tU.s tV (.vld f) f .l 1 ∧ InScratch tV f (loadAcc 0xA0 f (2 ^ f.sub.toNat)) false 1 scr fun _ => 0) ∧
    (let f := { vacc 0 4 0 7 with scls := 1 }
     Runs tU.s tV (.vlds f) f .l 1 ∧ InScratch tV f (loadAcc 0xA2 f (2 ^ f.sub.toNat)) true 1 scr fun _ => 0) ∧
    (let f := sacc 0 4 0 7
     Runs tU.s tU (.sld f) f .c 1 ∧ tU.splitWrite f.dst.toNat = false ∧
       InScratch tU f { loadAcc 0xA4 f 1 with c := true } false 1 scr fun _ => 0x40) ∧
    Unarmed tU ∧ ((wordsOf scr 0 8).all sound && (wordsOf scr 0x40 8).all sound) = true :=
  ⟨⟨runs plain_tU (by decide), inScratch rfl rfl (by decide)⟩, ⟨runs plain_tU (by decide), inScratch rfl rfl (by decide)⟩,
    ⟨runs plain_tU (by decide), rfl, inScratch rfl rfl (by decide)⟩, rfl, by decide⟩

theorem test_ScratchStoreResult_applies :
    (let f := vacc 0 0 8 7
     Runs tU.s tV (.vst f) f .l 1 ∧ InScratch tV f (storeAcc 0xA1 f (2 ^ f.sub.toNat)) false 1 scr (fun _ => 0) ∧
       (∀ L ∈ tV.w.byLid 1, Sound (storeData tV f L)) ∧ relWaits tV f = false ∧ 4 ≤ (storeAcc 0xA1 f (2 ^ f.sub.toNat)).n) ∧
    (let f := vacc 0 0 8 1
     Runs tU.s tV (.vst f) f .l 1 ∧ InScratch tV f (storeAcc 0xA1 f (2 ^ f.sub.toNat)) false 1 scr (fun _ => 0) ∧
       (∀ L ∈ tV.w.byLid 1, Sound (storeData tV f L)) ∧ (storeAcc 0xA1 f (2 ^ f.sub.toNat)).n = 1 ∧
       (wordsOf scr 0 1).all sound = true) ∧
    (let f := { vacc 0 0 8 7 with scls := 1 }
     Runs tU.s tV (.vsts f) f .l 1 ∧ InScratch tV f (storeAcc 0xA3 f (2 ^ f.sub.toNat)) true 1 scr (fun _ => 0) ∧
       (∀ L ∈ tV.w.byLid 1, Sound (storeData tV f L)) ∧ relWaits tV f = false ∧ 4 ≤ (storeAcc 0xA3 f (2 ^ f.sub.toNat)).n) ∧
    (let f := sacc 0 0 2 7
     Runs tU.s tU (.sst f) f .c 1 ∧ InScratch tU f { storeAcc 0xA5 f 1 with c := true } false 1 scr (fun _ => 0x40) ∧
       Sound (scalarData tU f 0) ∧ relWaits tU f = false ∧ 4 ≤ (storeAcc 0xA5 f 1).n) ∧ Unarmed tU :=
  ⟨⟨runs plain_tU (by decide), inScratch rfl rfl (by decide), fun L hL => sound_of (by revert L; decide), rfl, by decide⟩,
    ⟨runs plain_tU (by decide), inScratch rfl rfl (by decide), fun L hL => sound_of (by revert L; decide), by decide, by decide⟩,
    ⟨runs plain_tU (by decide), inScratch rfl rfl (by decide), fun L hL => sound_of (by revert L; decide), rfl, by decide⟩,
    ⟨runs plain_tU (by decide), inScratch rfl rfl (by decide), sound_of (by decide), rfl, by decide⟩, rfl⟩

theorem test_ScratchAtomicResult_applies : Unarmed tU ∧ tU.splitWrite 4 = false ∧
    (let f := vacc 0 4 8 7
     Runs tU.s tV (.vatom f) f .l 1 ∧ tV.w.byLid 1 = [0] ∧ InScratch tV f (atomAcc 0xA6 f) false 1 scr (fun _ => 0) ∧
       Sound (vatomData tV f 0) ∧ (vatomWords tV f 0).any (·.bad) = false ∧ relWaits tV f = false) ∧
    (let f := sacc 0 4 2 7
     Runs tU.s tU (.satom f) f .c 1 ∧ InScratch tU f { atomAcc 0xA7 f with c := true } false 1 scr (fun _ => 0x40) ∧
       Sound (satomData tU f 0) ∧ (satomData tU f 0).any (·.bad) = false ∧ relWaits tU f = false) ∧
    ((wordsOf scr 0 8 ++ wordsOf scr 0x40 8).all fun w => sound w && !bad w) = true :=
  ⟨rfl, rfl, ⟨runs plain_tU (by decide), by decide, inScratch rfl rfl (by decide), sound_of (by decide), by decide, rfl⟩,
    ⟨runs plain_tU (by decide), inScratch rfl rfl (by decide), sound_of (by decide), by decide, rfl⟩, by decide⟩

theorem test_AtomicFunctions_applies : (5 : Nat) < 2 ^ tyW 5 ∧ 2 ^ 64 - 1 < 2 ^ tyW 8 := by decide

theorem test_ScratchMaintenanceResult_applies : Unarmed tU ∧
    (∀ mk ∈ ([.cmaintWb, .cmaintInv, .cmaintWbinv, .cmaintZero] : List (Fields → Instr)), ∃ f,
      Runs tU.s tU (mk f) f .c 1 ∧
      InScratch tU f { op := 0xAD, c := true, n := 1, align := 1, nd := { r := true } } false 1 scr fun _ => 0) ∧
    (let f := vacc 0 0 0 0
     Runs tU.s tV (.vprf f) f .l 1 ∧ ∀ L ∈ tV.w.byLid 1, (aperture tV.s tV.w.pasid (laneAddr tV f false L)).isSome = true) ∧
    (let f := vacc 0 4 0 4
     Runs tU.s tV (.vldf f) f .l 1 ∧ InScratch tV f { op := 0xAE, n := 1, align := 1, nd := { r := true } } false 1 scr fun _ => 0) := by
  refine ⟨rfl, fun mk hm => ?_, ⟨runs plain_tU (by decide), by decide⟩, runs plain_tU (by decide), inScratch rfl rfl (by decide)⟩
  simp only [List.mem_cons, List.not_mem_nil, or_false] at hm
  rcases hm with rfl | rfl | rfl | rfl
  · exact ⟨{ sacc 0 0 0 0 with hi := 0x02F00000 }, runs plain_tU (by decide), inScratch rfl rfl (by decide)⟩
  · exact ⟨{ sacc 1 0 0 0 with hi := 0x02F00000 }, runs plain_tU (by decide), inScratch rfl rfl (by decide)⟩
  · exact ⟨{ sacc 2 0 0 0 with hi := 0x02F00000 }, runs plain_tU (by decide), inScratch rfl rfl (by decide)⟩
  · exact ⟨{ sacc 3 0 0 0 with hi := 0x02F00000 }, runs plain_tU (by decide), inScratch rfl rfl (by decide)⟩

theorem test_ShapeRegisterResult_applies : Unarmed tU ∧ tU.splitWrite 4 = false ∧
    (let f := cf 0 4 0 2 8 0
     Runs tU.s tU (.setq f) f .c 1 ∧ Sound [tU.srcS 64 f.sb.toNat 2]) ∧
    (∀ n ∈ [8, 14, 0], let f := cf 0 4 2 0 n 0
     Runs tU.s tU (.getq f) f .c 1 ∧ Sound (tU.srcQ f.sa.toNat 1 (qFieldWords n))) ∧
    (let f := sacc 0 4 0 0
     Runs tU.s tU (.ldq f) f .c 1 ∧ InScratch tU f (recAcc 0xA9 { r := true }) false 1 scr (fun _ => 0x40) ∧
       (wordsOf scr 0x40 64).all sound = true ∧
       (tU.s.ms.lrc.find? fun y => y.core == tU.w.coreN && y.pa == recKey tU.agent (.ls 0x40)) = none) ∧
    (let f := sacc 0 0 4 0
     Runs tU.s tU (.stq f) f .c 1 ∧ InScratch tU f (recAcc 0xAA { w := true }) false 1 scr (fun _ => 0x40) ∧
       relWaits tU f = false ∧ Sound (tU.srcQ f.sc.toNat 3 (List.range 16))) :=
  ⟨rfl, rfl, ⟨runs plain_tU (by decide), sound_of (by decide)⟩,
    fun n hn => ⟨runs plain_tU (by revert n; decide), sound_of (by revert n; decide)⟩,
    ⟨runs plain_tU (by decide), inScratch rfl rfl (by decide), by decide, rfl⟩,
    ⟨runs plain_tU (by decide), inScratch rfl rfl (by decide), rfl, sound_of (by decide)⟩⟩

/-- The scratchpad holds, at 80H, the record of one open level. -/
def tSaved : Th := th id (fun _ w => w) (fun c => { c with scr := c.scr.putWords 32 ((List.range 8).map fun j =>
  mkW (((tLoopAt 0x1000000002 2).w.level 0).bits.extractLsb' (32 * j) 32)) }) id
theorem quiet_tSaved : Quiet tSaved.s tSaved :=
  { issuer := rfl, real := rfl, untraced := rfl, noCheck := rfl, noExit := rfl, noRegion := rfl }

theorem test_LoopSaveRestore_applies : let f := { sacc 0 0 0 0 with hi := 0x00F00080 }
    (let t := tLoopAt 0x1000000002 2
     Quiet t.s t ∧ t.p.parent = none ∧ Unarmed t ∧ fieldErr t.lim (.lsave f) = none ∧ guardOf t .c f = .ok 0xFFFFFFFFFFFFFFFF ∧
     ((t.w.paths ++ t.w.spilled).all fun q => q.eid == t.p.eid || q.st == .join || q.ldep == 0) = true ∧
     InScratch t f (levelAcc 0x29 { w := true }) false 1 scr (fun _ => 0x80) ∧ relWaits t f = false ∧ Sound (levelData t 0) ∧
     t.w.d = 1 ∧ ∀ n < t.w.d, t.edgeApplies n = false) ∧
    (∀ d < 2, let t := if d = 0 then tU else tSaved
      Quiet t.s t ∧ fieldErr t.lim (.lrest f) = none ∧ t.w.d = 0 ∧ ∃ m,
        InScratch t f (levelAcc 0x2A { r := true }) false 1 m (fun _ => 0x80) ∧
        ((wordsOf m 0x80 128).all fun w => sound w && !bad w) = true ∧
        (let lv := fun n => levelOf (BitVec.ofNat 256 (m.nat (0x80 + 32 * n) 32))
         (∀ n < 4, (lv n).bits.getLsbD 255 = decide (n < d)) ∧ (∀ n < 4, levelBad (lv n) = false) ∧ ∀ n < d, (lv n).enda ≠ t.p.pia)) := by
  refine ⟨⟨quiet_tLoop _ 2, rfl, rfl, by decide, rfl, by decide, inScratch rfl rfl (by decide), rfl, sound_of (by decide), rfl, by decide⟩,
    fun d hd => ?_⟩
  rcases d with _ | _ | d
  · exact ⟨plain_tU.toQuiet, by decide, rfl, scr, inScratch rfl rfl (by decide), by decide, by decide, by decide, by decide⟩
  · exact ⟨quiet_tSaved, by decide, rfl, _, inScratch rfl rfl (by decide), by decide, by decide, by decide, by decide⟩
  · omega

/-- S1 is poisoned. -/
def tPoison : Th := th (fun p => { p with s := [(1, mkP true 0x100000000)] }) (fun _ w => w) id id
theorem plain_tPoison : Plain tPoison.s tPoison :=
  { issuer := rfl, real := rfl, untraced := rfl, noCheck := rfl, noExit := rfl, noRegion := rfl, noLoop := rfl, noJoin := rfl }
/-- S1 is odd. -/
def tOdd : Th := th (fun p => { p with s := [(1, mkW 0x100000001)] }) (fun _ w => w) id id
theorem plain_tOdd : Plain tOdd.s tOdd :=
  { issuer := rfl, real := rfl, untraced := rfl, noCheck := rfl, noExit := rfl, noRegion := rfl, noLoop := rfl, noJoin := rfl }

theorem test_AccessChecks_applies : Handles tPoison ∧ Handles tOdd ∧
    (∀ x ∈ ([(.vld, vacc 0 4 0 7), (.vst, vacc 0 0 8 7), (.vatom, vacc 0 4 8 7), (.vldf, vacc 0 4 0 4)] :
        List ((Fields → Instr) × Fields)),
      Runs tPoison.s (tPoison.vecIssued 1) (x.1 x.2) x.2 .l 1 ∧ (((tPoison.vecIssued 1).w.byLid 1).filter fun L => (addrSrcs (tPoison.vecIssued 1) x.2 L).any (·.bad)) ≠ []) ∧
    (∀ x ∈ ([(.vld, vacc 0 4 0 7), (.vst, vacc 0 0 8 7)] : List ((Fields → Instr) × Fields)),
      Runs tOdd.s (tOdd.vecIssued 1) (x.1 x.2) x.2 .l 1 ∧
      (((tOdd.vecIssued 1).w.byLid 1).filter fun L => (laneAddr (tOdd.vecIssued 1) x.2 false L).toNat % (2 ^ x.2.sub.toNat * tyBytes x.2) ≠ 0) ≠ [] ∧
      ∀ L ∈ (tOdd.vecIssued 1).w.byLid 1, (addrSrcs (tOdd.vecIssued 1) x.2 L).any (·.bad) = false) := by
  refine ⟨by unfold Handles; decide, by unfold Handles; decide, fun x hx => ⟨runs plain_tPoison (by revert x; decide), by revert x; decide⟩,
    fun x hx => ⟨runs plain_tOdd (by revert x; decide), by revert x; decide, by revert x; decide⟩⟩

theorem test_PermissionOrder_applies : leafP 0xFFFFFFFFFFFFFFFF = true ∧ leafP 0 = false ∧ leafX 0 = false ∧ leafR 0 = false ∧ leafW 0 = false := by
  decide

/-! ## Hypotheses of the statements about the system, and about what waits -/

/-- Fields of a class-C instruction with the given bits 95 to 64. -/
def hf (sub dst sa sc : Nat) (hi : Nat) : Fields := { cf sub dst sa 0 sc 0 with hi := BitVec.ofNat 32 hi }
/-- And with an address. -/
def af (sub dst sa sc : Nat) (hi : Nat) : Fields := { hf sub dst sa sc hi with scls := 2 }

theorem test_SpecialRegisterResult_applies : tU.splitWrite 4 = false ∧ Unarmed tH ∧ tH.w.hmode = true ∧
    (∀ n ∈ [1, 0x18, 0x30], Runs tU.s tU (.sread (hf 0 4 0 0 n)) (hf 0 4 0 0 n) .c 1 ∧ (yNum (hf 0 4 0 0 n)).toNat ≠ 0) ∧
    (Runs tU.s tU (.sread (hf 1 4 0 0 0)) (hf 1 4 0 0 0) .c 1 ∧ (yNum (hf 1 4 0 0 0)).toNat = 0) ∧
    (∀ n ∈ [0x20, 0x39], Runs tH.s tH (.swrite (hf 0 0 2 0 n)) (hf 0 0 2 0 n) .c 1 ∧
      isHandlerOnly (yNum (hf 0 0 2 0 n)).toNat = true) ∧
    (Runs tH.s tH (.swrite (hf 0 0 2 0 1)) (hf 0 0 2 0 1) .c 1 ∧ isHandlerOnly (yNum (hf 0 0 2 0 1)).toNat = false) ∧
    bad (tH.sreg 2) = false ∧ sound (tH.sreg 2) = true := by
  refine ⟨rfl, rfl, rfl, fun n hn => ⟨runs plain_tU (by revert n; decide), by revert n; decide⟩,
    ⟨runs plain_tU (by decide), rfl⟩, fun n hn => ⟨runs plain_tH (by revert n; decide), by revert n; decide⟩,
    ⟨runs plain_tH (by decide), by decide⟩, by decide, by decide⟩

/-- A GENSYNC of the context runs, of path `eid` of the wave, and the units `behind` are still to take the generation. -/
def tSync (eid : Nat) (behind : List Nat) : Th := th id (fun _ w => { w with hmode := true }) id fun s =>
  { s with ms := { s.ms with syncs := [(0, { crew := 0, wid := 0, eid := eid, behind := behind })] } }
theorem plain_tSync (eid : Nat) (behind : List Nat) : Plain (tSync eid behind).s (tSync eid behind) :=
  { issuer := rfl, real := rfl, untraced := rfl, noCheck := rfl, noExit := rfl, noRegion := rfl, noLoop := rfl, noJoin := rfl }

theorem test_ContextRegisterResult_applies : tH.w.hmode = true ∧ Unarmed tH ∧
    (∀ n ∈ [0x110, 0x140, 0x161], Runs tH.s tH (.csrd (hf 0 4 0 0 n)) (hf 0 4 0 0 n) .c 1) ∧
    (∀ n ∈ [0x110, 0x130], Runs tH.s tH (.cswr (hf 0 0 2 0 n)) (hf 0 0 2 0 n) .c 1 ∧ (yNum (hf 0 0 2 0 n)).toNat ≠ 0x140 ∧
      perCore (yNum (hf 0 0 2 0 n)).toNat = false) ∧
    bad (tH.sreg 2) = false ∧ sound (tH.sreg 2) = true ∧
    Runs tH.s tH (.gensync (hf 0 4 0 0 0)) (hf 0 4 0 0 0) .c 1 ∧ tH.s.syncOf tH.w.pasid = none ∧
    (∀ x ∈ [(0, [3, 9]), (0, []), (1, [3])], let t := tSync x.1 x.2
      Runs t.s t (.gensync (hf 0 4 0 0 0)) (hf 0 4 0 0 0) .c 1 ∧
      (t.s.syncOf t.w.pasid).map (fun y => (y.crew == t.w.crew && y.wid == t.w.wid, y.eid == t.p.eid, y.behind)) =
        some (true, x.1 == 0, x.2)) := by
  refine ⟨rfl, rfl, fun n hn => runs plain_tH (by revert n; decide),
    fun n hn => ⟨runs plain_tH (by revert n; decide), by revert n; decide, by revert n; decide⟩, by decide, by decide,
    runs plain_tH (by decide), by decide, fun x hx => ⟨runs (plain_tSync _ _) (by (simp only [List.mem_cons, List.not_mem_nil, or_false] at hx; rcases hx with rfl | rfl | rfl <;> decide)),
      by revert x; decide⟩⟩

/-- A store of the core is on its way. -/
def aStore : PStore :=
  { sid := 0, seq := 0, pasid := 0, va := none, tag := 0, hm := false, after := [], core := 0, wk := 0, eid := 0, crew := 0, cons := 0, op := none, blk := 0, mask := 15, data := 0, poison := 0,
    pair := rawPair, home := 0, rep := false, relSy := false, stage := .buffered, wait := 0, got := 0, told := false, part := 0, t0 := 0 }
def tStore : Th := th (fun p => { p with obs := [0] }) (fun _ w => w) id fun s => { s with ms := { s.ms with stores := [aStore] } }
theorem plain_tStore : Plain tStore.s tStore :=
  { issuer := rfl, real := rfl, untraced := rfl, noCheck := rfl, noExit := rfl, noRegion := rfl, noLoop := rfl, noJoin := rfl }

theorem test_TranslationMaintenanceResult_applies : Unarmed tU ∧ Unarmed tH ∧ Unarmed tStore ∧ tU.splitWrite 4 = false ∧
    tStore.splitWrite 4 = false ∧
    (∀ x ∈ [(0, 3, 2), (1, 4, 2), (2, 4, 0)], let f := af x.1 0 x.2.2 0 (x.2.1 * 2 ^ 24 + 0x00F00000)
      Runs tH.s tH (.tlbinv f) f .c 1 ∧
        tH.s.usesXl tH.w.pasid (fun d => mScope f == 4 || d == tH.w.die) (f.sub == 2) (f.sub == 1) (laneAddr tH f false 0) = false ∧ bad (tH.sreg f.sa.toNat) = false ∧
        sound (tH.sreg f.sa.toNat) = true) ∧
    (let f := af 0 4 1 0 0x00F00040
     Runs tU.s tU (.probe f) f .c 1 ∧ (aperture tU.s tU.w.pasid (laneAddr tU f false 0)).isSome = true ∧
      bad (tU.sreg 1) = false ∧ sound (tU.sreg 1) = true) ∧
    (let f := af 0 4 0 0 0x00FFFFC0
     Runs tU.s tU (.probe f) f .c 1 ∧ aperture tU.s tU.w.pasid (laneAddr tU f false 0) = none ∧
      2 ^ 57 ≤ (laneAddr tU f false 0).toNat ∧ bad (tU.sreg 0) = false ∧ sound (tU.sreg 0) = true) ∧
    (let f := af 0 4 0 0 0x1CF00000
     (Runs tU.s tU (.fence f) f .c 1 ∧ tU.p.wait = .none ∧ relWaits tU f = false) ∧
     Runs tStore.s tStore (.fence f) f .c 1 ∧ tStore.p.wait = .none ∧ relWaits tStore f = true) := by
  refine ⟨rfl, rfl, rfl, rfl, rfl, fun x hx => ⟨runs plain_tH (by revert x; decide), by revert x; decide, by revert x; decide,
      by revert x; decide⟩,
    ⟨runs plain_tU (by decide), by decide, by decide, by decide⟩,
    ⟨runs plain_tU (by decide), by decide, by decide, by decide, by decide⟩,
    ⟨runs plain_tU (by decide), rfl, rfl⟩, runs plain_tStore (by decide), rfl, by decide⟩

/-- The boundary numbers of the registers that a write reaches, read after it. -/
theorem test_RegisterReadAfterWrite_applies :
    (∀ n ∈ [1, 63], 0 < n ∧ n < 64 ∧ (tU.setS n (mkW 9)).sreg n = mkW 9) ∧
    (∀ n ∈ [0, 6], n < 7 ∧ (tU.setB n (mkW 1)).breg n = mkW 1) ∧
    (∀ n ∈ [0, 14], n < 15 ∧ (tU.setP n (mkW 9)).preg n = mkW 9) ∧
    (∀ L ∈ [0, 63], L < 64 ∧ (tU.setV 255 L (mkW 9)).vreg 255 L = mkW 9) := by decide

/-- The scratchpad holds, at 40H, a completion object that awaits `n` arrivals, of phase `b`. -/
def tObj (n : Nat) (b : Bool) : Th := th id (fun _ w => w)
  (fun c => { c with scr := c.scr.putWords 16 (if b then [mkW 0, mkW (BitVec.ofNat 32 (n * 2 ^ 16)), mkW 0x10000]
    else [mkW 0, mkW (BitVec.ofNat 32 (n * 2 ^ 16))]) }) id
theorem plain_tObj (n : Nat) (b : Bool) : Plain (tObj n b).s (tObj n b) :=
  { issuer := rfl, real := rfl, untraced := rfl, noCheck := rfl, noExit := rfl, noRegion := rfl, noLoop := rfl, noJoin := rfl }

theorem test_CompletionObjectResult_applies : ∀ n ∈ [0, 1, 2], ∀ b ∈ [false, true], ∃ m,
    let t := tObj n b
    Unarmed t ∧ CleanObject m 0x40 ∧ bad (t.sreg 2) = false ∧ fld (objWord m 0x40 0) 63 48 = n ∧
      (objWord m 0x40 1).getLsbD 16 = b ∧ (objWord m 0x40 1).getLsbD 39 = false ∧ fld (objWord m 0x40 0) 47 0 = 0 ∧
    (let f := af 0 0 1 2 0x00F00040
     Runs t.s t (.binit f) f .c 1 ∧ InScratch t f (objUpd 0xE0) false 1 m (fun _ => 0x40) ∧ Sound [t.srcS 64 2 3] ∧
     relWaits t f = false ∧ Runs t.s t (.bwait f) f .c 1 ∧ InScratch t f (objAcc 0xE2 { r := true }) false 1 m (fun _ => 0x40)) ∧
    (let f := af 0 0 1 0 0x00F00040
     Runs t.s t (.barrive f) f .c 1 ∧ InScratch t f (objUpd 0xE1) false 1 m (fun _ => 0x40) ∧ relWaits t f = false) ∧
    (let f := af 0 4 1 2 0x00F00040
     Runs t.s t (.btest f) f .c 1 ∧ InScratch t f (objAcc 0xE3 { r := true }) false 1 m (fun _ => 0x40)) := by
  intro n hn b hb
  simp only [List.mem_cons, List.not_mem_nil, or_false] at hn hb
  rcases hn with rfl | rfl | rfl <;> rcases hb with rfl | rfl <;>
    exact ⟨_, rfl, by unfold CleanObject; decide, by decide, by decide, by decide, by decide, by decide,
      ⟨runs (plain_tObj _ _) (by decide), inScratch rfl rfl (by decide), sound_of (by decide), rfl,
        runs (plain_tObj _ _) (by decide), inScratch rfl rfl (by decide)⟩,
      ⟨runs (plain_tObj _ _) (by decide), inScratch rfl rfl (by decide), rfl⟩,
      runs (plain_tObj _ _) (by decide), inScratch rfl rfl (by decide)⟩

/-- The path's barrier ended while a debugger held it. -/
def tGone : Th := th (fun p => { p with wait := .brkpt }) (fun _ w => w) id id
theorem plain_tGone : Plain tGone.s tGone :=
  { issuer := rfl, real := rfl, untraced := rfl, noCheck := rfl, noExit := rfl, noRegion := rfl, noLoop := rfl, noJoin := rfl }

theorem test_CrewBarrierResult_applies : tU.w.paths = [tU.p] ∧ tU.s.crew tU.w.crew = some (placedCrew 0) ∧
    (placedCrew 0).h = tU.w.crew ∧ tU.splitWrite 4 = false ∧
    ((placedCrew 0).bar 1).mask.getLsbD tU.w.wid = false ∧ ((placedCrew 0).bar 1).arr.toNat < 31 ∧
    Runs tU.s tU (.cbarArrive (hf 1 0 0 0 0x21)) (hf 1 0 0 0 0x21) .c 1 ∧
    (∀ k ∈ [0x21, 0x11, 0x01], Runs tU.s tU (.cbarSync (hf 0 0 0 0 k)) (hf 0 0 0 0 k) .c 1) ∧ tU.p.wait ≠ .brkpt ∧
    (Runs tGone.s tGone (.cbarSync (hf 0 0 0 0 0x21)) (hf 0 0 0 0 0x21) .c 1 ∧ tGone.p.wait = .brkpt ∧ tGone.w.paths = [tGone.p]) ∧
    Runs tU.s tU (.cbarRec (hf 2 4 0 0 1)) (hf 2 4 0 0 1) .c 1 := by
  refine ⟨rfl, rfl, rfl, rfl, by decide, by decide, runs plain_tU (by decide), fun k hk => runs plain_tU (by revert k; decide), by decide,
    ⟨runs plain_tGone (by decide), rfl, rfl⟩, runs plain_tU (by decide)⟩

/-- The wave's slot has an entry in the given state, of contest 5, that retired at 0. -/
def entry (st : ContestState) : Contest :=
  { slot := 0, wk := 0, cid := 5, comp := 0x10001, nb := 0, ret := 0, orphan := false, st := st }
def tEntry (st : ContestState) : Th := th id (fun _ w => w) id fun s => { s with contests := [entry st], ptime := 10000 }
theorem plain_tEntry (st : ContestState) : Plain (tEntry st).s (tEntry st) :=
  { issuer := rfl, real := rfl, untraced := rfl, noCheck := rfl, noExit := rfl, noRegion := rfl, noLoop := rfl, noJoin := rfl }

theorem test_ContestResult_applies : Unarmed tU ∧ Handles tU ∧ tU.s.entry tU.w.pslot = none ∧
    (∀ f ∈ [cf 0 0 2 3 1 0, { hf 0 0 2 1 5 with immf := true }], Runs tU.s tU (.contend f) f .c 1 ∧
      bad (tU.sreg f.sa.toNat) = false ∧ bad (tU.sreg f.sc.toNat) = false ∧ (f.immf = false → bad (tU.sreg f.sb.toNat) = false) ∧
      Sound ([tU.srcS 64 f.sa.toNat 1, tU.srcS 64 f.sc.toNat 3] ++ if f.immf then [] else [tU.srcS 64 f.sb.toNat 2])) ∧
    (∀ st ∈ [ContestState.pending, .inRound 0, .closed 1], let t := tEntry st
      Unarmed t ∧ Handles t ∧ t.s.entry t.w.pslot = some (entry st) ∧ t.splitWrite 4 = false ∧
      Runs t.s t (.cresultWait (hf 0 4 0 0 0)) (hf 0 4 0 0 0) .c 1 ∧ Runs t.s t (.cresultTest (hf 1 4 0 0 0)) (hf 1 4 0 0 0) .c 1 ∧
      Runs t.s t (.cwithdraw (hf 0 4 0 0 0)) (hf 0 4 0 0 0) .c 1) ∧
    Runs tU.s tU (.cresultWait (hf 0 4 0 0 0)) (hf 0 4 0 0 0) .c 1 := by
  refine ⟨rfl, handles_tU, rfl, fun f hf => ⟨runs plain_tU (by revert f; decide), by revert f; decide, by revert f; decide,
    by revert f; decide, sound_of (by revert f; decide)⟩,
    fun st hs => ⟨by unfold Unarmed; revert st; decide, by unfold Handles; revert st; decide, by revert st; decide, rfl, runs (plain_tEntry st) (by revert st; decide),
      runs (plain_tEntry st) (by revert st; decide), runs (plain_tEntry st) (by revert st; decide)⟩, runs plain_tU (by decide)⟩

theorem test_RoundResult_applies :
    (∃ r, (tEntry .pending).s.nextRound 5 = some r ∧ r.bnd.toNat ≤ (tEntry .pending).s.ptime.toNat) ∧
    (let s := { (tEntry (.inRound 512)).s with rounds := [{ line := 5, cid := 5, bnd := 512, again := none, run := true }] }
     s.badPa = none ∧ ∃ r, s.closing 5 = some r ∧ (entry (.inRound 512)).inRnd r = true) :=
  ⟨⟨_, rfl, by decide⟩, rfl, _, rfl, by decide⟩

/-- The path waits as given. -/
def tWait (x : Wait) (fs : State → State) : Th := th (fun p => { p with wait := x }) (fun _ w => w) id fs
theorem waiting_tU (x : Wait) : Waiting (tWait x id).s (tWait x id) :=
  { view := rfl, real := rfl, untraced := rfl, noCheck := rfl, noExit := rfl, noLoop := rfl, noJoin := rfl, running := rfl }

/-- A bound channel with two slots of data. -/
def aChan : Chan := { off := 0, ssize := 64, sbase := 64, fire := 1, scount := 4, prod := 2, cons := 0, pAdv := false, cAdv := false }

theorem test_WaitsEnd_applies :
    (∀ x ∈ [Wait.sleep 0, .mtoken 0, .chwait 1 2 false, .cbar 1 true 0, .cresult 4, .bwait 1 0x100000040 false 0 true],
      Waiting (tWait x id).s (tWait x id) ∧ (tWait x id).crew.bind (·.region) = none) ∧
    (0 : Nat) ≤ tU.s.qbuf tU.w.quadN ∧ (BitVec.toNat (0 : BitVec 64)) ≤ tU.s.ptime.toNat ∧
    (let s := { (tWait (.chwait 1 2 false) id).s with crews := [{ placedCrew 0 with chans := [(1, aChan)] }] }
     ∃ t, s.view 0 0 = some t ∧ Waiting s t ∧ t.crew.bind (·.region) = none ∧ s.chan t.w.crew 1 = some aChan ∧ 2 ≤ aChan.occ ∧
       2 ≤ aChan.room) ∧
    (tU.s.crew tU.w.crew = some (placedCrew 0) ∧ ((placedCrew 0).bar 1).phase ≠ true) ∧
    (let t := th (fun p => { p with wait := .cbar 1 true 0, held := some 0 }) (fun _ w => w) id id
     Waiting t.s t ∧ t.s.crew t.w.crew = some (placedCrew 0) ∧ t.p.held.isSome = true ∧ tU.p.held = none) ∧
    (let t := tWait (.cresult 4) fun s => { s with contests := [entry (.closed 1)] }
     Waiting t.s t ∧ t.s.entry t.w.pslot = some (entry (.closed 1))) := by
  refine ⟨fun x _ => ⟨waiting_tU x, rfl⟩, by decide, by decide, ⟨_, rfl, ⟨rfl, rfl, rfl, rfl, rfl, rfl, rfl, rfl⟩, rfl, rfl, by decide, by decide⟩,
    ⟨rfl, by decide⟩, ⟨⟨rfl, rfl, rfl, rfl, rfl, rfl, rfl, rfl⟩, rfl, rfl, rfl⟩, ⟨rfl, rfl, rfl, rfl, rfl, rfl, rfl, rfl⟩, rfl⟩

theorem test_WaitsEnd_applies_to_objects : ∀ b ∈ [false, true], ∃ m k,
    let t : Th := { tObj 1 b with p := { (tObj 1 b).p with wait := .bwait 1 0x100000040 false 0 true } }
    let s := t.commit
    ∃ u, s.view 0 0 = some u ∧ Waiting s u ∧ u.p.wait = .bwait 1 0x100000040 false 0 true ∧ Unarmed u ∧ Handles u ∧
      s.crews.filter (fun c => c.h == u.w.crew) = [k] ∧ k.scr = m ∧ aperture s u.w.pasid 0x100000040 = some (0, 0x40) ∧
      0x40 + 32 ≤ k.scrSize ∧ CleanObject m 0x40 ∧ (objWord m 0x40 1).getLsbD 16 = b ∧
      (objWord m 0x40 1).getLsbD 39 = false ∧ (objWord m 0x40 2).toNat ≤ s.ptime.toNat := by
  intro b hb
  simp only [List.mem_cons, List.not_mem_nil, or_false] at hb
  rcases hb with rfl | rfl <;>
    exact ⟨_, _, _, rfl, ⟨rfl, rfl, rfl, rfl, rfl, rfl, rfl, rfl⟩, rfl, rfl, by unfold Handles; decide, rfl, rfl, by decide, by decide,
      by unfold CleanObject; decide, by decide, by decide, by decide⟩

/-- REGROUP number 1 of the wave alone, with one register. -/
def rgF : Fields := { vf 0 0 3 0 0 0 with immf := true, hi := 0x00010101 }
/-- Two waves of the crew await REGROUP 1 of both, one with the lanes of 1 and one with those of 6. -/
def twoRg : State :=
  let t := tWait (.regroup 1 3 3 1 1) fun s => { s with crews := [{ placedCrew 0 with nwaves := 2 }] }
  { t.s with waves := t.s.waves ++ t.s.waves.map fun x => (2, { x.2 with slot := 1, wid := 1, paths := x.2.paths.map fun p =>
      { p with mask := 7, exm := 7, wait := .regroup 1 3 3 1 6 } }) }

theorem test_RegroupResult_applies :
    (Runs tU.s tV (.regroup rgF) rgF .l 1 ∧ tV.w.w32 = false ∧ tV.w.paths = [tV.p] ∧ tV.w.spilled = []) ∧
    (Runs tSplit.s (tSplit.vecIssued 1) (.regroup rgF) rgF .l 1 ∧ (tSplit.vecIssued 1).w.w32 = false ∧ 1 < (tSplit.vecIssued 1).w.paths.length ∧ Handles (tSplit.vecIssued 1)) ∧
    (∃ x y, regroupParts twoRg 0 = some [x, y] ∧ x.wk ≠ y.wk ∧ Waiting twoRg (x.view twoRg) ∧ Waiting twoRg (y.view twoRg) ∧
      x.w.paths = [x.p] ∧ y.w.paths = [y.p] ∧ x.w.spilled = [] ∧ y.w.spilled = [] ∧
      0 < popcount x.ex + popcount y.ex ∧ popcount x.ex + popcount y.ex ≤ 64) :=
  ⟨⟨runs plain_tU (by decide), rfl, rfl, rfl⟩, ⟨runs plain_tSplit (by decide), rfl, by decide, by unfold Handles; decide⟩,
    _, _, rfl, by decide, ⟨rfl, rfl, rfl, rfl, rfl, rfl, rfl, rfl⟩, ⟨rfl, rfl, rfl, rfl, rfl, rfl, rfl, rfl⟩, rfl, rfl, rfl, rfl,
    by decide, by decide⟩

/-- A breakpoint register names the path's slot; DBGCTL is `ctl`. -/
def tBreak (hm : Bool) (ctl : BitVec 64) : Th := th id (fun _ w => { w with hmode := hm }) id fun s =>
  (s.setCtxReg 0 0x163 ctl).setCtxReg 0 0x164 0x0000001000000001
theorem waiting_tBreak (hm : Bool) (ctl : BitVec 64) : Waiting (tBreak hm ctl).s (tBreak hm ctl) :=
  { view := rfl, real := rfl, untraced := rfl, noCheck := rfl, noExit := rfl, noLoop := rfl, noJoin := rfl, running := rfl }
theorem plain_tBreak (hm : Bool) (ctl : BitVec 64) : Plain (tBreak hm ctl).s (tBreak hm ctl) :=
  { issuer := rfl, real := rfl, untraced := rfl, noCheck := rfl, noExit := rfl, noRegion := rfl, noLoop := rfl, noJoin := rfl }
/-- In an open replay region. -/
def tRegion : Th := th id (fun _ w => w) (fun c => { c with region := some { rcb := 0x100000000, cmp := false, counts := [] } }) id

theorem test_DebugInstructionResult_applies : Unarmed tU ∧ Handles tU ∧
    Runs tU.s tU (.mark (hf 0 0 0 0 5)) (hf 0 0 0 0 5) .c 1 ∧
    (∀ x ∈ [(false, 0), (true, 0), (false, 1)], let t := tBreak x.1 x.2
      Runs t.s t (.brkpt (hf 0 0 0 0 7)) (hf 0 0 0 0 7) .c 1 ∧ t.w.hmode = x.1 ∧ t.s.ctxReg t.w.pasid 0x163 = x.2 ∧
      t.p.wait = .none ∧ t.p.held = none ∧ Waiting t.s t ∧ ibpHit t = some 0) ∧ Handles (tBreak false 0) ∧
    (let f := hf 0 0 1 0 0
     Runs tU.s tU (.snap f) f .c 1 ∧ InScratch tU { f with scls := 2, hi := 0x00F00000 }
       { op := 0xEC, c := true, n := 64, align := 64, nd := { w := true } } false 1 scr (fun _ => 0)) ∧
    (Runs tU.s tU (.rplbeginRec (hf 0 0 1 0 0)) (hf 0 0 1 0 0) .c 1 ∧ Runs tU.s tU (.rplbeginCmp (hf 1 0 1 0 0)) (hf 1 0 1 0 0) .c 1 ∧
      bad (tU.sreg 1) = false ∧ sound (tU.sreg 1) = true ∧ (tU.sreg 1).v.toNat % 4096 = 0 ∧ tU.w.paths = [tU.p]) ∧
    Runs tU.s tU (.rplend (hf 0 0 0 0 0)) (hf 0 0 0 0 0) .c 1 ∧
    (let t := tRegion
     t.s.issuer = some t ∧ t.s.badPa = none ∧ t.w.mcheck = [] ∧ (t.crew.bind (·.region)).isSome = true ∧ t.w.paths = [t.p] ∧
      fieldErr t.lim (.rplend (hf 0 0 0 0 0)) = none ∧ guardOf t .c (hf 0 0 0 0 0) = .ok 0xFFFFFFFFFFFFFFFF) := by
  refine ⟨rfl, handles_tU, runs plain_tU (by decide), fun x hx => ⟨runs (plain_tBreak _ _) (by (simp only [List.mem_cons, List.not_mem_nil, or_false] at hx; rcases hx with rfl | rfl | rfl <;> decide)), rfl,
      by (simp only [List.mem_cons, List.not_mem_nil, or_false] at hx; rcases hx with rfl | rfl | rfl <;> decide), rfl, rfl, waiting_tBreak _ _, by (simp only [List.mem_cons, List.not_mem_nil, or_false] at hx; rcases hx with rfl | rfl | rfl <;> decide)⟩, by unfold Handles; decide,
    ⟨runs plain_tU (by decide), inScratch rfl rfl (by decide)⟩,
    ⟨runs plain_tU (by decide), runs plain_tU (by decide), by decide, by decide, by decide, rfl⟩, runs plain_tU (by decide),
    rfl, rfl, rfl, by decide, rfl, by decide, rfl⟩

theorem test_ReplayRegionResult_applies :
    (∃ k, let t := tWait (.rplbegin 0x100000000 false) id
      Waiting t.s t ∧ Sole t.s t ∧ RecordAt t.s t 0x100000000 k k.scr 0 ∧ k.region = none) ∧
    (let t : Th := { tRegion with p := { tRegion.p with wait := .rplend } }
     ∃ k u, t.commit.view 0 0 = some u ∧ Waiting t.commit u ∧ Sole t.commit u ∧ RecordAt t.commit u 0x100000000 k k.scr 0 ∧
      u.p.wait = .rplend ∧ k.region = some { rcb := 0x100000000, cmp := false, counts := [] } ∧
      fld (BitVec.ofNat 64 (k.scr.nat 16 8)) 31 16 = 0 ∧ (BitVec.ofNat 64 (k.scr.nat 16 8)).getLsbD 32 = false) :=
  ⟨⟨placedCrew 0, waiting_tU _, ⟨rfl, rfl, rfl⟩, ⟨rfl, rfl, by decide, by decide, by decide, by decide⟩, rfl⟩,
    _, _, rfl, ⟨rfl, rfl, rfl, rfl, rfl, rfl, rfl, rfl⟩, ⟨rfl, rfl, rfl⟩,
    ⟨rfl, rfl, by decide, by decide, by decide, by decide⟩, rfl, rfl, by decide, by decide⟩

/-- The trace buffer of core 0 is the first 512 bytes of the die scratch of context 0, which stands at 6 GiB. -/
def sTrace : State :=
  ((State.reset.setCtxReg 0 0x112 0x180000006).setDbgReg 0 0 0x160 0x180000000).setDbgReg 0 0 0x161 0x40100

theorem dscSize_half {s : State} (h : fld (s.ctxReg 0 0x112) 1 0 = 2) : 128 ≤ dscSize s 0 0 := by
  have m : 384 ≤ dieMib 0 := by unfold dieMib; split <;> omega
  have e : dscSize s 0 0 = dieMib 0 * 2 ^ 20 / 2 := by simp only [dscSize, h]
  omega

theorem test_SampleAndLatencyResult_applies_to_samples : sTrace.badPa = none ∧ sTrace.pkg.issued = [] ∧
    (let ctl := sTrace.dbgReg 0 0 0x161
     ctl.getLsbD 8 = true ∧ ctl.getLsbD 31 = false ∧ fld ctl 20 16 = 4 ∧
     ∀ q < 4, aperture sTrace 0 (BitVec.ofNat 64 (fld (sTrace.dbgReg 0 0 0x160) 63 12 * 4096 +
         32 * ((fld ctl 63 32 + q) % 2 ^ fld ctl 20 16))) = some (2, 32 * q) ∧ 32 * q + 32 ≤ dscSize sTrace 0 0) := by
  have h : 128 ≤ dscSize sTrace 0 0 := dscSize_half (by decide +kernel)
  have place : ∀ q < 4, aperture sTrace 0 (BitVec.ofNat 64 (fld (sTrace.dbgReg 0 0 0x160) 63 12 * 4096 +
      32 * ((fld (sTrace.dbgReg 0 0 0x161) 63 32 + q) % 2 ^ fld (sTrace.dbgReg 0 0 0x161) 20 16))) = some (2, 32 * q) := by decide +kernel
  exact ⟨rfl, rfl, by decide +kernel, by decide +kernel, by decide +kernel, fun q hq => ⟨place q hq, by omega⟩⟩

theorem test_SampleAndLatencyResult_applies : State.reset.badPa = none ∧
    (State.reset.setDbgReg 0 0 0x161 0).dbgReg 0 0 0x161 = 0 ∧
    (State.reset.setDbgReg 0 0 0x161 0x80040100).dbgReg 0 0 0x161 = 0x80040100 ∧
    (State.reset.setDbgReg 0 0 0x178 0x8000000000000000).dbgReg 0 0 0x178 = 0x8000000000000000 :=
  ⟨rfl, rfl, rfl, rfl⟩

/-! ## Hypotheses of the statements about the engines and the matrix engine -/

/-- Channel 1 of the crew is bound. -/
def tChan (c : Chan) : Th := th id (fun _ w => w) (fun k => { k with chans := [(1, c)] }) id
theorem plain_tChan (c : Chan) : Plain (tChan c).s (tChan c) :=
  { issuer := rfl, real := rfl, untraced := rfl, noCheck := rfl, noExit := rfl, noRegion := rfl, noLoop := rfl, noJoin := rfl }

/-- A fill of one element of FP32, with its object at 40H. -/
def aFill : EngOp :=
  { h := 7, kind := 0xC4, coll := 0, core := 0, wk := 0, ident := 1, pasid := 0, crew := 0, ia := 0, hm := false, src := [],
    dst := [mkW 0x80, mkW 1, mkW 0x71, mkW 1], srcQ := 0, dstQ := 0, srcIx := [], dstIx := [], crowd := [], opnd := 0x3F800000, obj := some 0x40, arr := true, ascl := false,
    rm := 0, sat := false, nf := 1, ki := none, ko := none, firing := 0, landed := false, counts := [], left := 4, scales := [], vals := [],
    subs := [], stall := none, late := none, stop := none }
/-- The core holds `o`, and the crew an object that awaits four bytes and an arrival. -/
def tOp (o : EngOp) : Th := th id (fun _ w => w)
  (fun c => { c with scr := c.scr.putWords 16 [mkW 4, mkW 0x10000], chans := [(1, aChan)] }) fun s => { s with ops := [o] }
theorem plain_tOp (o : EngOp) : Plain (tOp o).s (tOp o) :=
  { issuer := rfl, real := rfl, untraced := rfl, noCheck := rfl, noExit := rfl, noRegion := rfl, noLoop := rfl, noJoin := rfl }

/-- Sixty-four operations of the core. -/
def tBusy : Th := th id (fun _ w => w) id fun s => { s with ops := List.replicate 64 aFill }
theorem plain_tBusy : Plain tBusy.s tBusy :=
  { issuer := rfl, real := rfl, untraced := rfl, noCheck := rfl, noExit := rfl, noRegion := rfl, noLoop := rfl, noJoin := rfl }

/-- The fields of an engine instruction of opcode `k`, with the object that S[dst] names. -/
def ef (k dst hi : Nat) : Fields :=
  { cf 0 dst (if k = 0xC4 then 0 else 2) 6 (if k < 0xC3 then 0 else 2) 0 with hi := BitVec.ofNat 32 hi }

/-- Without an object and channels; and with an object, and channels where the instruction takes both. -/
def engineCases (k : Nat) : List (Nat × Nat) := [(0, 0), (1, if k < 0xC4 then 0x10861 else 0x10000)]

theorem test_EngineAcceptance_applies_busy : ∀ r ∈ engineForms,
    Runs tBusy.s tBusy (r.1 (ef r.2 1 0)) (ef r.2 1 0) .c 1 ∧ 64 ≤ (tBusy.s.ops.filter fun o => o.core == tBusy.w.coreN).length :=
  fun r hr => ⟨runs plain_tBusy (by revert r; decide), Nat.le_of_eq rfl⟩

theorem test_EngineAcceptance_applies_unbound : ∀ r ∈ engineForms.take 4,
    Runs tU.s tU (r.1 (ef r.2 1 0x21)) (ef r.2 1 0x21) .c 1 ∧ tU.s.chan tU.w.crew (fld (ef r.2 1 0x21).hi 4 0) = none ∧
      tU.s.ops = [] ∧ Unarmed tU ∧ Handles tU :=
  fun r hr => ⟨runs plain_tU (by revert r; decide), by revert r; decide, rfl, rfl, handles_tU⟩

theorem engine_sources : ∀ r ∈ engineForms, ∀ x ∈ engineCases r.2, let f := ef r.2 x.1 x.2; let t := tChan aChan
    (f.hi.getLsbD 5 = true → fld f.hi 4 0 = 1) ∧ (f.hi.getLsbD 11 = true → fld f.hi 10 6 = 1) ∧
    bad (t.sreg f.dst.toNat) = false ∧ bad (t.sreg f.sc.toNat) = false ∧
    (f.dst ≠ 0 → aperture t.s t.w.pasid (t.sreg f.dst.toNat).v = some (0, 0) ∧ 32 ≤ 65536 ∧
      (t.sreg f.dst.toNat).v.toNat % 32 = 0) ∧
    ([t.srcS 64 f.dst.toNat 0, t.srcS 64 f.sc.toNat 3] ++ recordWords t r.2 f).all (·.ok) = true ∧
    (recordWords t r.2 f).any (·.bad) = false := by decide

theorem test_EngineAcceptance_applies : ∀ r ∈ engineForms, ∀ x ∈ engineCases r.2, ∃ k, let f := ef r.2 x.1 x.2; let t := tChan aChan
    Runs t.s t (r.1 f) f .c 1 ∧ Unarmed t ∧ t.s.crews.filter (fun c => c.h == t.w.crew) = [k] ∧ t.s.ops = [] ∧
    (f.hi.getLsbD 5 = true → ∃ c, t.s.chan t.w.crew (fld f.hi 4 0) = some c ∧ c.cAdv = false) ∧
    (f.hi.getLsbD 11 = true → ∃ c, t.s.chan t.w.crew (fld f.hi 10 6) = some c ∧ c.pAdv = false) ∧
    bad (t.sreg f.dst.toNat) = false ∧ bad (t.sreg f.sc.toNat) = false ∧
    (f.dst ≠ 0 → aperture t.s t.w.pasid (t.sreg f.dst.toNat).v = some (0, 0) ∧ 32 ≤ k.scrSize ∧
      (t.sreg f.dst.toNat).v.toNat % 32 = 0) ∧
    Sound ([t.srcS 64 f.dst.toNat 0, t.srcS 64 f.sc.toNat 3] ++ recordWords t r.2 f) ∧
    (recordWords t r.2 f).any (·.bad) = false ∧ t.s.ptime.toNat < 2 ^ 63 ∧ ∀ c, (sget 0 t.s.courier c).toNat < 2 ^ 63 := by
  intro r hr x hx
  obtain ⟨h1, h2, h3, h4, h5, h6, h7⟩ := engine_sources r hr x hx
  exact ⟨_, runs (plain_tChan _) (by revert r x; decide), rfl, rfl, rfl, fun y => ⟨aChan, by rw [h1 y]; rfl, rfl⟩,
    fun y => ⟨aChan, by rw [h2 y]; rfl, rfl⟩, h3, h4, h5, sound_of h6, h7, Nat.two_pow_pos 63, fun _ => Nat.two_pow_pos 63⟩

/-- The scratchpad holds, at 0, the record of a channel of four slots. -/
def tRec : Th := th id (fun _ w => w) (fun c => { c with scr := c.scr.putWords 0 [mkW 64, mkW 64, mkW 0x10004] }) id
theorem plain_tRec : Plain tRec.s tRec :=
  { issuer := rfl, real := rfl, untraced := rfl, noCheck := rfl, noExit := rfl, noRegion := rfl, noLoop := rfl, noJoin := rfl }

theorem test_ChannelResult_applies : Unarmed tU ∧ Unarmed (tChan aChan) ∧ Handles (tChan aChan) ∧
    (Runs tU.s tU (.chbind (hf 0 0 0 0 0x21)) (hf 0 0 0 0 0x21) .c 1 ∧ tU.s.crews.filter (fun c => c.h == tU.w.crew) = [placedCrew 0] ∧
      tU.s.holders tU.w.crew 1 true = [] ∧ tU.s.holders tU.w.crew 1 false = []) ∧
    (∃ k, let f := hf 0 0 0 1 0x21
      Runs tRec.s tRec (.chbind f) f .c 1 ∧ tRec.s.crews.filter (fun c => c.h == tRec.w.crew) = [k] ∧
      bad (tRec.sreg 1) = false ∧ sound (tRec.sreg 1) = true ∧ aperture tRec.s tRec.w.pasid (tRec.sreg 1).v = some (0, 0) ∧
      (tRec.sreg 1).v.toNat % 32 = 0 ∧ (∀ i < 4, bad (k.scr.word i) = false ∧ sound (k.scr.word i) = true) ∧
      (let w0 := objWord k.scr 0 0
       let w1 := objWord k.scr 0 1
       fld w0 63 52 = 0 ∧ fld w1 63 24 = 0 ∧ fld w0 51 32 = 64 ∧ fld w0 31 0 = 64 ∧ fld w1 23 16 = 1 ∧ fld w1 15 0 = 4 ∧
       64 + 4 * 64 ≤ k.scrSize)) ∧
    (∃ k, let t := tChan aChan
      t.s.crews.filter (fun c => c.h == t.w.crew) = [k] ∧ t.s.chan t.w.crew 1 = some aChan ∧ aChan.scount = 4 ∧
      fld aChan.prod 15 0 = 2 ∧ fld aChan.cons 15 0 = 0 ∧ aChan.room = 2 ∧ aChan.occ = 2 ∧
      (∀ n ∈ [2, 3], let f := hf 0 0 0 0 (n * 65536 + 0x21)
        fld f.hi 31 16 = n ∧ fld f.hi 4 0 = 1 ∧ Runs t.s t (.chput f) f .c 1 ∧ Runs t.s t (.chtake f) f .c 1 ∧
        Runs t.s t (.chwaitData f) f .c 1 ∧ Runs t.s t (.chwaitRoom { f with sub := 1 }) { f with sub := 1 } .c 1) ∧
      Runs t.s t (.xstat (hf 4 4 0 0 0x21)) (hf 4 4 0 0 0x21) .c 1 ∧ Runs t.s t (.xstat (hf 5 4 0 0 0)) (hf 5 4 0 0 0) .c 1 ∧
      t.splitWrite 4 = false) ∧
    (let f := hf 1 1 0 0 0
     Runs tU.s tU (.xstat f) f .c 1 ∧ tU.splitWrite 1 = false ∧
       InScratch tU { f with sa := f.dst, scls := 2, hi := 0x00F00000 } (objAcc 0xCA { r := true }) false 1 scr (fun _ => 0)) := by
  refine ⟨rfl, rfl, by unfold Handles; decide, ⟨runs plain_tU (by decide), rfl, rfl, rfl⟩,
    ⟨_, runs plain_tRec (by decide), rfl, by decide, by decide, by decide, by decide, by decide, by decide⟩,
    ⟨_, rfl, rfl, rfl, by decide, by decide, by decide, by decide, fun n hn => ⟨by revert n; decide, by revert n; decide,
      runs (plain_tChan _) (by revert n; decide), runs (plain_tChan _) (by revert n; decide),
      runs (plain_tChan _) (by revert n; decide), runs (plain_tChan _) (by revert n; decide)⟩, runs (plain_tChan _) (by decide),
      runs (plain_tChan _) (by decide), rfl⟩,
    runs plain_tU (by decide), rfl, inScratch rfl rfl (by decide)⟩

theorem opAt_tOp (o : EngOp) (h : o.crew = 0) (hh : o.h = 7) : ∃ k, OpAt (tOp o).s 7 o k k.scr ∧ k.scrSize = 65536 ∧
    CleanObject k.scr 0x40 ∧ objWord k.scr 0x40 0 = 0x1000000000004 ∧ objWord k.scr 0x40 1 = 0 ∧ slook k.chans 1 = some aChan := by
  obtain ⟨h', kind, coll, core, wk, ident, pasid, crew, ia, hm, src, dst, srcQ, dstQ, srcIx, dstIx, crowd, opnd, obj, arr, ascl, rm, sat, nf, ki, ko, firing,
    landed, counts, left, scales, vals, subs, stall, late, stop⟩ := o
  subst h hh
  exact ⟨_, ⟨rfl, rfl, rfl, by decide, rfl, rfl, rfl, rfl⟩, rfl, by unfold CleanObject; decide, by decide, by decide, rfl⟩

theorem test_EngineOperationResult_applies :
    (FillsOne aFill ∧ aFill.ko = none ∧ aperture (tOp aFill).s 0 aFill.dstShape.base = some (0, 0x80) ∧
      aFill.dstShape.base.toNat % 4 = 0) ∧
    (let o := { aFill with ko := some 1, dst := [mkW 0, mkW 0, mkW 0x71, mkW 1] }
     let s := (tOp o).s
     FillsOne o ∧ aChan.fire ≤ aChan.room ∧ (s.holders o.crew 1 true).head?.map (·.h) = some 7 ∧
      (let base := o.dstShape.base + BitVec.ofNat 64 ((s.ctxReg o.pasid 0x110).toNat / 2 ^ 30 * 2 ^ 30 + aChan.sbase + fld aChan.prod 15 0 * aChan.ssize)
       aperture s o.pasid base = some (0, 0xC0) ∧ base.toNat % 4 = 0) ∧ o.dstShape.base.toNat + 4 ≤ aChan.fire * aChan.ssize) ∧
    (4 : Nat) ≤ fld (0x1000000000004 : BitVec 64) 47 0 ∧ fld (0x1000000000004 : BitVec 64) 63 48 ≠ 0 := by
  unfold FillsOne; decide

theorem test_EngineStopResult_applies : let o := { aFill with stop := some 3 }
    o.h = 7 ∧ o.crew = 0 ∧ o.stop = some 3 ∧ o.kind ≠ 0xC5 ∧ o.obj = some 0x40 ∧ o.left = 4 ∧ o.arr = true := by decide

/-- A filling pass of tile 0. -/
def aPass : Pass :=
  { quad := 0, wk := 0, eid := 0, ia := 0, tile := 0, tiles := 1, oct := 0, last := true, ta := 10, tb := 10, sh := 0,
    a := List.replicate 128 (zw 32), ascl := [], b := List.replicate 1024 (zw 32), bscl := [] }
def mmaF : Fields := { cf 0 4 0 16 0 10 with hi := BitVec.ofNat 32 (1 + 10 * 1024) }
/-- The quad's buffer holds 8 half-tokens. -/
def tTok : Th := th id (fun _ w => w) id fun s => s.setQbuf 0 8
theorem plain_tTok : Plain tTok.s tTok :=
  { issuer := rfl, real := rfl, untraced := rfl, noCheck := rfl, noExit := rfl, noRegion := rfl, noLoop := rfl, noJoin := rfl }

theorem test_MmaResult_applies : xAkind mmaF = false ∧ xBkind mmaF = false ∧
    (Runs tU.s tU (.mma mmaF) mmaF .c 1 ∧ tU.s.qbuf tU.w.quadN < (tilesOf mmaF).length * passTokens 10 (xBty mmaF).toNat) ∧
    (Runs tTok.s tTok (.mma mmaF) mmaF .c 1 ∧ (tilesOf mmaF).length * passTokens 10 (xBty mmaF).toNat ≤ tTok.s.qbuf tTok.w.quadN ∧
      Unarmed tTok ∧ ∀ L < 64, ∀ w < 16, sound (tTok.vreg (0 + w) L) = true ∧ sound (tTok.vreg (16 + w) L) = true) :=
  ⟨rfl, rfl, ⟨runs plain_tU (by decide), by decide⟩, runs plain_tTok (by decide), by decide, rfl, fun _ _ _ _ => ⟨rfl, rfl⟩⟩

theorem test_MatrixPassResult_applies : ∃ w, let s := { tU.s with passes := [aPass] }
    s.passes = aPass :: [] ∧ s.badPa = none ∧ s.wave aPass.wk = some w ∧ (w.tile aPass.tile).elem 0 0 = elemZero ∧ elemZero.res = res elemZero.e.toNat ∧
      ∀ x ∈ (aPass.aRow 0).zip (aPass.bCol 0), specOf ((x.1.mul x.2).scale aPass.sh.toInt) = 0 :=
  ⟨_, rfl, rfl, rfl, rfl, by decide, by decide⟩

theorem test_TileInstructionResult_applies : Unarmed tU ∧ Settled' tU.s tU ∧ tU.splitWrite 2 = false ∧
    Runs tU.s tU (.mzero (hf 0 4 0 0 3)) (hf 0 4 0 0 3) .c 1 ∧
    (∀ sub ∈ [0, 1], let f := { hf sub 4 0 0 1 with ty := 11 }
      Runs tU.s tU (.mdrain f) f .c 1 ∧ xAkind f = false ∧ f.rm.toNat < 5 ∧ (tilesOf f).map (·.2) = [4]) ∧ Whole (tU.w.tile 4) ∧
    (let f := { hf 0 4 0 0 1 with ty := 11 }
     Runs tU.s tU (.mload f) f .c 1 ∧ xAkind f = false ∧ f.sub = 0 ∧
      ∀ i < 64, ∀ L < 64, (tU.srcV 32 (0 + i) L 1).ok = true ∧ (tU.srcV 16 (0 + i) L 1).ok = true) ∧
    Runs tU.s tU (.mstatTile (hf 0 4 2 0 0)) (hf 0 4 2 0 0) .c 1 ∧ Runs tU.s tU (.mstatCnt (hf 1 0 2 0 0)) (hf 1 0 2 0 0) .c 1 ∧
    (Runs tU.s tU (.mtoken (hf 0 0 0 0 5)) (hf 0 0 0 0 5) .c 1 ∧ tU.s.qbuf tU.w.quadN < fld (hf 0 0 0 0 5).hi 7 0) ∧
    (Runs tTok.s tTok (.mtoken (hf 0 0 0 0 8)) (hf 0 0 0 0 8) .c 1 ∧ fld (hf 0 0 0 0 8).hi 7 0 ≤ tTok.s.qbuf tTok.w.quadN) :=
  ⟨rfl, by unfold Settled'; decide, rfl, runs plain_tU (by decide),
    fun sub hs => ⟨runs plain_tU (by revert sub; decide), by revert sub; decide, by revert sub; decide, by revert sub; decide⟩,
    by unfold Whole; exact ⟨rfl, by rfl⟩, ⟨runs plain_tU (by decide), rfl, rfl, fun _ _ _ _ => ⟨rfl, rfl⟩⟩, runs plain_tU (by decide),
    runs plain_tU (by decide), ⟨runs plain_tU (by decide), by decide⟩, runs plain_tTok (by decide), by decide⟩

/-! ## Hypotheses of the statements about events -/

/-- Translation tables at physical address 0: the 1-GiB page that holds the path's slot lies at 1 GiB. -/
def mapped (s : State) : State :=
  let m := (s.ms.phys.putWords 0 [mkW 1]).putWords 128 [mkW 0x400000DF]
  { s.setCtxReg 0 0x120 0xC with ms := { s.ms with phys := m } }
def tMap : Th := th id (fun _ w => w) id mapped
/-- Is a fetched line delivered? -/
def delivered : Fetched → Option (Th × BitVec 512)
  | .ok u d => some (u, d)
  | _ => none
theorem delivered_ok {x : Fetched} (h : (delivered x).isSome = true) : ∃ u d, x = .ok u d := by
  cases x <;> simp [delivered] at h ⊢

theorem test_IssueAndFetchResult_applies : State.reset.badPa = none ∧ tU.s.sel ≠ none ∧
    (let s := { tMap.s with sel := none }
     s.view 0 0 = some { tMap with s := s } ∧ ((offered s tMap.w).any fun p => p.eid == 0) = true ∧ lineHere tMap.p = false ∧
       targetHigh tMap = none ∧ ∃ u d, fetchLine { tMap with s := s } = .ok u d) ∧
    (let t := tArm .waiting
     ∃ u, t.s.view 0 1 = some u ∧ ((offered t.s u.w).any fun p => p.eid == 1) = false) ∧
    ((offered tTwo.s tTwo.w).any fun p => p.eid == 0) = true ∧ lineHere tTwo.p = true ∧ (fetchAhead tTwo).badPa = none := by
  refine ⟨rfl, by decide, ⟨rfl, rfl, rfl, rfl, delivered_ok (by decide +kernel)⟩, ⟨_, rfl, by decide⟩, rfl, rfl, ?_⟩
  rw [fetchAhead, show aheadLines tTwo = [BitVec.ofNat 64 (tTwo.p.pia.toNat / 64 * 64 + 64)] from rfl, List.length_singleton, Nat.mod_one]
  rfl

/-- A park of the wave's path, with index 0. -/
def aPark : Park :=
  { h := 3, fn := 0, idx := some 0, who := .path 0 0, pasid := 0, crew := 0, cause := 0x25, cinfo := 1, lanes := 1, addr := 0x2000,
    low := 0x2000, kind := 0, write := false, hint := 0, gen := 0, pages := [2], t0 := 0, dead := false, denied := false }
def tPark (k : Park) (t : Nat) : Th := th (fun p => { p with st := .parked, park := some 3 }) (fun _ w => w) (fun c => { c with idem := true })
  fun s => { s.setCtxReg 0 0x132 1 with parks := [k], ptime := BitVec.ofNat 64 t, sel := none }

theorem test_PageServiceResult_applies :
    (∀ d ∈ [false, true], (tPark { aPark with dead := d } 0).s.parkAt 0 0 = some { aPark with dead := d } ∧
      (tPark { aPark with dead := d } 0).s.badPa = none) ∧
    (∃ c, let s := { (tPark aPark 0).s with crews := [{ placedCrew 0 with st := .saving }] }
     s.parkAt 0 0 = some aPark ∧ s.crew aPark.crew = some c ∧ c.st = .saving ∧ s.badPa = none) ∧
    (∀ c, (tPark aPark 0).s.crew aPark.crew = some c → c.st ≠ .saving) ∧
    (tPark aPark 0).s.view 0 0 = some (tPark aPark 0) ∧ (tPark aPark 0).s.dbg = [] ∧ Handles (tPark aPark 0) ∧
    (tPark aPark 0).s.parks.filter (fun x => x.fn == 0) = [aPark] ∧ (tPark aPark 0).s.parkAt 0 1 = none ∧
    (let k := { aPark with idx := none }
     let s := (tPark k 0).s
     s.parks.find? (fun k => k.fn == 0 && k.idx.isNone && !k.dead && !k.denied) = some k ∧ freePark s 0 = some 0 ∧
       physOk (fld (s.fnReg 0 0x18) 63 14 * 2 ^ 14 + 32 * 0) = true) ∧
    (∀ n ∈ [0, 1000], ∃ c, let t := tPark aPark n
      t.s.view 0 0 = some t ∧ t.s.crew t.w.crew = some c ∧ c.h = t.w.crew ∧ fld (t.s.ctxReg t.w.pasid 0x132) 31 0 * 1000 = 1000 ∧
      (t.p.park.bind fun h => t.s.parks.find? fun k => k.h == h) = some aPark ∧ (t.s.ptime - aPark.t0).toNat = n ∧
      c.idem = true ∧ c.st = .resident ∧ c.requeues < 4 ∧ t.p.st = .parked ∧ Silent t.s c.fn ∧ t.s.ops = []) := by
  refine ⟨by decide, ⟨_, rfl, rfl, rfl, rfl⟩, fun c hc => by cases hc; decide, rfl, rfl, by unfold Handles; decide, rfl, rfl, ⟨rfl, by decide +kernel, by decide⟩, fun n hn => ⟨_, rfl, rfl, rfl, (by decide : fld (1 : BitVec 64) 31 0 * 1000 = 1000), rfl,
    by revert n; decide, rfl, rfl, by decide, rfl, rfl, rfl⟩⟩

/-- A LAUNCH node and a JOIN node, of route 3, whose replay runs. -/
def aNode : Node := { packet := 1, ctl := 0xFFFFFFFF0000 }
def joinNode (succ : Nat) : Node := { packet := 0, ctl := BitVec.ofNat 512 (0xFFFF00000102 + succ * 65536) }
def aReplay : Replay := { seq := 0, params := [], counts := [], ready := [0], running := [], begins := 0, failed := false }
def aRoute (cur : Option Replay) (nodes : List Node) : Route :=
  { fn := 0, num := 3, pasid := 0, rcompl := 0, patch := 0, maxBegin := 4, nodes := nodes, params := [], retiring := false, queue := [], cur := cur }
def sRoute (r : Route) : State := { State.reset with routes := [r] }

/-- The words `ws` at the start of the stack of lane 0, whose window stands at 5 GiB. -/
def onStack (s : State) (ws : List (RWord 32)) : State :=
  let m := (ws.zip (List.range 64)).foldl (fun m x => m.putWord (64 * x.2) x.1) s.ms.phys
  { (s.setCtxReg 0 0x111 0x140000004).setCtxReg 0 0x113 0x40 with ms := { s.ms with phys := m } }

/-- The table of routes stands at 64 KiB, and its entry 3 names an object of one node on the stack. -/
def sReg : State :=
  let s := onStack State.reset ([mkW 1, mkW 1] ++ List.replicate 14 (mkW 0) ++ [mkW 1] ++ List.replicate 15 (mkW 0) ++ [mkW 0xFFFF0000, mkW 0xFFFF])
  { s with ms := { s.ms with phys := s.ms.phys.putWords 16408 [mkW 0x40000000, mkW 1] } }.setFnReg 0 0x10 65536

/-- What a read gives. -/
def got (x : State × Except CpErr (List (RWord 32))) : Option (State × List (RWord 32)) :=
  match x with
  | (u, .ok l) => some (u, l)
  | _ => none
theorem got_eq {x : State × Except CpErr (List (RWord 32))} (h : (got x).isSome = true) : ∃ u l, x = (u, .ok l) := by
  obtain ⟨u, (e | l)⟩ := x
  · simp [got] at h
  · exact ⟨u, l, rfl⟩

/-- What a patch table gives. -/
def gotTable (x : State × Except MErr (Option (List (BitVec 64 × BitVec 64)))) : Option (Option (BitVec 64) × Option (List (BitVec 64 × BitVec 64))) :=
  match x with
  | (u, .ok l) => some (u.badPa.map (BitVec.ofNat 64), l)
  | _ => none

theorem test_RouteResult_applies_kicks :
    (let r := { aRoute none [aNode] with patch := 0x140000000 }
     let s := { onStack State.reset [] with routes := [r] }
     s.badPa = none ∧ s.route 0 (fld (3 : BitVec 64) 9 0) = some r ∧ r.fn = 0 ∧ r.num = 3 ∧
       gotTable (patchTable s r 3) = some (none, some []) ∧ r.queue.length < 9 ∧
       gotTable (patchTable s r 0x100000003) = some (none, none) ∧
       (let k : KickTry := { h := 0, fn := 0, value := 3, tries := 0, next := 0 }
        k.next.toNat ≤ s.ptime.toNat ∧ k.tries < 7 ∧ ({ s with tries := [k] } : State).cpWaits k.fn (.kick k.h) = false)) := by
  decide +kernel

theorem test_RouteResult_applies_registrations : sReg.badPa = none ∧ sReg.route 0 3 = none ∧ sReg.cpWaits 0 (.reg 3) = false ∧
    (sReg.physRead (65536 + 32 * 5) 8).map (fun e => word64 e 0) = some 0 ∧
    (sReg.physRead (65536 + 32 * 3) 8).map (fun e => (word64 e 0, word64 e 3)) = some (0x140000000, 0) ∧
    (got (sReg.cpRead 0 0 0x140000000 64)).map (fun x => (headerOk x.2, fld (word64 x.2 0) 15 0, fld (word64 x.2 0) 31 16, x.1.badPa)) =
      some (true, 1, 0, none) ∧
    (got (sReg.cpRead 0 0 0x140000040 128)).map (fun x => (aNode.ok 0 1, (routeOf 0 3 (List.replicate 8 (mkW 0))
      [mkW 1, mkW 1] x.2).map (·.nodes))) = some (true, some [aNode]) := by
  decide +kernel

theorem test_RouteResult_applies_replays :
    (let r := aRoute (some aReplay) [aNode]
     (sRoute r).route 0 3 = some r ∧ r.cur = some aReplay ∧ r.nodes[0]? = some aNode ∧ 0 ∈ aReplay.ready ∧
       (sRoute r).cpWaits 0 (.node 3 0) = false ∧ aReplay.begins + 1 ≤ r.maxBegin.toNat ∧ fld aNode.ctl 7 0 = 0 ∧
       ∀ w < 8, w ≠ 0 → fld aNode.packet (64 * w + 63) (64 * w + 60) ≠ 0xF) ∧
    (let r := aRoute (some aReplay) [joinNode 1, joinNode 0xFFFF]
     (sRoute r).route 0 3 = some r ∧ r.nodes[0]? = some (joinNode 1) ∧ fld (joinNode 1).ctl 7 0 = 2 ∧
       fld (joinNode 1).ctl 31 16 = 1 ∧ fld (joinNode 1).ctl 47 32 = 0xFFFF ∧ r.nodes[1]? = some (joinNode 0xFFFF) ∧
       r.nodes[0xFFFF]? = none ∧ fld (joinNode 0xFFFF).ctl 15 8 = 1) ∧
    (let k : Kick := { seq := 0, slot := 0, patches := [] }
     let r := { aRoute none [aNode] with queue := [k] }
     (sRoute r).route 0 3 = some r ∧ r.cur = none ∧ r.queue = [k] ∧ (sRoute r).regPend.contains (0, 3) = false) := by
  decide +kernel

/-- The error log stands at 2 MiB. -/
theorem test_RouteResult_applies_log : let s := State.reset.setFnReg 0 0x20 0x200000
    let log := (s.fnReg 0 0x20).toNat / 2 ^ 17 * 2 ^ 17
    log = 0x200000 ∧ physOk log = true ∧ isHost log = false ∧ fld (s.fnReg 0 0x28) 23 0 = 0 ∧ fld (s.fnReg 0 0x28) 47 24 = 0 ∧
      physOk (log + 128 * (0 % 1024)) = true ∧ State.reset.fnReg 0 0x20 = 0 := by
  decide

/-- A consignment of one crew whose header stands on the stack, with the packet's other words 0. -/
def aCons (st : ConsState) : Cons :=
  { h := 4, fn := 0, route := 9, node := 0, seq := 0, pasid := 0, packet := 0x14000000000000000000000010000000100010101,
    st := st, order := 0, hdr := 0, obs := [], total := 0, ended := 0, failed := false,
    unmet := [5, 6], reread := none }
def sCons (k : Cons) (v : List Cav) : State :=
  { onStack State.reset ([mkW 0x4B495301, mkW 0x100, mkW 0, mkW 0, mkW 64] ++ List.replicate 11 (mkW 0) ++ [mkW 192, mkW 0, mkW 0x10010]) with
    cons := [k], cavs := v, nextH := 9 }
/-- The header as it is read. -/
def aHdr : BitVec 1536 := 0x1001000000000000000C00000000000000000000000000000000000000000000000000000000000000000000000000000000000000000000000400000000000000000000001004B495301

theorem test_ConsignmentResult_applies_consignments :
    (let k := aCons .waiting
     (sCons k []).consOf 4 = some k ∧ (sCons k []).cpWaits 0 (.cons 4) = false ∧ (sCons k []).stop = false ∧ k.reread = none ∧
       ∀ i ∈ k.unmet, k.word i = 0) ∧
    (let k := { aCons .waiting with reread := some 0 }
     let s := { sCons k [] with stop := true }
     s.consOf 4 = some k ∧ s.stop = true ∧ k.reread ≠ none) ∧
    (let k := aCons .ready
     let s := sCons k []
     beginsNext s k = true ∧ (got (s.cpRead 0 0 k.code 192)).map (fun x => (BitVec.ofNat 1536 (natOf x.2), x.1.badPa)) = some (aHdr, none) ∧
       (let k' : Cons := { k with hdr := aHdr }
        headerErr k'.hdr k.crews = none ∧ packetOk k.packet = true ∧ fitsEmpty s k' = true ∧ k.packet.getLsbD 26 = false ∧
          fld k.packet 95 64 = 1)) ∧
    (let k := aCons .begun
     consDone (sCons k []) k = true ∧ (sCons k []).cpWaits k.fn (.compl k.h) = false ∧ k.compl = 0 ∧
       (sCons k []).route k.fn k.route = none ∧ consDone (sCons (aCons .ready) []) (aCons .ready) = false) ∧
    (∀ more ∈ [[], [1]], let k := { aCons .begun with route := 3 }
     let rp := { aReplay with ready := [], running := 0 :: more }
     let r := aRoute (some rp) [aNode]
     let s := { sCons k [] with routes := [r] }
     let rp' := aNode.succs.foldl (·.arrive r.nodes ·) { rp with running := more }
     s.route k.fn k.route = some r ∧ r.nodes[k.node]? = some aNode ∧ rp.running.erase k.node = more ∧ rp'.ready = [] ∧ rp'.running = more ∧
       r.rcompl = 0 ∧ r.retiring = false ∧ s.cpWaits k.fn (.rcompl k.route) = false) := by
  decide +kernel

/-- One place that an access resolves to. -/
def gotLoc (x : State × Except MErr (List Loc)) : Option (State × Loc) :=
  match x with
  | (v, .ok [l]) => some (v, l)
  | _ => none
/-- It has run, with COMPL in the page that is mapped. -/
def doneCons : Cons := { aCons .begun with packet := (aCons .begun).packet ||| (0x1000000040 <<< 256) }
def sArrives : State := { mapped State.reset with cons := [doneCons] }

theorem test_ConsignmentResult_applies_arrivals : doneCons.compl = 0x1000000040 ∧ consDone sArrives doneCons = true ∧
    sArrives.cpWaits 0 (.compl 4) = false ∧
    ((gotLoc (resolve sArrives (cpAgent sArrives 0 0) { noStk := true, noDsc := true } { r := true, w := true, a := true } 32
      [(0, 0x1000000040)] 4900)).bind fun y =>
        (y.1.updObj (cpAgent sArrives 0 0) y.2 (·.lower 0xFFFF 0 true 0)).map fun o => o.rereadAll.badPa) = some none := by
  decide +kernel

/-- A caravan of it. -/
def aCav (st : CavState) (head held : Option (BitVec 64)) : Cav := { h := 5, cons := 4, carav := 0, st := st, head := head, held := held }
/-- Its consignment begun, and package time. -/
def sCav (v : Cav) (t : Nat) : State :=
  { sCons { aCons .begun with hdr := aHdr, total := 1 } [v] with ptime := BitVec.ofNat 64 t }
/-- A resident crew of lower priority, and one save record of the context. -/
def sHeld : State :=
  let k : Cons := { aCons .begun with packet := 0x100010201, hdr := 0x1000000000000000000000 }
  let s := (sCav (aCav .queued (some 0) (some 0)) 50000).setCtxReg 0 0x151 1
  { s with cons := [k, { aCons .begun with h := 6, packet := 1 }], crews := [{ placedCrew 7 with cons := 6, cav := 8 }] }

theorem test_ConsignmentResult_applies_caravans :
    (let v := aCav .queued (some 0) none
     let k : Cons := { aCons .begun with hdr := aHdr, total := 1 }
     (sCav v 0).cavs.find? (fun x => x.h == 5) = some v ∧ (sCav v 0).consOf v.cons = some k ∧ (nextCav (sCav v 0)).isSome = true ∧
       heldCav (sCav v 0) 0 = none ∧ (sCav v 0).ptime.toNat - 0 < 50000 ∧ 50000 ≤ (sCav v 50000).ptime.toNat - 0 ∧
       heldCav (sCav v 50000) 0 = none) ∧
    (∃ k, sHeld.consOf 4 = some k ∧ (sHeld.ptime - 0).toNat = 50000 ∧
       (placeCrews (launchSpec k.hdr) (usable sHeld k.fn k.packet) (useAfter sHeld) k.crews 0 []).isSome = false ∧
       victim sHeld k = some 7 ∧ sHeld.crew 7 = some { placedCrew 7 with cons := 6, cav := 8 } ∧ recordLeft sHeld 0 = true) ∧
    (let v := aCav (.starting 1000) none none
     (sCav v 999).cavs.find? (fun x => x.h == 5) = some v ∧ (sCav v 999).ptime.toNat < 1000 ∧ 1000 ≤ (sCav v 1000).ptime.toNat) ∧
    (∀ st ∈ [CrewState.placed, .restoring], let c := { placedCrew 7 with cons := 4, cav := 5, st := st, start := 1000 }
     let s := { sCav (aCav (.starting 1000) none none) 1000 with crews := [c] }
     c ∈ s.crews ∧ c.cav = 5 ∧ (c.st = .placed ∨ c.st = .restoring) ∧ c.start = 1000 ∧ ∀ x ∈ s.crews, x.abort = none) := by
  refine ⟨by decide +kernel, ⟨_, rfl, by decide +kernel⟩, by decide +kernel, by decide +kernel⟩


theorem test_PowerLimitResult_applies : State.reset.badPa = none ∧ State.reset.ptime.toNat / 1000 ≤ State.reset.pkg.refilled ∧
    State.reset.pkg.refilled < (1000 : BitVec 64).toNat / 1000 := by decide

theorem test_GovernorResult_applies : State.reset.pkg.refilled ≤ sget 0 State.reset.pkg.gov 0 ∧ State.reset.clock 0 = 2250 ∧
    (∃ live issued, issued ≠ 0 ∧ 3 * (64 * issued) ≤ 4 * live) ∧ (∃ live issued, issued ≠ 0 ∧ 2 * live < 64 * issued) ∧
    (∃ live issued, issued ≠ 0 ∧ 64 * issued ≤ 2 * live ∧ 4 * live < 3 * (64 * issued)) ∧
    (let s := { State.reset with pkg := { State.reset.pkg with refilled := 1, overs := 4 } }
     sget 0 s.pkg.gov 0 < s.pkg.refilled ∧ 4 ≤ s.pkg.overs) :=
  ⟨by decide, by decide, ⟨48, 1, by decide⟩, ⟨1, 1, by decide⟩, ⟨40, 1, by decide⟩, by decide⟩

/-- A requeued crew of the consignment. -/
def sCrew (st : CrewState) (n : Option Nat) : State :=
  { sCav (aCav .running none none) 1000 with crews := [{ placedCrew 7 with cons := 4, cav := 5, st := st, recNo := n }] }
/-- The crew's context has limits of 1 µs for a wave and for a crew. -/
def tLate : Th := th id (fun _ w => w) id fun s => { s.setCtxReg 0 0x152 0x100000001 with ptime := 1000 }

theorem test_RequeueAndWatchdogResult_applies :
    (∃ c, (sCrew .requeued none).crew 7 = some c ∧ c.eligible (sCrew .requeued none) = true ∧
      c.mayReturn (sCrew .requeued none) = true ∧
      (crewSpot (sCrew .requeued none) c).isSome = true) ∧
    (∃ c, tLate.s.badPa = none ∧ tLate.s.crew c.h = some c ∧ tLate.s.wave 0 = some tLate.w ∧ tLate.w.crew = c.h ∧ c.st = .resident ∧
      fld (tLate.s.ctxReg tLate.w.pasid 0x152) 31 0 = 1 ∧ fld (tLate.s.ctxReg c.pasid 0x152) 62 32 = 1 ∧ tLate.w.ended = false ∧ tLate.w.wdog.toNat + 1000 ≤ tLate.s.ptime.toNat ∧
      c.cwdog.toNat + 1000 ≤ tLate.s.ptime.toNat ∧ tLate.s.ops = [] ∧ tLate.s.dbg = [] ∧ ∀ fn, Silent tLate.s fn) := by
  exact ⟨⟨_, rfl, by decide +kernel, by decide +kernel, by decide +kernel⟩, placedCrew 0, rfl, rfl, rfl, rfl, rfl, by decide, by decide, rfl,
    by decide, by decide, rfl, rfl, fun _ => rfl⟩

/-- A save record is free. -/
def sPre (st : CrewState) (n : Option Nat) (r : BitVec 64) : State := ((sCrew st n).setCtxReg 0 0x151 1).setFnReg 0 0x40 r

theorem test_PreemptionResult_applies_commands : (sPre .resident none 0).badPa = none ∧
    (let r : BitVec 64 := 0x4000000000100000
     fld r 63 62 = 1 ∧ fld r 19 0 = 0 ∧ r.getLsbD 20 = true ∧ ((sPre .resident none r).fnReg 0 0x40 = r)) ∧
    (let r : BitVec 64 := 0x8090000000100000
     fld r 63 62 = 2 ∧ fld r 61 52 = 9 ∧ fld r 51 40 = 0 ∧ r.getLsbD 20 = true ∧ (sPre .resident none r).fnReg 0 0x40 = r) ∧
    (∃ c, let s := sPre .resident none 0
     s.crews.filter (fun c => c.fn == 0 && c.pasid == 0) = [c] ∧
     (s.crews.filter fun c => match s.consOf c.cons with | some k => k.fn == 0 && k.route == 9 && k.node == 0 | none => false) = [c] ∧
     c.fn = 0 ∧ s.crew c.h = some c ∧ c.st = .resident ∧ c.idem = false ∧ recordLeft s c.pasid = true ∧
       recordLeft (sCrew .resident none) c.pasid = false ∧ (∀ x ∈ s.crews, x.st ≠ .saving)) := by
  refine ⟨rfl, by decide, by decide, ⟨_, rfl, by rfl, rfl, rfl, rfl, rfl, by decide +kernel, by decide +kernel, by decide⟩⟩

theorem test_PreemptionResult_applies_crews :
    (∀ b ∈ [none, some ({ cls := 2, code := 0 } : LogRec)], ∃ c, let s := { sPre .saving none 0 with
        crews := [{ placedCrew 7 with cons := 4, cav := 5, st := .saving, abort := b }] }
     s.crew 7 = some c ∧ c.st = .saving ∧ c.abort = b ∧ freeRecord s c.pasid = some 0 ∧ drained s c = true ∧
       (saveCrew s c 0).badPa = none) ∧
    (∃ c, let s := sPre .saved (some 0) 0
     s.crew 7 = some c ∧ c.st = .saved ∧ c.recNo = some 0 ∧ s.crews = [c] ∧ c.mayReturn s = true ∧ c.eligible s = false ∧
       (crewSpot s c).map (fun y => (restoreCrew s c 0 y.1 y.2).badPa) = some none) :=
  ⟨fun b hb => by
      simp only [List.mem_cons, List.not_mem_nil, or_false] at hb
      rcases hb with rfl | rfl <;> exact ⟨_, rfl, rfl, rfl, by decide +kernel, by decide +kernel, by decide +kernel⟩,
    _, rfl, rfl, rfl, rfl, by decide +kernel, rfl, by decide +kernel⟩

/-- One store on its way, or two. -/
def sStore (l : List PStore) : State := { State.reset with ms := { State.reset.ms with stores := l } }

theorem test_StoreReachesHome_applies_on_the_way :
    (let p := { aStore with sid := 1 }
     (sStore [aStore, p]).findStore 1 = some p ∧ p.stage = .buffered ∧ p.remote = false ∧ (sStore [aStore, p]).storeWaits p = true) ∧
    (let p := { aStore with sid := 1, blk := 2 ^ 31, home := 1 }
     let q := { p with sid := 0 }
     p.stage = .buffered ∧ p.remote = true ∧ (sStore [p]).online p.home = true ∧ (sStore [q, p]).findStore 1 = some p ∧
       (sStore [q, p]).sendWaits p = true ∧ (sStore [p]).sendWaits p = false ∧ ∀ i < 16, p.maskAt i = 0 ∨ p.maskAt i = 15) ∧
    (let p := { aStore with blk := 2 ^ 31, home := 1, stage := .sent }
     (sStore [p]).findStore 0 = some p ∧ (sStore [p]).storeWaits p = false ∧ (sStore [p]).accepted p = true ∧
       (sStore [p]).online p.home = true ∧ isHost (64 * p.blk) = false) ∧
    (let p := { aStore with va := some 0, tag := 1 }
     (sStore [p]).storeWaits p = false ∧ (sStore [p]).accepted p = false ∧ ((sStore [p]).replayStore p).badPa = none) ∧
    (∀ die ∈ [0, 1], let p := { aStore with stage := .atHome, wait := 2, got := 2 }
     let s := { (sStore [p]) with ms := { (sStore [p]).ms with l1d := [{ core := 48 * die, blk := 0, data := Mem.empty.blk 0, pin := none, inv := true }] } }
     s.stale p.blk [die] = true ∧ (sStore [p]).stale p.blk [die] = false ∧ s.stale p.blk [p.home, p.core / 48] = (die == 0) ∧
       (sStore [p]).stale p.blk [p.home, p.core / 48] = false) := by
  decide +kernel

theorem test_StoreReachesHome_applies :
    (∀ rep ∈ [false, true], let p := { aStore with rep := rep }
     (sStore [p]).badPa = none ∧ (sStore [p]).findStore 0 = some p ∧ (sStore [p]).storeWaits p = false ∧ (sStore [p]).accepted p = true ∧
       p.remote = false ∧ (sStore [p]).online 0 = true ∧
       isHost (64 * p.blk) = false ∧ (∀ i < 16, p.maskAt i = 0 ∨ p.maskAt i = 15) ∧ (sStore [p]).replicas p.home ≠ 0) ∧
    (let p := { aStore with stage := .atHome, wait := 2 }
     p.wait.getLsbD 1 = true ∧ p.got.getLsbD 1 = false ∧ { p with got := 2 }.got.getLsbD 1 = true ∧ p.told = false) ∧
    (let p := { aStore with stage := .atHome, blk := 2 ^ 49 }
     isHost (64 * p.blk) = true ∧ p.part = 0) ∧
    (let p := { aStore with stage := .locking, rep := true, wait := 6 }
     (sStore [p]).locked 1 0 = false ∧ p.wait &&& ~~~(setBit p.got 1 true) ≠ 0 ∧ { p with wait := 2 }.wait &&& ~~~(setBit p.got 1 true) = 0 ∧
       { (sStore [p]) with ms := { (sStore [p]).ms with locks := [(1, 0)] } }.locked 1 0 = true) ∧
    (let p := { aStore with stage := .atHome, rep := true, wait := 2 }
     p.wait.getLsbD 1 = true ∧ p.blk / 2 ^ 31 = p.home) ∧
    (let p := { aStore with mask := 3, part := 1, stage := .atHome }
     p.maskAt 0 ≠ 0 ∧ p.maskAt 0 ≠ 15 ∧ p.part.getLsbD 0 = true ∧ (sStore [p]).fnReg 0 0x20 = 0 ∧ (sStore [p]).dbg = []) := by
  decide +kernel

/-- The block of memory that a prefetch reads. -/
def gotMem (x : State × Option (Option Loc)) : Option (Nat × Option Nat) :=
  match x with
  | (u, some (some (.mem _ _ m))) => some (m.blk, u.badPa)
  | _ => none

theorem test_CopiesResult_applies_to_prefetches : tMap.s.wave 0 = some tMap.w ∧
    (gotMem (prefetchLoc tMap.s { agentOf tMap.s 0 tMap.w 0 with hm := false } (0, 0x1000000040))).map
      (fun x => (physOk (64 * x.1), x.2)) = some (true, none) ∧
    (aperture tMap.s tMap.w.pasid 0x100000040).isSome = true := by
  decide +kernel

theorem test_CopiesResult_applies :
    (physOk (64 * 0) = true ∧ isHost (64 * 0) = false ∧ dieOf (64 * 0) ≠ 1 ∧ State.reset.online 1 = true ∧
      State.reset.online (dieOf (64 * 0)) = true) ∧
    (let t := tWait (.replica 0) id
     t.s.view 0 0 = some t ∧ aperture t.s t.w.pasid 0x200000000000000 = none ∧ t.s.sel ≠ none ∧
       (t.s.ptime - 0).toNat < 2000) ∧
    (let t := tWait (.replica 0) fun s => { s with sel := none, ptime := 2000 }
     t.s.view 0 0 = some t ∧ t.p.wait = .replica 0 ∧ 2000 ≤ (t.s.ptime - 0).toNat ∧ t.s.sel = none) ∧
    State.reset.wave 0 = none :=
  ⟨by decide, ⟨rfl, by decide, by decide, by decide⟩, ⟨rfl, rfl, by decide, rfl⟩, rfl⟩

theorem test_HbmResult_applies : inHbm 0 = true ∧ inHbm (2 ^ 49) = false ∧ State.reset.dbg = [] ∧
    (∀ i < 16, bad (State.reset.ms.phys.word i) = false ∧ sound (State.reset.ms.phys.word i) = true) ∧
    (let s := { State.reset with ms := { State.reset.ms with phys := State.reset.ms.phys.putWord 0 (mkP true 0) } }
     bad (s.ms.phys.word 0) = true ∧ s.fnReg 0 0x20 = 0) ∧
    symErrors [] = 0 ∧ symErrors [(0, 1)] = 1 ∧ symErrors [(0, 1), (1, 1)] = 2 ∧ corrects State.reset 0 = 1 ∧
    State.reset.pkg.banks = [] ∧ (State.reset.bank 0).count + 1 < fld (State.reset.pkgReg 0x108) 63 48 ∧ InWindow State.reset 0 ∧ (State.reset.bank 0).queued = false ∧
    (State.reset.setPkgReg 0x108 1).pkgReg 0x108 = 1 ∧ State.reset.stopped = false := by
  refine ⟨by decide, by decide, rfl, by decide, by decide, rfl, by decide, by decide, ?_, rfl, by decide, ?_, by decide, by decide, rfl⟩
  · unfold corrects; rfl
  · unfold InWindow; decide

theorem test_HostAccessResult_applies : let s := mapped State.reset
    let x := hostPlace s (hostAgent s 0 0) { w := true } 0x1000000040 0
    x.1.badPa = none ∧ x.1.ms.stores = [] ∧
    x.2.map (fun y => (y.1 % 64, y.2.rep, physOk (64 * y.2.home), isHost (64 * y.2.home), x.1.online y.2.hdie)) =
      some (0, false, true, false, true) ∧
    x.2.map (fun y => (List.range 16).all fun i => !bad ((x.1.served y.2).word i)) = some true ∧
    (hostPlace State.reset (hostAgent State.reset 0 0) { w := true } 0x1000000040 0).2 = none := by
  decide +kernel

theorem test_LehrResult_applies :
    (let n := fld (State.reset.pkgReg 0x108) 47 32 * 3600000000000
     n = 86400000000000 ∧ (State.reset.ptime - (State.reset.bank 0).since).toNat < n ∧
       n ≤ ((0xFFFFFFFFFFFF : BitVec 64) - (State.reset.bank 0).since).toNat) ∧
    (∀ st ∈ [BankState.pending 0, .normal, .strong, .converting 0, .converting 767],
      ((State.reset.putBank 3 { State.reset.bank 3 with st := st }).bank 3).st = st ∧
        ((State.reset.putBank 3 { State.reset.bank 3 with st := st }).bank 3).queued = false) ∧
    (State.reset.ptime - State.reset.pkg.stored).toNat < 10000000000 ∧ 10000000000 ≤ (10000000000 - State.reset.pkg.stored).toNat ∧
    (State.reset.pkg.gath.map (·.1)).Nodup ∧
    (let s := { sStore [aStore] with pkg := { State.reset.pkg with dies := [(0, .resetting 0)] } }
     s.findStore 0 = some aStore ∧ s.dieSt 0 = .resetting 0 ∧ s.fnReg (s.fnOfDie 0) 0x20 = 0 ∧
       s.ptime.toNat < max (0 : BitVec 64).toNat aStore.t0.toNat + 100000) := by
  refine ⟨by decide, by decide +kernel, by decide, by decide, List.nodup_nil, by decide +kernel⟩

theorem test_LinkResult_applies : State.reset.badPa = none ∧ (State.reset.link 0).up = true ∧ (State.reset.link 0).retries + 1 < 16 ∧
    (∀ fn < 8, (lost State.reset 0).cut fn = false) ∧
    (∀ fn < 8, (lost (State.reset.setFnReg 0 0x38 (BitVec.ofNat 64 (5 % 256 * 2 ^ 24 + 2 * 2 ^ 16 + 1))) 0).cut fn = false) ∧
    (let s := State.reset.putLink 0 { up := false, retries := 0 }
     (s.link 0).up = false) ∧
    (let s := State.reset.putLink 0 { up := true, retries := 15 }
     (s.link 0).up = true ∧ 15 ≤ (s.link 0).retries) := by
  decide +kernel

theorem test_LinkResult_applies_to_retraining : ∀ f, fld (State.reset.fnReg f 0x38) 3 0 ≠ 1 := by
  intro f
  have : State.reset.fnReg f 0x38 = 0 := rfl
  rw [this]; decide

theorem test_PortResult_applies : State.reset.dbg = [] ∧ (State.reset.pkgReg 0x200).getLsbD 0 = false ∧
    ((State.reset.setPkgReg 0x200 1).pkgReg 0x200).getLsbD 0 = true ∧
    (let p : Port := { streak := 15, times := List.replicate 256 0 }
     p.times.length = 256 ∧ p.times.getLast? = some 0 ∧ (State.reset.ptime - 0).toNat ≤ 1000 ∧ (State.reset.putPort 0 p).port 0 = p) := by
  decide +kernel

theorem test_PartialResetResult_applies : State.reset.badPa = none ∧ (State.reset.fn 0).rstq = [] ∧ State.reset.ops = [] ∧
    (let u := State.reset.setFnReg 0 0x38 (BitVec.ofNat 64 (5 % 256 * 2 ^ 24 + 3 * 2 ^ 16 + 1))
     carriesRoute u 0 1 = true) ∧
    (let s := State.reset.setPkgReg 0x100 3
     let s := { s with pkg := { s.pkg with size := 3 } }
     let u := s.setFnReg 0 0x38 (BitVec.ofNat 64 (5 % 256 * 2 ^ 24 + 3 * 2 ^ 16 + 1))
     carriesRoute u 0 0 = false ∧ (u.beginReset 0 0).badPa = none ∧ s.pkg.recovery = false ∧ (s.resetPartition 0).badPa = none) ∧
    (∀ st ∈ [DieState.online, .deferred, .resetting 0],
      ({ State.reset with pkg := { State.reset.pkg with dies := [(1, st)] } } : State).dieSt 1 = st) ∧
    (let s : State := { State.reset with pkg := { State.reset.pkg with dies := [(1, .deferred)] } }
     (s.beginReset (s.fnOfDie 1) 1).badPa = none) := by
  decide +kernel

set_option maxRecDepth 8000 in
theorem test_PackageResult_applies : State.reset.badPa = none ∧ State.reset.pkg.recovery = false ∧
    ((List.range 8).foldl State.failPartition State.reset).badPa = none ∧
    (let buf := 2 ^ 55 + (State.reset.fnReg 0 0x408).toNat % 2 ^ 55
     buf % 4 = 0 ∧ buf + 8 ≤ 2 ^ 56) ∧
    ({ State.reset.pkg with recovery := true } : Pkg).recovery = true := by
  exact ⟨rfl, rfl, by decide +kernel, by decide, rfl⟩

theorem test_HostRegisterResult_applies : State.reset.badPa = none ∧ 0 < 2 ^ State.reset.pkg.size ∧ 2 ^ State.reset.pkg.size ≤ 1 ∧
    State.reset.pkg.recovery = false ∧ State.reset.fnReg 0 0x20 = 0 ∧
    (∀ c ∈ State.reset.crews, c.pasid = 0 → c.st = .ended) ∧ (∀ r ∈ State.reset.routes, r.pasid = 0 → r.cur = none) ∧
    (∀ r ∈ State.reset.routes, r.pasid ≠ 0) ∧ isHost (fld (State.reset.fnReg 0 0x70) 63 12 * 4096) = false ∧
    (State.reset.physRead (fld (State.reset.fnReg 0 0x70) 63 12 * 4096) 1024).isSome = true ∧
    (¬ ∀ c ∈ tU.s.crews, c.pasid = 0 → c.st = .ended) := by
  decide +kernel

/-- A kick answers a next state where its route is not registered. -/
theorem test_HostRegisterResult_applies_to_kicks :
    ∀ w ∈ [32, 64], ∃ t, exec (.kick 0 w 3) State.reset = .next t := by
  simp only [List.mem_cons, List.not_mem_nil, or_false]
  rintro w (rfl | rfl) <;> exact ⟨_, rfl⟩

theorem test_EncodeDecodeRoundTrip_applies : ∃ w, (Instr.scmp (cf 5 6 2 3 0 7)).WellFormed ∧ encode (.scmp (cf 5 6 2 3 0 7)) = some w :=
  ⟨_, by unfold Instr.WellFormed; decide, rfl⟩

theorem test_StepRunsDecodedInstruction_applies : ∃ t, tTwo.s.tick.issuer = some t ∧ meets t.w t.p = false ∧ t.p.owes = false ∧
    targetHigh t = none ∧ t.p.line = some (t.p.pia.extractLsb' 6 58, tLine) ∧ targetCheck t tLine = none ∧
    ibpHit { t with p := { t.p with xfer := none } } = none :=
  ⟨_, rfl, rfl, rfl, rfl, rfl, rfl, rfl⟩

theorem test_StepRunsDecodedInstruction_applies_at_a_breakpoint : ∃ t, (tBreak false 0).s.tick.issuer = some t ∧
    ibpHit { t with p := { t.p with xfer := none } } = some 0 :=
  ⟨_, rfl, rfl⟩

/-- An event moves next that changes nothing: a port that does not exist is trained. -/
theorem test_StepKeepsMemoryForm_applies : ∃ s : State, s.memWf = true ∧ ∃ s', step s = .next s' :=
  ⟨{ State.reset with agenda := [.portTrained 64] }, by decide, _, rfl⟩

theorem test_ResetMeetsInvariant : State.reset.memWf = true ∧ State.reset.badPa = none := by decide

/-! ## Words that the spec writes out -/

/-- What a word decodes to. -/
def reads (a b c : BitVec 32) (i : Instr) : Bool :=
  match decodeWord (words3 a b c) with
  | .ok j => j == i
  | .error _ => false

/-- Fields of class L: the guard P15 where none is written. -/
def lf : Fields := { plainFields with gsel := 15 }

/-- The zero instruction, and the program of the encoding chapter. -/
theorem test_decode_scalar : (reads 0 0 0 (.nop { plainFields with gsel := 0 }) &&
    reads 0x00117001 0x20700000 1 (.sadd { plainFields with dst := 1, ty := 7, immf := true, hi := 1 }) &&
    reads 0x20217001 0x20800000 0x40 (.sadd { plainFields with dst := 2, sa := 2, ty := 8, immf := true, hi := 0x40 }) &&
    reads 0x01217017 0 4 (.sread { plainFields with dst := 18, hi := 4 })) = true := by decide

theorem test_decode_vector : (reads 0x0000F059 0x00600000 0 (.viota { lf with ty := 6 }) &&
    reads 0x0010F040 0x20600000 0x40 (.vadd { lf with dst := 1, ty := 6, immf := true, hi := 64 }) &&
    reads 0x1030F042 0x20600000 0xAAAB (.vmul { lf with dst := 3, sa := 1, ty := 6, immf := true, hi := 0xAAAB }) &&
    reads 0x2020F04A 0x20600000 0x11 (.vshr { lf with dst := 2, sa := 2, ty := 6, immf := true, hi := 17 }) &&
    reads 0x4010F550 0x20600000 0x18 (.vcmp { lf with sub := 5, dst := 1, sa := 4, ty := 6, immf := true, hi := 24 }) &&
    reads 0x7090F05E 0x20500000 0x17 (.vdymul { lf with dst := 9, sa := 7, ty := 5, immf := true, hi := 0x17 })) = true := by decide

theorem test_decode_float : (reads 0x4014F072 0x00B00050 0 (.vfmul { lf with hold := 1, dst := 1, sa := 4, sb := 5, ty := 11 }) &&
    reads 0x2030FB7E 0x10D00000 0 (.vcvt { lf with sub := 11, dst := 3, sa := 2, ty := 13, sat := true })) = true := by decide

theorem test_decode_control : (reads 0x00035020 0 0x18 (.bra { plainFields with gsel := 21, gneg := true, hi := 0x18 }) &&
    reads 0x00010020 0 0xFFFFFFFC (.bra { plainFields with gsel := 16, hi := 0xFFFFFFFC }) &&
    reads 0x00017022 0 0xE (.call { plainFields with hi := 0xE }) && reads 0x00017024 0 0 (.ret plainFields) &&
    reads 0x00001025 0 0x00040003 (.brv { plainFields with gsel := 1, hi := 0x00040003 }) && reads 0x00017026 0 0 (.rcv plainFields) &&
    reads 0x00017027 0x20 0x12080006 (.loop { plainFields with sb := 2, hi := 0x12080006 }) &&
    reads 0x00010028 0 0 (.lbrk { plainFields with gsel := 16 }) &&
    reads 0x00017033 0 0 (.fenceq plainFields) && reads 0x00017034 0 0 (.fencei plainFields)) = true := by decide

theorem test_decode_lanes :
    reads 0x4050F390 0x20000000 1 (.vshfl { lf with sub := 3, dst := 5, sa := 4, immf := true, hi := 1 }) = true := by decide

theorem test_decode_memory : (reads 0x5040F0A6 0x00603020 0x00F00000 (.vatom { lf with dst := 4, sa := 5, sb := 2, sc := 3, ty := 6, hi := 0x00F00000 }) &&
    reads 0x6050F0A6 0x80603000 0x00F00000 (.vatom { lf with dst := 5, sa := 6, sc := 3, ty := 6, scls := 2, hi := 0x00F00000 }) &&
    reads 0x4C00F0AE 0x80400000 0x00F00000 (.vldf { lf with dst := 192, sa := 4, ty := 4, scls := 2, hi := 0x00F00000 }) &&
    reads 0x1030F0A0 0x00100010 0x00F00080 (.vld { lf with dst := 3, sa := 1, sb := 1, ty := 1, hi := 0x00F00080 }) &&
    reads 0x1000F0A1 0x00203000 0x00F00040 (.vst { lf with sa := 1, sc := 3, ty := 2, hi := 0x00F00040 }) &&
    reads 0x102170A4 0x80600000 0x00F00100 (.sld { plainFields with dst := 2, sa := 1, ty := 6, scls := 2, hi := 0x00F00100 }) &&
    reads 0x00017032 0x80000000 0x11F00000 (.fence { plainFields with scls := 2, hi := 0x11F00000 }) &&
    reads 0x4051713A 0x80000000 0x00F00010 (.probe { plainFields with sub := 1, dst := 5, sa := 4, scls := 2, hi := 0x00F00010 })) = true := by decide

theorem test_decode_engines : (reads 0x000170C9 0 0x00010020 (.chwaitData { plainFields with hi := 0x00010020 }) &&
    reads 0x000170C8 0 0x00010020 (.chtake { plainFields with hi := 0x00010020 }) &&
    reads 0x005171CA 0 0 (.xstat { plainFields with sub := 1, dst := 5 })) = true := by decide

theorem test_decode_matrix : (reads 0x200170D0 0x00F00040 0x0701 (.mma { plainFields with sa := 2, sb := 4, ty := 15, hi := 0x701 }) &&
    reads 0xA00170D2 0x00B00000 0x0101 (.mdrain { plainFields with sa := 10, ty := 11, hi := 0x101 }) &&
    reads 0x000170D4 0 0x10 (.mtoken { plainFields with hi := 16 })) = true := by decide

theorem test_decode_sync : (reads 0x000170E4 0 0x21 (.cbarSync { plainFields with hi := 0x21 }) &&
    reads 0x500170E2 0x80006000 0x09F00000 (.bwait { plainFields with sa := 5, sc := 6, scls := 2, hi := 0x09F00000 }) &&
    reads 0xD00170E5 0x2000C000 1 (.contend { plainFields with sa := 13, sc := 12, immf := true, hi := 1 })) = true := by decide

theorem test_decode_system : (reads 0x70017038 1 0x170 (.cswr { plainFields with sa := 23, hi := 0x170 }) &&
    reads 0x01717037 0 0x174 (.csrd { plainFields with dst := 23, hi := 0x174 })) = true := by decide

theorem test_decode_debug : (reads 0x000170E8 0 0x2A (.mark { plainFields with hi := 0x2A }) &&
    reads 0x000170E9 0 5 (.brkpt { plainFields with hi := 5 }) && reads 0x400170EA 0 0 (.rplbeginRec { plainFields with sa := 4 }) &&
    reads 0x100321EA 0 0 (.rplbeginCmp { plainFields with sub := 1, gsel := 18, gneg := true, sa := 1 }) &&
    reads 0x000170EB 0 0 (.rplend plainFields) && reads 0x600170EC 0 0 (.snap { plainFields with sa := 6 })) = true := by decide

/-- An opcode of no instruction decodes to the illegal instruction, which traps; a field that is not allowed and a list of fewer
than twelve bytes are refused. -/
theorem test_decode_refuses : (reads 0x000170FF 0 0 (.illegalOp (words3 0x000170FF 0 0)) &&
    (match decodeWord (words3 0x00017001 0x01F00000 0) with | .error (.illegalField 52) => true | _ => false) &&
    (match decode (List.replicate 11 0) with | .error .truncated => true | _ => false)) = true := by decide

/-! ## Terms that are not well formed, one for each field of a word -/

/-- The bit at which a term breaks the discipline of its fields. -/
def breaks (i : Instr) (bit : Nat) : Bool := fieldErr limMax i == some bit

theorem test_wellFormed_refuses : (breaks (.sadd { cf 0 4 2 3 0 7 with sub := 1 }) 8 && breaks (.sadd { cf 0 4 2 3 0 7 with gsel := 3 }) 12 &&
    breaks (.sadd { cf 0 4 2 3 0 7 with hold := 1 }) 18 && breaks (.sadd { cf 0 4 2 3 0 7 with dst := 64 }) 20 &&
    breaks (.sadd { cf 0 4 2 3 0 7 with sa := 64 }) 28 && breaks (.sadd { cf 0 4 2 3 0 7 with sb := 64 }) 36 &&
    breaks (.sadd { cf 0 4 2 3 0 7 with sc := 1 }) 44 && breaks (.sadd { cf 0 4 2 3 0 7 with ty := 31 }) 52 &&
    breaks (.sadd { cf 0 4 2 3 0 7 with rm := 1 }) 57 && breaks (.sand { cf 0 4 2 3 0 7 with sat := true }) 60 &&
    breaks (.mark { cf 0 0 0 0 0 0 with immf := true }) 61 && breaks (.mark { cf 0 0 0 0 0 0 with scls := 1 }) 62 &&
    breaks (.sadd { cf 0 4 2 3 0 7 with hi := 1 }) 64 && breaks (.vst { vf 0 4 1 6 8 7 with hi := 0x00F00000 }) 20) = true := by decide

theorem test_wellFormed_accepts : (Instr.sadd (cf 0 4 2 3 0 7)).WellFormed ∧ (Instr.vadd (vf 0 4 2 6 0 5)).WellFormed ∧
    ¬ (Instr.sadd { cf 0 4 2 3 0 7 with sub := 1 }).WellFormed := by
  unfold Instr.WellFormed; decide

end Sys2Proof.Tests
end

section
/-!
PROOFS. Special registers, context control registers and GENSYNC (O23), after what a held instruction and the operands of a
class C instruction come to on a plain path.
-/
open Sys2Proof Sys2Proof.Machine Sys2Proof.Slice0

namespace Sys2Proof.Machine

/-! ## Issuing on a plain path -/

/-- An instruction whose body holds stays where it is, and is the youngest to have issued (R90). -/
theorem issue_hold {s : State} {t u : Th} {i : Instr} {f : Fields} {k : Kind} {body : Th → BitVec 64 → Res} {ex : BitVec 64}
    (h : Runs s t i f k.cls ex) (hp : k.priv = true → t.w.hmode = true) (hd : ∀ n, k.dec (t.withVecs n) = none)
    (hb : body t ex = .hold u) (hr : u.s.badPa = none) : issue i f k body s = .next (waits u u.p.wait) := by
  obtain ⟨⟨t0, hs, e⟩, hf, g, hg, hx, rfl⟩ := h
  obtain ⟨n, eq⟩ := issue_plain (body := body) hs e hp hd hf hg hx
  rw [eq, hb]
  exact answer_real hr

/-- A class C instruction executes on the path as it was selected. -/
theorem Runs.plain {s : State} {t : Th} {i : Instr} {f : Fields} {ex : BitVec 64} (h : Runs s t i f .c ex) : Plain s t := by
  obtain ⟨⟨t0, hs, rfl⟩, -⟩ := h
  exact hs

theorem splitWrite_handler {t : Th} (h : t.w.hmode = true) (n : Nat) : t.splitWrite n = false := by
  simp [Th.splitWrite, h]

theorem splitCheck_pass {t : Th} {n : Nat} (h : t.splitWrite n = false) (r : Res) : splitCheck t n r = r := by
  simp [splitCheck, h]

/-- A scalar operand that is sound and no poison is used as it stands. -/
theorem useS_clean {t : Th} {op n use : Nat} {k : Th → BitVec 64 → Res} (h0 : t.w.d = 0) (hi : t.w.inj.getLsbD 63 = false)
    (hb : bad (t.sreg n) = false) (hs : sound (t.sreg n) = true) : useS t op n use k = k t (t.sreg n).v := by
  simp only [useS, hb, Bool.false_eq_true, if_false]
  exact checked_clean h0 hi fun q hq => by rw [List.mem_singleton.1 hq]; exact hs

/-- Writing V registers of lanes leaves a path calm, its loops and the state outside its wave alone. -/
theorem foldl_setV_keeps {t : Th} (h : Calm t) (n : Nat) (x : Nat → RWord 32) (l : List Nat) :
    let u := l.foldl (fun u L => u.setV n L (x L)) t
    Calm u ∧ u.w.d = t.w.d ∧ u.s = t.s :=
  List.foldlRecOn (motive := fun u => Calm u ∧ u.w.d = t.w.d ∧ u.s = t.s) l _ ⟨h, rfl, rfl⟩
    fun _ ⟨hc, hd, hs⟩ _ _ => ⟨hc.setV _ _ _, hd, hs⟩

/-- Where each lane in turn is given its LID, the lanes written before change none. -/
theorem foldl_setV_lid {w : Wave} (n : Nat) (l : List Nat) {t : Th} (h : t.w.lidOf = w.lidOf) :
    l.foldl (fun u L => u.setV n L (mkW (BitVec.ofNat 32 (u.w.lidOf L)))) t =
      l.foldl (fun u L => u.setV n L (mkW (BitVec.ofNat 32 (w.lidOf L)))) t := by
  induction l generalizing t with
  | nil => rfl
  | cons L l ih => rw [List.foldl_cons, List.foldl_cons, h]; exact ih h

/-! ## Special registers (R134, R135) -/

/-- The special registers that only handler mode writes, by number (R134). -/
theorem isHandlerOnly_iff {n : Nat} : isHandlerOnly n = true ↔
    n ∈ [0x20, 0x21, 0x28, 0x29, 0x2A, 0x2B, 0x2C, 0x2D, 0x2E, 0x30, 0x31, 0x32, 0x33, 0x39] := by
  simp only [isHandlerOnly, Bool.or_eq_true, Bool.and_eq_true, beq_iff_eq, decide_eq_true_eq, List.mem_cons, List.not_mem_nil,
    or_false]
  omega

/-- A register outside the handler's own ignores a write (R134). -/
theorem writeSpecial_readOnly {n : Nat} (h : isHandlerOnly n = false) (w : Wave) (x : BitVec 64) : writeSpecial w n x = w := by
  unfold writeSpecial
  grind [isHandlerOnly]

/-- A write of a special register leaves the paths, the loops and the crew of the wave alone. -/
theorem writeSpecial_keeps (w : Wave) (n : Nat) (x : BitVec 64) : (writeSpecial w n x).d = w.d ∧
    (writeSpecial w n x).paths = w.paths ∧ (writeSpecial w n x).spilled = w.spilled ∧ (writeSpecial w n x).crew = w.crew := by
  unfold writeSpecial
  split <;> exact ⟨rfl, rfl, rfl, rfl⟩

theorem Calm.writeSpecial {t : Th} (h : Calm t) (n : Nat) (x : BitVec 64) :
    Calm { t with w := writeSpecial t.w n x } := by
  obtain ⟨-, hp, hs, hc⟩ := writeSpecial_keeps t.w n x
  refine ⟨h.untraced, h.noJoin, ?_, ?_⟩
  · simpa only [hp, hs] using h.noExit
  · simpa only [Th.crew, hc] using h.noRegion

/-- The handler's scratch registers after a write of a special register. -/
theorem writeSpecial_tscr (w : Wave) (n : Nat) (x : BitVec 64) : (writeSpecial w n x).tscr =
    if 0x30 ≤ n ∧ n ≤ 0x33 then sset 0 w.tscr (n - 0x30) (x &&& specialMask n) else w.tscr := by
  unfold writeSpecial
  grind

/-- A scratch register of the handler, as it reads. -/
theorem readSpecial_scratch (t : Th) {k : Nat} (h : 0x30 ≤ k ∧ k ≤ 0x33) : readSpecial t k = sget 0 t.w.tscr (k - 0x30) := by
  obtain rfl | rfl | rfl | rfl : k = 0x30 ∨ k = 0x31 ∨ k = 0x32 ∨ k = 0x33 := by omega
  all_goals rfl

/-- A register of the handler is a scratch register, or one of those with a field of their own. -/
theorem isHandlerOnly_cases {n : Nat} (h : isHandlerOnly n = true) : (0x30 ≤ n ∧ n ≤ 0x33) ∨ n = 0x20 ∨ n = 0x21 ∨ n = 0x28 ∨
    n = 0x29 ∨ n = 0x2A ∨ n = 0x2B ∨ n = 0x2C ∨ n = 0x2D ∨ n = 0x2E ∨ n = 0x39 := by
  rw [isHandlerOnly_iff] at h
  simp only [List.mem_cons, List.not_mem_nil, or_false] at h
  omega

/-- A register of the handler that is written reads as the writable bits of the value. -/
theorem readSpecial_writeSpecial_same (t : Th) {n : Nat} (hn : isHandlerOnly n = true) (x : BitVec 64) :
    readSpecial { t with w := writeSpecial t.w n x } n = x &&& specialMask n := by
  rcases isHandlerOnly_cases hn with hs | rfl | rfl | rfl | rfl | rfl | rfl | rfl | rfl | rfl | rfl
  · rw [readSpecial_scratch _ hs, writeSpecial_tscr, if_pos hs, sget_sset_same]
  all_goals rfl

/-- A register of the handler keeps its value when another is written. -/
theorem readSpecial_writeSpecial_ne (t : Th) {k n : Nat} (hk : isHandlerOnly k = true) (hkn : k ≠ n) (x : BitVec 64) :
    readSpecial { t with w := writeSpecial t.w n x } k = readSpecial t k := by
  rcases isHandlerOnly_cases hk with hs | rfl | rfl | rfl | rfl | rfl | rfl | rfl | rfl | rfl | rfl
  · rw [readSpecial_scratch _ hs, readSpecial_scratch _ hs, writeSpecial_tscr]
    split
    · exact sget_sset_ne (by omega)
    · rfl
  all_goals
    simp only [readSpecial, writeSpecial]
    grind

/-! ## Context control registers (R3, R146) -/

/-- A context control register reads what is written to it. -/
theorem ctxReg_setCtxReg_same (s : State) (c n : Nat) (x : BitVec 64) : (s.setCtxReg c n x).ctxReg c n = x := by
  simp only [State.setCtxReg, State.ctxReg, State.putCtx, State.ctx, sget_sset_same]

/-- A write of a context control register leaves the other registers of its context alone. -/
theorem ctxReg_setCtxReg_ne (s : State) (c : Nat) {n k : Nat} (h : k ≠ n) (x : BitVec 64) :
    (s.setCtxReg c n x).ctxReg c k = s.ctxReg c k := by
  simp only [State.setCtxReg, State.ctxReg, State.putCtx, State.ctx, sget_sset_same, sget_sset_ne h]

/-- A write of a context control register leaves the other contexts alone. -/
theorem ctxReg_setCtxReg_other (s : State) {c d : Nat} (h : d ≠ c) (n k : Nat) (x : BitVec 64) :
    (s.setCtxReg c n x).ctxReg d k = s.ctxReg d k := by
  simp only [State.setCtxReg, State.ctxReg, State.putCtx, State.ctx, sget_sset_ne h]

/-- A write of a register that exists once per context writes it for the context; beside that, at most die scratches go (R224). -/
theorem writeCtx_eq (s : State) (c core : Nat) {n : Nat} (h : n ≠ 0x140) (hp : perCore n = false) (x : BitVec 64) :
    ∃ l, s.writeCtx c core n x = { s.setCtxReg c n (ctxWritten n (s.ctxReg c n) x) with ms := { s.ms with dsc := l } } := by
  simp only [State.writeCtx, if_neg h, State.dbgReg, State.setDbgReg, hp, Bool.false_eq_true, if_false]
  split
  · exact ⟨_, rfl⟩
  · exact ⟨s.ms.dsc, rfl⟩

/-- The bits that a write of `x` over `old` changes lie within those the register lets a write change. -/
theorem ctxWritten_eq (n : Nat) (old x : BitVec 64) :
    ∃ m, ctxWritten n old x = (old &&& ~~~(ctxMask n &&& m)) ||| (x &&& (ctxMask n &&& m)) := by
  simp only [ctxWritten]
  split
  · exact ⟨_, rfl⟩
  · split
    · exact ⟨_, rfl⟩
    · exact ⟨BitVec.allOnes 64, by rw [BitVec.and_allOnes]⟩

end Sys2Proof.Machine

namespace Sys2Proof.Slice0

/-- R134: SREAD of a special register other than LID. -/
theorem sread_special {s : State} {t : Th} {f : Fields} {ex : BitVec 64} (h : Runs s t (.sread f) f .c ex)
    (hn : (yNum f).toNat ≠ 0) (hw : t.splitWrite f.dst.toNat = false) :
    exec (.sread f) s = .next (t.setS f.dst.toNat (mkW (readSpecial t (yNum f).toNat))).retired :=
  issue_done (k := kC) (u := t.setS f.dst.toNat (mkW (readSpecial t (yNum f).toNat))) h nofun (fun _ => rfl)
    (by simp only [if_neg hn, hw, Bool.false_eq_true, if_false]) (h.plain.calm.setS _ _) ((setS_d ..).trans h.plain.noLoop)
    ((setS_s t _ _).symm ▸ h.plain.th_real)

/-- R135: SREAD of LID goes to each lane of EXM. -/
theorem sread_lid {s : State} {t : Th} {f : Fields} {ex : BitVec 64} (h : Runs s t (.sread f) f .c ex)
    (hn : (yNum f).toNat = 0) : exec (.sread f) s = .next ((lanesOf t.p.exm).foldl (fun u L =>
      u.setV f.dst.toNat L (mkW (BitVec.ofNat 32 (t.w.lidOf L)))) t).retired := by
  obtain ⟨hc, hd, hs⟩ := foldl_setV_keeps h.plain.calm f.dst.toNat (fun L => mkW (BitVec.ofNat 32 (t.w.lidOf L)))
    (lanesOf t.p.exm)
  exact issue_done (k := kC) h nofun (fun _ => rfl) ((if_pos hn).trans (congrArg _ (foldl_setV_lid _ _ rfl))) hc
    (hd.trans h.plain.noLoop) (hs.symm ▸ h.plain.th_real)

/-- R134: SWRITE of a sound operand writes the register it names where the mode allows it. -/
theorem swrite_writes {s : State} {t : Th} {f : Fields} {ex : BitVec 64} (h : Runs s t (.swrite f) f .c ex)
    (hm : isHandlerOnly (yNum f).toNat = true → t.w.hmode = true) (hi : Unarmed t) (hb : bad (t.sreg f.sa.toNat) = false)
    (hs : sound (t.sreg f.sa.toNat) = true) :
    exec (.swrite f) s = .next
      ({ t with w := writeSpecial t.w (yNum f).toNat (t.sreg f.sa.toNat).v } : Th).retired :=
  issue_done (k := { cls := .c, dec := fun t =>
      if isHandlerOnly (yNum f).toNat && !t.w.hmode then some { cause := cPrivOp } else none })
    h nofun (fun n => if_neg (by simpa [Th.withVecs] using hm)) (useS_clean h.plain.noLoop hi hb hs)
    (h.plain.calm.writeSpecial _ _) ((writeSpecial_keeps ..).1.trans h.plain.noLoop) h.plain.th_real

/-- O23, its part of special registers: SREAD of each kind, SWRITE of a register of the handler and of one it cannot write. -/
theorem specialRegisterResult : SpecialRegisterResult := by
  intro s t f ex n x
  refine ⟨sread_special, sread_lid, fun h hn hm hi hb hs => ?_, fun h hn hi hb hs => ?_⟩
  · exact ⟨_, swrite_writes h (fun _ => hm) hi hb hs, h.plain.state, rfl, readSpecial_writeSpecial_same t hn _,
      fun k hk hmem => readSpecial_writeSpecial_ne t (isHandlerOnly_iff.2 hmem) hk _⟩
  · have e := swrite_writes h (fun hn' => by simp [n, hn] at hn') hi hb hs
    rwa [writeSpecial_readOnly hn] at e

/-- R146: CSRD. -/
theorem csrd_reads {s : State} {t : Th} {f : Fields} {ex : BitVec 64} (hm : t.w.hmode = true) (h : Runs s t (.csrd f) f .c ex) :
    exec (.csrd f) s = .next (t.setS f.dst.toNat (mkW (t.readCtx (yNum f).toNat))).retired :=
  issue_done (k := kP) h (fun _ => hm) (fun _ => rfl) (splitCheck_pass (splitWrite_handler hm _) _) (h.plain.calm.setS _ _)
    ((setS_d ..).trans h.plain.noLoop) ((setS_s t _ _).symm ▸ h.plain.th_real)

/-- R146: CSWR of a sound operand to a register that exists once per context. -/
theorem cswr_writes {s : State} {t : Th} {f : Fields} {ex : BitVec 64} (hm : t.w.hmode = true) (h : Runs s t (.cswr f) f .c ex)
    (hn : (yNum f).toNat ≠ 0x140) (hp : perCore (yNum f).toNat = false) (hi : Unarmed t) (hb : bad (t.sreg f.sa.toNat) = false)
    (hs : sound (t.sreg f.sa.toNat) = true) :
    let n := (yNum f).toNat
    let x := (t.sreg f.sa.toNat).v
    ∃ l, exec (.cswr f) s = .next ({ t with s := { s.setCtxReg t.w.pasid n (ctxWritten n (s.ctxReg t.w.pasid n) x) with
      ms := { s.ms with dsc := l } } } : Th).retired := by
  intro n x
  obtain ⟨l, e⟩ := writeCtx_eq t.s t.w.pasid t.w.coreN hn hp x
  have hc := h.plain.calm
  rw [h.plain.state] at e
  refine ⟨l, issue_done (k := kP) h (fun _ => hm) (fun _ => rfl) ((useS_clean h.plain.noLoop hi hb hs).trans ?_)
    ⟨h.plain.untraced, hc.noJoin, hc.noExit, ?_⟩ h.plain.noLoop h.plain.real⟩
  · rw [h.plain.state, e]
  · have := hc.noRegion
    rw [Th.crew, h.plain.state] at this
    exact this

/-- A GENSYNC that waits stays at its instruction with what it has done. -/
theorem gensync_waits {s : State} {t u : Th} {f : Fields} {ex : BitVec 64} (hm : t.w.hmode = true)
    (h : Runs s t (.gensync f) f .c ex) (hu : genSync t f.dst.toNat = .hold u) (hr : u.s.badPa = none) :
    exec (.gensync f) s = .next (waits u u.p.wait) :=
  issue_hold (k := kP) h (fun _ => hm) (fun _ => rfl) ((splitCheck_pass (splitWrite_handler hm _) _).trans hu) hr

/-- R253: the path whose GENSYNC runs goes on once no unit is behind, with the generation in S[DST]. -/
theorem gensync_ends {t : Th} {f : Fields} {ex : BitVec 64} (hm : t.w.hmode = true) (h : Runs t.s t (.gensync f) f .c ex)
    (hu : genSync t f.dst.toNat = .done (({ t with s := t.s.endSync t.w.pasid } : Th).setS f.dst.toNat
      (mkW ((t.s.ctx t.w.pasid).gen.zeroExtend 64)))) :
    exec (.gensync f) t.s = .next (({ t with s := t.s.endSync t.w.pasid } : Th).setS f.dst.toNat
      (mkW ((t.s.ctx t.w.pasid).gen.zeroExtend 64))).retired := by
  have hc := h.plain.calm
  have hc' : Calm { t with s := t.s.endSync t.w.pasid } := ⟨hc.untraced, hc.noJoin, hc.noExit, hc.noRegion⟩
  exact issue_done (k := kP) h (fun _ => hm) (fun _ => rfl) ((splitCheck_pass (splitWrite_handler hm _) _).trans hu)
    (hc'.setS _ _) ((setS_d ..).trans h.plain.noLoop) ((congrArg State.badPa (setS_s ..)).trans h.plain.th_real)

/-- The GENSYNC `y` that runs for a context is the path's own (R253). -/
def OwnSync (t : Th) (y : GenSync) : Prop := y.crew = t.w.crew ∧ y.wid = t.w.wid ∧ y.eid = t.p.eid

/-- The path whose GENSYNC runs: one unit takes the generation, or none is behind and it ends (R253; log 18). -/
theorem genSync_own {t : Th} {y : GenSync} (h : t.s.syncOf t.w.pasid = some y) (ho : OwnSync t y) (n : Nat) :
    (∀ u l, y.behind = u :: l → genSync t n = .hold { t with s := t.s.putSync t.w.pasid { y with behind := l } }) ∧
    (y.behind = [] → genSync t n =
      .done (({ t with s := t.s.endSync t.w.pasid } : Th).setS n (mkW ((t.s.ctx t.w.pasid).gen.zeroExtend 64)))) := by
  obtain ⟨hc, hw, he⟩ := ho
  have hne : (y.crew != t.w.crew || y.wid != t.w.wid || y.eid != t.p.eid) = false := by simp [hc, hw, he]
  constructor
  · intro u l hl
    simp only [genSync, h, hne, hl, Bool.false_eq_true, if_false]
  · intro hl
    simp only [genSync, h, hne, hl, Bool.false_eq_true, if_false]

/-- A GENSYNC waits for another path's of its context (R253; log 18). -/
theorem genSync_other {t : Th} {y : GenSync} (h : t.s.syncOf t.w.pasid = some y) (ho : ¬ OwnSync t y) (n : Nat) :
    genSync t n = .hold t := by
  have hne : (y.crew != t.w.crew || y.wid != t.w.wid || y.eid != t.p.eid) = true := by
    simp only [OwnSync] at ho
    grind
  simp only [genSync, h, hne, if_true]

/-- O23, its part of context control registers: CSRD, CSWR, and GENSYNC by the GENSYNC that runs for its context. -/
theorem contextRegisterResult : ContextRegisterResult := by
  intro s t f ex hm n x
  refine ⟨fun h => ?_, fun h hn hp hi hb hs => ?_, fun h => ?_⟩
  · have e := csrd_reads hm h
    rwa [Th.readCtx, h.plain.state] at e
  · obtain ⟨l, e⟩ := cswr_writes hm h hn hp hi hb hs
    exact ⟨_, e, rfl, rfl, ctxReg_setCtxReg_same .., fun k hk => ctxReg_setCtxReg_ne _ _ hk _,
      fun c k hc => ctxReg_setCtxReg_other _ hc _ _ _, rfl, rfl⟩
  · obtain rfl := h.plain.state
    have hr := h.plain.real
    refine ⟨fun hn => ?_, fun y u l hy ho hl => ?_, fun y hy ho => ?_, fun y hy ho hl => ?_⟩
    · exact gensync_waits hm h (by simp only [genSync, hn]) hr
    · exact gensync_waits hm h ((genSync_own hy ho _).1 u l hl) hr
    · exact gensync_waits hm h (genSync_other hy ho _) hr
    · exact gensync_ends hm h ((genSync_own hy ho _).2 hl)

/-- O23, its part of reserved bits: what a write changes is masked by the bits that the register lets it change. -/
theorem reservedBitsKept : ReservedBitsKept := by
  intro n old x
  obtain ⟨m, e⟩ := ctxWritten_eq n old x
  rw [e]
  ext i hi
  simp only [BitVec.getElem_and, BitVec.getElem_or, BitVec.getElem_not]
  cases (ctxMask n)[i] <;> simp

/-- Settles O23: it holds, by what each instruction's body comes to on a plain path. -/
theorem systemRegisterResult : Obligations.SystemRegisterResult :=
  ⟨specialRegisterResult, contextRegisterResult, reservedBitsKept⟩

end Sys2Proof.Slice0
end

section
/-!
PROOFS. Package reset, loss of power, firmware load, the histogram commands and attestation (O54), after what registers of a
function, memory behind translation and the states of the dies come to when they are written.
-/
open Sys2Proof Sys2Proof.Machine Sys2Proof.Slice0

namespace Sys2Proof.Machine

/-! ## Fields of registers -/

/-- A field of a word is the number of its bits. -/
theorem fld_eq_extract (x : BitVec n) (hi lo : Nat) : fld x hi lo = (x.extractLsb' lo (hi + 1 - lo)).toNat := by
  simp only [fld, bitsOf, BitVec.extractLsb'_toNat, Nat.shiftRight_eq_div_pow]

/-- Bit `lo + i` of a word is bit `i` of the number just written to its field from `lo` on. -/
theorem setFld_getLsbD (x : BitVec n) {hi lo i : Nat} (h : lo + i ≤ hi) (hn : hi < n) (y : Nat) :
    (setFld x hi lo y).getLsbD (lo + i) = y.testBit i := by
  have hb : lo + i < n := by omega
  have hw : i < hi + 1 - lo := by omega
  simp only [setFld, BitVec.getLsbD_or, BitVec.getLsbD_and, BitVec.getLsbD_not, BitVec.getLsbD_ofNat, Nat.testBit_mul_two_pow,
    Nat.testBit_two_pow_sub_one, Nat.add_sub_cancel_left, hb, hw, Nat.le_add_right, decide_true, Bool.true_and, Bool.not_true,
    Bool.and_false, Bool.false_or, Bool.and_true]

/-- A field just written reads as the number written, where it fits. -/
theorem fld_setFld_same (x : BitVec n) {hi lo y : Nat} (hn : hi < n) (hy : y < 2 ^ (hi + 1 - lo)) :
    fld (setFld x hi lo y) hi lo = y := by
  have e : (setFld x hi lo y).extractLsb' lo (hi + 1 - lo) = BitVec.ofNat (hi + 1 - lo) y := by
    refine BitVec.eq_of_getLsbD_eq fun i hi' => ?_
    rw [BitVec.getLsbD_extractLsb', setFld_getLsbD x (by omega) hn, BitVec.getLsbD_ofNat]
  rw [fld_eq_extract, e, BitVec.toNat_ofNat, Nat.mod_eq_of_lt hy]

/-- A register of a function reads as written (R392). -/
@[simp] theorem State.fnReg_setFnReg_same (s : State) (f off : Nat) (x : BitVec 64) : (s.setFnReg f off x).fnReg f off = x := by
  simp only [State.setFnReg, State.fnReg, State.putFn, State.fn, sget_sset_same]

/-- STATUS of the management mailbox reads as a command left it (R400). -/
theorem mgmtDone_status (s : State) {r : Nat} (h : r < 2 ^ 8) : fld ((s.mgmtDone r).fnReg 0 0x400) 15 8 = r := by
  rw [State.mgmtDone, State.fnReg_setFnReg_same, fld_setFld_same _ (by omega) h]

/-! ## Memory -/

/-- The listed entries that a test of the key lets through. -/
theorem slook_filter_key (q : Nat → Bool) (m : SMap α) (k : Nat) :
    slook (m.filter fun c => q c.1) k = if q k then slook m k else none := by
  induction m with
  | nil => simp [slook]
  | cons c m ih =>
    obtain ⟨j, v⟩ := c
    by_cases hj : j = k
    · subst hj
      cases hq : q j <;> simp [slook, hq, ih]
    · cases hq : q j <;> simp [slook, hq, hj, ih]

/-- Little-endian bytes of a number make the number up again (R2). -/
theorem leNat_bytes (n x : Nat) : leNat ((List.range n).map fun i => BitVec.ofNat 8 (x / 2 ^ (8 * i))) = x % 2 ^ (8 * n) := by
  induction n generalizing x with
  | zero => simp [leNat, Nat.mod_one]
  | succ n ih =>
    have tail : (fun i => BitVec.ofNat 8 (x / 2 ^ (8 * i))) ∘ Nat.succ = fun i => BitVec.ofNat 8 (x / 256 / 2 ^ (8 * i)) := by
      funext i
      rw [Function.comp, Nat.mul_succ, Nat.add_comm, Nat.pow_add, ← Nat.div_div_eq_div_mul]
    rw [List.range_succ_eq_map, List.map_cons, List.map_map, tail, leNat, ih, Nat.mul_succ, Nat.add_comm (8 * n), Nat.pow_add,
      Nat.mod_mul]
    simp

/-- A write of a word leaves the bytes outside it alone. -/
theorem putWord_byte_outside {m : Mem} {w a : Nat} {x : RWord 32} (h : a < 4 * w ∨ 4 * (w + 1) ≤ a) :
    (m.putWord w x).byte a = m.byte a := by
  rw [putWord_byte, if_neg (by omega), if_neg (by omega), if_neg (by omega), if_neg (by omega)]

/-- A write of words leaves the bytes outside them alone. -/
theorem putWords_byte_outside {l : List (RWord 32)} {m : Mem} {w a : Nat} (h : a < 4 * w ∨ 4 * (w + l.length) ≤ a) :
    (m.putWords w l).byte a = m.byte a := by
  induction l generalizing m w with
  | nil => rfl
  | cons x l ih =>
    rw [List.length_cons] at h
    rw [Mem.putWords, ih (by omega), putWord_byte_outside (by omega)]

/-- A byte of a word just written. -/
theorem putWord_byte_at (m : Mem) (w : Nat) (x : RWord 32) {i : Nat} (h : i < 4) :
    (m.putWord w x).byte (4 * w + i) = x.v.extractLsb' (8 * i) 8 := by
  rw [putWord_byte]
  obtain rfl | rfl | rfl | rfl : i = 0 ∨ i = 1 ∨ i = 2 ∨ i = 3 := by omega
  all_goals simp

/-- Bits taken from bits of a word are bits of the word. -/
theorem extract_extract (x : BitVec n) {lo a i b : Nat} (h : i + b ≤ a) :
    (x.extractLsb' lo a).extractLsb' i b = x.extractLsb' (lo + i) b := by
  refine BitVec.eq_of_getLsbD_eq fun j hj => ?_
  simp [hj, show i + j < a by omega, Nat.add_assoc]

/-- A byte of a 64-bit value just written. -/
theorem putWords_two_byte (m : Mem) (w : Nat) (x : BitVec 64) {i : Nat} (h : i < 8) :
    (m.putWords w (two x)).byte (4 * w + i) = x.extractLsb' (8 * i) 8 := by
  simp only [two, Mem.putWords]
  by_cases hi : i < 4
  · rw [putWord_byte_outside (by omega), putWord_byte_at _ _ _ hi]
    exact (extract_extract x (by omega)).trans (by rw [Nat.zero_add])
  · obtain ⟨j, rfl⟩ : ∃ j, i = 4 + j := ⟨i - 4, by omega⟩
    rw [show 4 * w + (4 + j) = 4 * (w + 1) + j by omega, putWord_byte_at _ _ _ (by omega)]
    exact (extract_extract x (by omega)).trans (by rw [Nat.mul_add])

/-- A 64-bit value just written reads back. -/
theorem putWords_two_nat (m : Mem) (w : Nat) (x : BitVec 64) : (m.putWords w (two x)).nat (4 * w) 8 = x.toNat := by
  have e : (List.range 8).map (fun i => (m.putWords w (two x)).byte (4 * w + i)) =
      (List.range 8).map fun i => BitVec.ofNat 8 (x.toNat / 2 ^ (8 * i)) := by
    refine List.map_congr_left fun i hi => ?_
    rw [putWords_two_byte m w x (List.mem_range.1 hi), BitVec.extractLsb', Nat.shiftRight_eq_div_pow]
  rw [Mem.nat, e, leNat_bytes]
  exact Nat.mod_eq_of_lt x.isLt

/-- Sideband pairs are no bytes. -/
theorem foldl_putPair_byte (l : List Nat) (m : Mem) (p : Pair) (a : Nat) :
    (l.foldl (fun m b => m.putPair b p) m).byte a = m.byte a :=
  List.foldlRecOn (motive := fun u : Mem => u.byte a = m.byte a) l _ rfl fun _ h _ _ => h

/-- Invalidations write no memory: at most copies and stores on their way change (R319). -/
theorem announce_keeps_phys (s : State) (g : Agent) (b : Nat) :
    ∃ m, s.announce g b = { s with ms := m } ∧ m.phys = s.ms.phys := by
  unfold State.announce
  dsimp only
  split <;> exact ⟨_, rfl, rfl⟩

/-- The same of every block of a byte range. -/
theorem announceAll_keeps_phys (s : State) (a n : Nat) : ∃ m, s.announceAll a n = { s with ms := m } ∧ m.phys = s.ms.phys := by
  refine List.foldlRecOn (motive := fun u => ∃ m, u = { s with ms := m } ∧ m.phys = s.ms.phys) _ _ ⟨s.ms, rfl, rfl⟩ ?_
  rintro _ ⟨m, rfl, hm⟩ b -
  obtain ⟨m', e, hm'⟩ := announce_keeps_phys { s with ms := m } deviceAgent b
  exact ⟨m', e, hm'.trans hm⟩

/-- A 64-bit write of the device to an address that names memory: the value stands there, the rest of memory is as it was, and
nothing but the memory system changes (R327). -/
theorem devWrite64_eq (s : State) {pa : Nat} (hp : physOk pa = true) (h4 : pa % 4 = 0) (x : BitVec 64) :
    ∃ m, s.devWrite64 pa x = { s with ms := m } ∧ m.phys.nat pa 8 = x.toNat ∧
      ∀ a, a < pa ∨ pa + 8 ≤ a → m.phys.byte a = s.ms.phys.byte a := by
  obtain ⟨m, e, hm⟩ := announceAll_keeps_phys s pa (4 * (two x).length)
  have ht : s.touch pa = s := if_pos hp
  simp only [State.devWrite64, State.devWrite, ht, e]
  refine ⟨_, rfl, ?_, fun a ha => ?_⟩
  · have := putWords_two_nat m.phys (pa / 4) x
    rw [show 4 * (pa / 4) = pa by omega] at this
    simpa only [Mem.nat, foldl_putPair_byte] using this
  · rw [foldl_putPair_byte, putWords_byte_outside (by simp only [two, List.length_cons, List.length_nil]; omega), hm]

/-! ## Dies and firmware (R399) -/

/-- Each die of a list is given one state, which may rest on package time. -/
theorem foldl_putDie (l : List Nat) (s : State) (x : BitVec 64 → DieState) :
    ∃ m, l.foldl (fun s d => s.putDie d (x s.ptime)) s = { s with pkg := { s.pkg with dies := m } } ∧
      ∀ d, sget .online m d = if d ∈ l then x s.ptime else s.dieSt d := by
  induction l generalizing s with
  | nil => exact ⟨s.pkg.dies, rfl, fun d => by simp [State.dieSt]⟩
  | cons d l ih =>
    obtain ⟨m, e, h⟩ := ih (s.putDie d (x s.ptime))
    refine ⟨m, e, fun k => ?_⟩
    rw [h, State.dieSt, State.putDie]
    by_cases hk : k = d
    · simp [hk, sget_sset_same]
    · simp [hk, sget_sset_ne, State.dieSt]

/-- The dies after a boot: online, or held in reset from now on. -/
def bootedDie (s : State) (ok : Bool) : DieState := if ok then .online else .resetting s.ptime

/-- An attempt to boot gives each die its state, notes the image that runs, and changes nothing else (R399). -/
theorem boot_eq (s : State) (ok : Bool) (image : List (BitVec 8)) : ∃ m,
    s.boot ok image = { s with pkg := { s.pkg with
      dies := m, recovery := !ok, version := if ok then imageVersion image else s.pkg.version,
      image := if ok then image else s.pkg.image } } ∧
    ∀ d < 8, sget .online m d = bootedDie s ok := by
  cases ok with
  | true =>
    obtain ⟨m, e, h⟩ := foldl_putDie (List.range 8) s fun _ => .online
    refine ⟨m, ?_, fun d hd => (h d).trans (if_pos (List.mem_range.2 hd))⟩
    simp only [State.boot, if_true, e, Bool.not_true]
  | false =>
    obtain ⟨m, e, h⟩ := foldl_putDie (List.range 8) s .resetting
    refine ⟨m, ?_, fun d hd => (h d).trans (if_pos (List.mem_range.2 hd))⟩
    simp only [State.boot, Bool.false_eq_true, if_false, e, Bool.not_false]

/-- An attempt to boot reaches no memory. -/
theorem boot_badPa (s : State) (ok : Bool) (image : List (BitVec 8)) : (s.boot ok image).badPa = s.badPa := by
  obtain ⟨m, e, -⟩ := boot_eq s ok image
  rw [e]

/-- An image that meets every check runs (R399). -/
theorem boot_booted (s : State) {image sig1 sig2 : List (BitVec 8)} (h : Accepted image sig1 sig2) :
    Booted (s.boot (imageOk image sig1 sig2) image) image := by
  rw [show imageOk image sig1 sig2 = true from h]
  obtain ⟨m, e, hd⟩ := boot_eq s true image
  rw [e]
  exact ⟨rfl, rfl, rfl, hd⟩

/-- One that fails a check leaves the package in recovery (R399). -/
theorem boot_inRecovery (s : State) {image sig1 sig2 : List (BitVec 8)} (h : ¬ Accepted image sig1 sig2) :
    InRecovery (s.boot (imageOk image sig1 sig2) image) := by
  rw [show imageOk image sig1 sig2 = false from Bool.eq_false_iff.2 h]
  obtain ⟨m, e, hd⟩ := boot_eq s false image
  rw [e]
  exact ⟨rfl, hd⟩

end Sys2Proof.Machine

namespace Sys2Proof.Slice0

/-- R14, R382, R392, R399: a package reset comes to the boot of the reset package. -/
theorem packageReset_boots (s : State) (image sig1 sig2 : List (BitVec 8)) :
    exec (.packageReset image sig1 sig2) s = .next (s.rebooted.boot (imageOk image sig1 sig2) image) :=
  answer_real (boot_badPa ..)

/-- R383: memory of the device reads as never written after a loss of power; the host's memory is as it was. -/
theorem powerLoss_memory (s : State) : ∃ s', exec .powerLoss s = .next s' ∧ s'.waves = [] ∧ s'.crews = [] ∧ s'.fns = [] ∧
    s'.pkg.strong = s.pkg.strong ∧ s'.pkg.hist = s.pkg.hist ∧ s'.pkg.gath = [] ∧
    ∀ a, s'.ms.phys.byte a = if 2 ^ 55 ≤ a then s.ms.phys.byte a else unwritten := by
  rw [show exec .powerLoss s = execPowerLoss s from rfl, execPowerLoss]
  refine ⟨_, answer_real rfl, rfl, rfl, rfl, rfl, rfl, rfl, fun a => ?_⟩
  have := slook_filter_key (fun k => decide (2 ^ 55 ≤ k)) s.ms.phys.cells a
  simp only [Mem.byte, sget, this, decide_eq_true_eq]
  split <;> rfl

/-- R399, R400: FWLOAD comes to the boot of the package whose partitions were reset, and its STATUS. -/
theorem fwload_boots {s : State} (image sig1 sig2 : List (BitVec 8))
    (h : ((List.range 8).foldl State.failPartition s).badPa = none) :
    exec (.fwload image sig1 sig2) s = .next ((((List.range 8).foldl State.failPartition s).boot
      (imageOk image sig1 sig2) image).mgmtDone (if imageOk image sig1 sig2 then 0 else 2)) :=
  answer_real ((boot_badPa ..).trans h)

theorem exec_histread (n : Nat) (s : State) : exec (.histread n) s = execHistread n s := rfl

/-- R400: HISTREAD of a number that names no histogram, or in recovery, is refused. -/
theorem histread_refused {s : State} (hs : s.badPa = none) {n : Nat} (h : s.pkg.recovery = true ∨ 98312 ≤ n) :
    exec (.histread n) s = .next (s.mgmtDone 2) := by
  have hc : (s.pkg.recovery || decide (histArray 8 ≤ n)) = true := by
    rw [Bool.or_eq_true, decide_eq_true_eq]; exact h
  rw [exec_histread, execHistread, if_pos hc]
  exact answer_real hs

/-- R400: HISTREAD writes the histogram to the buffer, and nothing else of memory. -/
theorem histread_writes {s : State} (hs : s.badPa = none) {n : Nat} (hr : s.pkg.recovery = false) (hn : n < 98312)
    (h4 : s.mgmtBuf % 4 = 0) (hb : s.mgmtBuf + 8 ≤ 2 ^ 56) : ∃ s', exec (.histread n) s = .next s' ∧
      s'.fnReg 0 0x400 = (s.mgmtDone 0).fnReg 0 0x400 ∧ s'.ms.phys.nat s.mgmtBuf 8 = (sget 0 s.pkg.hist n).toNat ∧
      ∀ a, a < s.mgmtBuf ∨ s.mgmtBuf + 8 ≤ a → s'.ms.phys.byte a = s.ms.phys.byte a := by
  have hc : (s.pkg.recovery || decide (histArray 8 ≤ n)) = false := by
    rw [hr, Bool.false_or, decide_eq_false_iff_not]; exact Nat.not_le.2 hn
  have hp : physOk s.mgmtBuf = true := by
    have hlow : 2 ^ 55 ≤ s.mgmtBuf := Nat.le_add_right _ _
    simp only [physOk, Bool.or_eq_true, Bool.and_eq_true, decide_eq_true_eq]
    omega
  obtain ⟨m, e, hnat, hout⟩ := devWrite64_eq s hp h4 (sget 0 s.pkg.hist n)
  refine ⟨({ s with ms := m } : State).mgmtDone 0, ?_, rfl, hnat, hout⟩
  rw [exec_histread, execHistread, hc, if_neg Bool.false_ne_true, e]
  exact answer_real hs

/-- R400: HISTCLEAR, with every histogram and what was gathered for one gone, or refused in recovery. -/
theorem histclear_eq {s : State} (hs : s.badPa = none) : exec .histclear s = .next
    (if s.pkg.recovery then s.mgmtDone 2 else ({ s with pkg := { s.pkg with hist := [], gath := [] } } : State).mgmtDone 0) := by
  refine answer_real ?_
  split <;> exact hs

/-- R399: attestation answers outside recovery, and changes nothing beside the host's mail. -/
theorem spdmRequest_eq {s : State} (hs : s.badPa = none) (fn : Nat) (req : List (BitVec 8)) : exec (.spdmRequest fn req) s = .next
    (if s.pkg.recovery then s else { s with outbox := .spdm fn (Config.spdmAnswer s.pkg.image req) :: s.outbox }) := by
  refine answer_real ?_
  split <;> exact hs

/-- Settles O54: it holds, by what the boot of an image, a write of the device and a filter of memory come to. -/
theorem packageResult : Obligations.PackageResult := by
  intro s image sig1 sig2 hs
  refine ⟨?_, ?_, fun h => ?_, ⟨fun _ => answer_real hs, fun _ => histread_refused hs, fun _ => histread_writes hs,
    fun h => ?_, fun h => ?_⟩, fun fn req => ⟨fun h => ?_, fun h => ?_⟩⟩
  · obtain ⟨m, e, -⟩ := boot_eq s.rebooted (imageOk image sig1 sig2) image
    refine ⟨_, packageReset_boots .., ?_, ?_, ?_, ?_, ?_, ?_, ?_, ?_, ?_, ?_, boot_booted _, boot_inRecovery _⟩
    all_goals rw [e]
    all_goals rfl
  · obtain ⟨s', e, hw, hc, hf, hst, hh, hg, hb⟩ := powerLoss_memory s
    exact ⟨s', e, hw, hc, hf, hst, hh, hg, fun a ha => (hb a).trans (if_neg (by omega)), fun a ha => (hb a).trans (if_pos ha)⟩
  · refine ⟨_, fwload_boots image sig1 sig2 h, fun ha => ⟨boot_booted _ ha, ?_⟩, fun ha => ⟨boot_inRecovery _ ha, ?_⟩⟩
    · rw [mgmtDone_status _ (by split <;> decide), if_pos (show imageOk image sig1 sig2 = true from ha)]
    · rw [mgmtDone_status _ (by split <;> decide), if_neg (show ¬ imageOk image sig1 sig2 = true from ha)]
  · rw [histclear_eq hs, if_pos h]; rfl
  · rw [histclear_eq hs, h, if_neg Bool.false_ne_true]
    exact ⟨_, rfl, rfl, mgmtDone_status _ (by decide)⟩
  · rw [spdmRequest_eq hs, if_pos h]
  · rw [spdmRequest_eq hs, h, if_neg Bool.false_ne_true]
    exact ⟨_, rfl⟩

end Sys2Proof.Slice0
end

section
/-!
PROOFS. What package reset leaves (O26).
-/
open Sys2Proof Sys2Proof.Machine Sys2Proof.Slice0

namespace Sys2Proof.Machine

/-- No core has run a cycle right after package reset (R134). -/
theorem reset_clk (core : Nat) : State.reset.clk core = 0 := by
  have e : (List.replicate 384 0).getD core 0 = 0 := by
    rw [List.getD_eq_getElem?_getD, List.getElem?_replicate]
    split <;> rfl
  rw [State.clk, show State.reset.pkg.cyc = List.replicate 384 0 from rfl, e]
  rfl

/-- Every context control register reads 0 right after package reset, on every core (R394). -/
theorem reset_dbgReg (pasid core num : Nat) : State.reset.dbgReg pasid core num = 0 := by
  rw [State.dbgReg]
  split <;> rfl

end Sys2Proof.Machine

namespace Sys2Proof.Slice0

/-- Settles O26: it holds, for every map of the reset state is empty and so reads as its default. -/
theorem resetState : Obligations.ResetState :=
  ⟨rfl, rfl, rfl, rfl, rfl, rfl, rfl, rfl, rfl, rfl, rfl, reset_clk, fun c k n => ⟨rfl, reset_dbgReg c k n, rfl⟩,
    fun _ => ⟨rfl, rfl⟩, by decide, fun _ => rfl, fun _ _ => rfl, rfl, rfl, rfl, fun _ => rfl, fun _ => rfl⟩

end Sys2Proof.Slice0
end

section
/-!
PROOFS. Kicks, registrations, replays and nodes (O41), after what a route reads as once it is put or dropped, what a record in
the error log writes, and what a packet without parameters comes to.
-/
open Sys2Proof Sys2Proof.Machine Sys2Proof.Slice0

namespace Sys2Proof.Machine

/-! ## Registered routes (R73) -/

/-- Where every element that passes a test gives way to one that passes it too, the first to pass is that one. -/
theorem find?_lmod_same {l : List α} {q : α → Bool} {x y : α} (h : l.find? q = some x) (hy : q y = true) :
    (lmod l q fun _ => y).find? q = some y := by
  have e : q ∘ (fun z => if q z then y else z) = q := by
    funext z
    cases hz : q z <;> simp [hz, hy]
  rw [lmod, List.find?_map, e, h, Option.map_some, if_pos (List.find?_some h)]

/-- A registered route reads as it was put. -/
theorem route_putRoute {s : State} {fn num : Nat} {r x : Route} (h : s.route fn num = some r) (hf : x.fn = fn)
    (hn : x.num = num) : (s.putRoute x).route fn num = some x := by
  subst hf hn
  exact find?_lmod_same h (by simp)

/-- A dropped route is not registered. -/
theorem route_dropRoute (s : State) (fn num : Nat) : (s.dropRoute fn num).route fn num = none := by
  rw [State.route, State.dropRoute, List.find?_eq_none]
  intro x hx
  exact Bool.not_eq_true _ ▸ Bool.not_eq_true' _ ▸ (List.mem_filter.1 hx).2

/-- The counts, the completion object and the idle state of a route as its object describes it (R73, R74). -/
theorem routeOf_fields {fn num : Nat} {entry hdr body : List (RWord 32)} {r : Route} (h : routeOf fn num entry hdr body = some r) :
    r.nodes.length = fld (word64 hdr 0) 15 0 ∧ r.params.length = fld (word64 hdr 0) 31 16 ∧ r.rcompl = word64 entry 2 ∧
      r.queue = [] ∧ r.retiring = false := by
  dsimp only [routeOf] at h
  split at h
  · obtain rfl := Option.some.inj h
    simp
  · cases h

/-- An empty table entry empties the slot (R73). -/
theorem register_empty {s : State} {fn num : Nat} {entry : List (RWord 32)}
    (he : s.physRead ((s.fnReg fn 0x10).toNat / 64 * 64 + 32 * num) 8 = some entry) (h0 : word64 entry 0 = 0) :
    register s fn num = { s.dropRoute fn num with regPend := s.regPend.filter fun x => x != (fn, num) } := by
  simp only [register, he, h0, if_true]
  rfl

/-- A table entry and an object that are in order register their route in an empty slot; beside that, the two reads touch the
memory system (R73, R74). -/
theorem register_registers {s u v : State} {fn num : Nat} {entry hdr body : List (RWord 32)} {r : Route}
    (hs : s.route fn num = none) (he : s.physRead ((s.fnReg fn 0x10).toNat / 64 * 64 + 32 * num) 8 = some entry)
    (h0 : word64 entry 0 ≠ 0) (hz : fld (word64 entry 3) 63 20 = 0)
    (hu : s.cpRead fn (fld (word64 entry 3) 19 0) (word64 entry 0) 64 = (u, .ok hdr)) (hh : headerOk hdr = true)
    (hv : u.cpRead fn (fld (word64 entry 3) 19 0) (word64 entry 0 + 64)
      (128 * fld (word64 hdr 0) 15 0 + 8 * fld (word64 hdr 0) 31 16) = (v, .ok body))
    (hr : routeOf fn num entry hdr body = some r) :
    register s fn num = { v with
      routes := (s.dropRoute fn num).routes ++ [r], regPend := s.regPend.filter fun x => x != (fn, num) } := by
  have hm : OnlyMem s v := by
    have h1 := cpRead_onlyMem s fn (fld (word64 entry 3) 19 0) (word64 entry 0) 64
    have h2 := cpRead_onlyMem u fn (fld (word64 entry 3) 19 0) (word64 entry 0 + 64)
      (128 * fld (word64 hdr 0) 15 0 + 8 * fld (word64 hdr 0) 31 16)
    rw [hu] at h1
    rw [hv] at h2
    exact h1.trans h2
  obtain ⟨m, b, c, rfl⟩ := hm
  obtain ⟨-, -, -, hq, ht⟩ := routeOf_fields hr
  have same : { r with queue := [], retiring := false } = r := by rw [← hq, ← ht]
  simp only [register, he, h0, hz, hu, hh, hv, hr, if_false, bne_self_eq_false, Bool.false_eq_true, Bool.not_true]
  simp only [State.route] at hs
  simp only [State.route, hs, Option.map_none, Option.getD_none, same, State.dropRoute]

/-- A registration of an empty slot that waits for no page reads its entry. -/
theorem registerRoute_idle {s : State} {fn num : Nat} (h : s.route fn num = none) (hw : s.cpWaits fn (.reg num) = false) :
    registerRoute s fn num = register s fn num := by
  simp only [registerRoute, h, hw, Option.bind_none, Option.isSome_none, Bool.false_eq_true, if_false]

/-- A registration waits while a replay of its route runs (R73). -/
theorem registerRoute_running {s : State} {fn num : Nat} {r : Route} (h : s.route fn num = some r) (hc : r.cur.isSome = true) :
    registerRoute s fn num =
      { s with regPend := if s.regPend.contains (fn, num) then s.regPend else s.regPend ++ [(fn, num)] } := by
  simp only [registerRoute, h, Option.bind_some, hc, if_true]

theorem exec_rcmdRegister {fn num : Nat} (h : num < 1024) (s : State) :
    exec (.rcmdRegister fn num) s = answer (registerRoute s fn num) :=
  congrArg (fun n => answer (registerRoute s fn n)) (Nat.mod_eq_of_lt h)

/-- RCMD_RETIRE of a registered route marks it, and drops it where nothing of it is left (R73). -/
theorem exec_rcmdRetire {s : State} {fn num : Nat} {r : Route} (hn : num < 1024) (h : s.route fn num = some r) (hf : r.fn = fn)
    (hr : r.num = num) : exec (.rcmdRetire fn num) s = answer (
      if r.cur.isNone && r.queue.isEmpty then (s.putRoute { r with retiring := true }).dropRoute fn num
      else s.putRoute { r with retiring := true }) := by
  have e : (s.putRoute { r with retiring := true }).route fn num = some { r with retiring := true } := route_putRoute h hf hr
  change execRcmdRetire fn num s = _
  simp only [execRcmdRetire, Nat.mod_eq_of_lt hn, h, State.tidyRoute, e, Bool.true_and]

/-! ## Kicks (R77 to R80) -/

/-- A kick that patches parameters of its route and finds room is queued. -/
theorem acceptKick_queued {s : State} {r : Route} {value : BitVec 64} {tbl : List (BitVec 64 × BitVec 64)}
    (ht : (tbl.all fun e => e.1.toNat < r.params.length) = true) (hq : r.queue.length < if r.cur.isSome then 8 else 9) :
    acceptKick s r value tbl = s.putRoute { r with queue := r.queue ++
      [{ seq := value.extractLsb' 16 16, slot := fld value 15 10, patches := tbl.map fun e => (e.1.toNat, e.2) }] } := by
  have hp : (tbl.any fun e => decide (r.params.length ≤ e.1.toNat)) = false := by
    rw [List.any_eq_false]
    intro e he
    simpa using List.all_eq_true.1 ht e he
  simp only [acceptKick, hp, Bool.false_eq_true, if_false, if_neg (Nat.not_le.2 hq)]

/-- A kick of a route whose patch table matches is accepted. -/
theorem exec_kick_match {s u : State} {fn : Nat} {value : BitVec 64} {r : Route} {tbl : List (BitVec 64 × BitVec 64)}
    (hr : s.route fn (fld value 9 0) = some r) (ht : patchTable s r value = (u, .ok (some tbl))) :
    exec (.kick fn 64 value) s = answer (acceptKick u r value tbl) := by
  change execKick fn 64 value s = _
  simp only [execKick, hr, ht, bne_self_eq_false, Bool.false_eq_true, if_false]

/-- A kick of a route whose patch table does not match is kept, to read it again 250 ns later. -/
theorem exec_kick_miss {s u : State} {fn : Nat} {value : BitVec 64} {r : Route}
    (hr : s.route fn (fld value 9 0) = some r) (ht : patchTable s r value = (u, .ok none)) :
    exec (.kick fn 64 value) s = answer { u with
      tries := u.tries ++ [{ h := u.nextH, fn := fn, value := value, tries := 0, next := u.ptime + 250 }],
      nextH := u.nextH + 1 } := by
  change execKick fn 64 value s = _
  simp only [execKick, hr, ht, bne_self_eq_false, Bool.false_eq_true, if_false]

section
variable {s u : State} {k : KickTry} {r : Route} (hk : s.tries = [k]) (hn : k.next.toNat ≤ s.ptime.toNat)
  (hw : s.cpWaits k.fn (.kick k.h) = false) (hr : s.route k.fn (fld k.value 9 0) = some r)
include hk hn hw hr

/-- A due reread of a patch table that matches now accepts the kick. -/
theorem exec_kickReread_match {tbl : List (BitVec 64 × BitVec 64)} (ht : patchTable s r k.value = (u, .ok (some tbl))) :
    exec (.kickReread k.fn 0) s = answer (acceptKick (u.dropTry k) r k.value tbl) := by
  change execKickReread k.fn 0 s = _
  simp only [execKickReread, hk, List.getElem?_cons_zero, hw, hr, ht, bne_self_eq_false, decide_eq_false (Nat.not_lt.2 hn),
    Bool.or_self, Bool.false_eq_true, if_false]

/-- A due reread of a patch table that still does not match is a miss. -/
theorem exec_kickReread_miss (ht : patchTable s r k.value = (u, .ok none)) :
    exec (.kickReread k.fn 0) s = answer (u.kickMiss k) := by
  change execKickReread k.fn 0 s = _
  simp only [execKickReread, hk, List.getElem?_cons_zero, hw, hr, ht, bne_self_eq_false, decide_eq_false (Nat.not_lt.2 hn),
    Bool.or_self, Bool.false_eq_true, if_false]

end

/-! ## Records of 64-bit values, and the error log (R396) -/

/-- A number in memory is that of its bytes. -/
theorem nat_congr {m m' : Mem} {a n : Nat} (h : ∀ i < n, m.byte (a + i) = m'.byte (a + i)) : m.nat a n = m'.nat a n :=
  congrArg leNat (List.map_congr_left fun i hi => h i (List.mem_range.1 hi))

theorem length_flatMap_two (xs : List (BitVec 64)) : (xs.flatMap two).length = 2 * xs.length := by
  induction xs with
  | nil => rfl
  | cons x xs ih => simp only [List.flatMap_cons, List.length_append, ih, two, List.length_cons, List.length_nil]; omega

/-- Each 64-bit value of a record just written reads back. -/
theorem putWords_record_nat {xs : List (BitVec 64)} {m : Mem} {w i : Nat} {x : BitVec 64} (h : xs[i]? = some x) :
    (m.putWords w (xs.flatMap two)).nat (4 * w + 8 * i) 8 = x.toNat := by
  induction xs generalizing m w i with
  | nil => cases h
  | cons y ys ih =>
    have e : m.putWords w ((y :: ys).flatMap two) = (m.putWords w (two y)).putWords (w + 2) (ys.flatMap two) := rfl
    rw [e]
    cases i with
    | zero =>
      obtain rfl := Option.some.inj h
      exact (nat_congr fun i hi => putWords_byte_outside (by omega)).trans (putWords_two_nat m w y)
    | succ i =>
      have := ih (m := m.putWords w (two y)) (w := w + 2) h
      rwa [show 4 * (w + 2) + 8 * i = 4 * w + 8 * (i + 1) by omega] at this

/-- A record that the device writes at an address that names memory stands there, the rest of memory is as it was, and nothing
but the memory system changes (R327). -/
theorem devWrite_record (s : State) {pa : Nat} (hp : physOk pa = true) (h4 : pa % 4 = 0) (xs : List (BitVec 64)) :
    ∃ m, s.devWrite pa (xs.flatMap two) = { s with ms := m } ∧
      (∀ i x, xs[i]? = some x → m.phys.nat (pa + 8 * i) 8 = x.toNat) ∧
      ∀ a, a < pa ∨ pa + 8 * xs.length ≤ a → m.phys.byte a = s.ms.phys.byte a := by
  obtain ⟨m, e, hm⟩ := announceAll_keeps_phys s pa (4 * (xs.flatMap two).length)
  have ht : s.touch pa = s := if_pos hp
  have hpa : 4 * (pa / 4) = pa := by omega
  simp only [State.devWrite, ht, e]
  refine ⟨_, rfl, fun i x hx => ?_, fun a ha => ?_⟩
  · have := putWords_record_nat (m := m.phys) (w := pa / 4) hx
    rw [hpa] at this
    simpa only [Mem.nat, foldl_putPair_byte] using this
  · rw [foldl_putPair_byte, putWords_byte_outside (by rw [length_flatMap_two]; omega), hm]

/-- The error log of a function takes a record: it stands in device HBM and is not full (R392, R396). -/
structure LogOpen (s : State) (fn : Nat) : Prop where
  enabled : (s.fnReg fn 0x20).toNat / 2 ^ 17 * 2 ^ 17 ≠ 0
  real : physOk ((s.fnReg fn 0x20).toNat / 2 ^ 17 * 2 ^ 17) = true
  device : isHost ((s.fnReg fn 0x20).toNat / 2 ^ 17 * 2 ^ 17) = false
  room : (fld (s.fnReg fn 0x28) 23 0 + 2 ^ 24 - fld (s.fnReg fn 0x28) 47 24) % 2 ^ 24 ≠ 1024

/-- Where the next record of the error log of a function is written (R396). -/
def State.logSlot (s : State) (fn : Nat) : Nat :=
  (s.fnReg fn 0x20).toNat / 2 ^ 17 * 2 ^ 17 + 128 * (fld (s.fnReg fn 0x28) 23 0 % 1024)

/-- The record of a launch error, which names no crew and no trap (R81, R396). -/
def launchRecord (code : Nat) (now : BitVec 64) (route : Nat) (seq : BitVec 16) (node : Nat) : List (BitVec 64) :=
  BitVec.ofNat 64 code :: ((0 : BitVec 16) ++ BitVec.ofNat 16 node ++ seq ++ BitVec.ofNat 16 route) :: now :: List.replicate 13 0

/-- A launch error whose log takes it writes its record, moves the write index on, and tells the host (R81, R396). -/
theorem launchError_open {s : State} {fn : Nat} (h : LogOpen s fn) (code route : Nat) (seq : BitVec 16) (node : Nat) :
    s.launchError fn code route seq node =
      let u := (s.devWrite (s.logSlot fn) ((launchRecord code s.ptime route seq node).flatMap two)).setFnReg fn 0x28
        (setFld (s.fnReg fn 0x28) 23 0 ((fld (s.fnReg fn 0x28) 23 0 + 1) % 2 ^ 24))
      { u with outbox := .msix fn 0 :: u.outbox } := by
  obtain ⟨h0, hp, hh, hr⟩ := h
  have first : (0 : BitVec 32).toNat * 2 ^ 32 + 0 * 2 ^ 15 + 0 * 2 ^ 12 + 0 * 2 ^ 8 + code = code := by simp
  simp only [State.launchError, State.logError, decide_eq_false h0, hp, hh, Bool.not_true, Bool.or_self, Bool.false_eq_true,
    if_false, if_neg hr, first]
  rfl

/-- A disabled log takes no record (R392, R396). -/
theorem launchError_disabled {s : State} {fn : Nat} (h : s.fnReg fn 0x20 = 0) (code route : Nat) (seq : BitVec 16) (node : Nat) :
    s.launchError fn code route seq node = s := by
  have base : (0 : BitVec 64).toNat / 2 ^ 17 * 2 ^ 17 = 0 := by simp
  simp only [State.launchError, State.logError, h, base, decide_true, Bool.true_or, if_true]

/-! ## Replays (R75, R76, R80) -/

/-- A replay with a node that runs or is to begin does not end (R76). -/
theorem endReplay_going {s : State} {fn num : Nat} {r : Route} {rp : Replay} (h : s.route fn num = some r) (hc : r.cur = some rp)
    (hg : rp.ready ≠ [] ∨ rp.running ≠ []) : s.endReplay fn num = s := by
  have hb : (!rp.ready.isEmpty || !rp.running.isEmpty) = true := by simpa using hg
  simp only [State.endReplay, h, hc, hb, Bool.true_or, if_true]

/-- A field of a word that is given its own bits keeps the word. -/
theorem setFld_self (x : BitVec n) (hi lo : Nat) : setFld x hi lo (x.extractLsb' lo (hi + 1 - lo)).toNat = x := by
  refine BitVec.eq_of_getLsbD_eq fun j hj => ?_
  simp only [setFld, BitVec.getLsbD_or, BitVec.getLsbD_and, BitVec.getLsbD_not, BitVec.getLsbD_ofNat, Nat.testBit_mul_two_pow,
    Nat.testBit_two_pow_sub_one, BitVec.testBit_toNat, BitVec.getLsbD_extractLsb', hj, decide_true, Bool.true_and]
  by_cases hl : lo ≤ j
  · rw [Nat.add_sub_cancel' hl, decide_eq_true hl]
    cases x.getLsbD j <;> cases decide (j - lo < hi + 1 - lo) <;> rfl
  · rw [decide_eq_false hl]
    cases x.getLsbD j <;> rfl

/-- An address field that is no reference stands for itself (R70). -/
theorem Replay.field_plain (rp : Replay) {a : BitVec 64} (h : fld a 63 60 ≠ 0xF) : rp.field a = some a := if_neg h

/-- A packet whose address fields are no references is taken as it stands (R70). -/
theorem substitute_plain (rp : Replay) {p : BitVec 512} (h : ∀ w < 8, w ≠ 0 → fld p (64 * w + 63) (64 * w + 60) ≠ 0xF) :
    substitute rp p = (p, true) := by
  refine List.foldlRecOn (motive := fun acc => acc = (p, true)) _ _ rfl ?_
  rintro _ rfl i hi
  have hw : i < 8 ∧ i ≠ 0 := by simp only [List.mem_cons, List.not_mem_nil, or_false] at hi; omega
  have top : fld (p.extractLsb' (64 * i) 64) 63 60 = fld p (64 * i + 63) (64 * i + 60) := by
    rw [fld_eq_extract, fld_eq_extract, extract_extract _ (by omega), show 63 + 1 - 60 = 64 * i + 63 + 1 - (64 * i + 60) by omega]
  have own : setFld p (64 * i + 63) (64 * i) (p.extractLsb' (64 * i) 64).toNat = p := by
    have := setFld_self p (64 * i + 63) (64 * i)
    rwa [show 64 * i + 63 + 1 - 64 * i = 64 by omega] at this
  have plain := rp.field_plain (a := p.extractLsb' (64 * i) 64) (by rw [top]; exact h i hw.1 hw.2)
  simp only [if_true, plain, own]

/-- NODE_BEGIN of a node that has reached its NPRED and waits for no page takes it off the ready nodes and begins it (R75). -/
theorem exec_nodeBegin {s : State} {fn num i : Nat} {r : Route} {rp : Replay} {n : Node} (h : s.route fn num = some r)
    (hc : r.cur = some rp) (hn : r.nodes[i]? = some n) (hr : i ∈ rp.ready) (hw : s.cpWaits fn (.node num i) = false) :
    exec (.nodeBegin fn num i) s =
      answer (beginNode s r { rp with ready := rp.ready.erase i, begins := rp.begins + 1 } i n) := by
  change execNodeBegin fn num i s = _
  simp only [execNodeBegin, h, hc, hn, List.contains_iff_mem.2 hr, hw, Bool.not_true, Bool.or_self, Bool.false_eq_true, if_false]

/-- The consignment of a LAUNCH node whose packet has no parameters (R70, R75). -/
def launchedCons (s : State) (r : Route) (rp : Replay) (i : Nat) (n : Node) : Cons :=
  { h := s.nextH, fn := r.fn, route := r.num, node := i, seq := rp.seq, pasid := r.pasid, packet := n.packet, st := .waiting,
    order := s.nextH, hdr := 0, obs := [], total := 0, ended := 0, failed := false, unmet := [5, 6], reread := none }

section
variable {s : State} {r0 r : Route} {rp : Replay} {i : Nat} {n : Node} (hr : s.route r.fn r.num = some r0)
  (hb : rp.begins ≤ r.maxBegin.toNat)
include hr hb

/-- A LAUNCH node makes its consignment, which is to read its dependences next (R70, R75). -/
theorem beginNode_launch (hk : n.kind = 0) (hp : substitute rp n.packet = (n.packet, true)) :
    beginNode s r rp i n = { s.putRoute { r with cur := some { rp with running := rp.running ++ [i] } } with
      cons := s.cons ++ [launchedCons s r rp i n], nextH := s.nextH + 1, agenda := s.agenda ++ [.dependenceReread s.nextH] } := by
  have going : ∀ x : Replay, x.running ≠ [] →
      (s.putRoute { r with cur := some x }).endReplay r.fn r.num = s.putRoute { r with cur := some x } := fun x hx =>
    endReplay_going (route_putRoute hr rfl rfl) rfl (.inr hx)
  have two : n.kind ≠ 2 := by omega
  have one : n.kind ≠ 1 := by omega
  simp only [beginNode, if_neg (Nat.not_lt.2 hb), if_neg two, if_neg one, hp, if_true,
    going { rp with running := rp.running ++ [i] } (by simp)]
  rfl

/-- A JOIN node arrives at its successors; where one of them is to begin then, the replay goes on (R75). -/
theorem beginNode_join (hk : n.kind = 2) (hg : (n.succs.foldl (·.arrive r.nodes ·) rp).ready ≠ []) :
    beginNode s r rp i n = s.putRoute { r with cur := some (n.succs.foldl (·.arrive r.nodes ·) rp) } := by
  have going := endReplay_going (s := s.putRoute { r with cur := some (n.succs.foldl (·.arrive r.nodes ·) rp) })
    (route_putRoute hr rfl rfl) rfl (.inl hg)
  simp only [beginNode, if_neg (Nat.not_lt.2 hb), hk, if_true]
  exact going

end

/-- The first arrival at a node of one predecessor makes it ready (R75). -/
theorem arrive_single {rp : Replay} {nodes : List Node} {j : Nat} {m : Node} (hm : nodes[j]? = some m) (hj : j ≠ 0)
    (h1 : m.npred = 1) : rp.arrive nodes j = { rp with counts := sset 0 rp.counts j 0, ready := rp.ready ++ [j] } := by
  simp only [Replay.arrive, hm, if_neg hj, h1, Nat.not_lt.2 (Nat.le_add_left 1 _), if_false]

end Sys2Proof.Machine

namespace Sys2Proof.Slice0

/-- O41, its part of kicks: one that matches is queued, at its write or at a reread, and one that does not is read again. -/
theorem kicks_hold {s : State} {fn : Nat} {value : BitVec 64} : kicks s fn value := by
  refine ⟨fun r u tbl hr _ _ ht hu hp hq => ⟨?_, ?_⟩, fun r u hr ht hu => ⟨?_, ?_⟩⟩
  · rw [exec_kick_match hr ht, acceptKick_queued hp hq]
    exact answer_real hu
  · rintro k ⟨hk, rfl, rfl, hn, hw⟩
    rw [exec_kickReread_match hk hn hw hr ht, acceptKick_queued hp hq]
    exact answer_real hu
  · rw [exec_kick_miss hr ht]
    exact answer_real hu
  · rintro k ⟨hk, rfl, rfl, hn, hw⟩ h7
    rw [exec_kickReread_miss hk hn hw hr ht, State.kickMiss, if_neg (Nat.not_le.2 h7)]
    exact answer_real hu

/-- O41, its part of RCMD_REGISTER and RCMD_RETIRE of a route that is registered (R73). -/
theorem registered_commands {s : State} (hs : s.badPa = none) {fn num : Nat} {r : Route} (hn : num < 1024)
    (h : s.route fn num = some r) (hf : r.fn = fn) (hr : r.num = num) :
    (r.cur.isSome = true → ∃ s', exec (.rcmdRegister fn num) s = .next s' ∧ (fn, num) ∈ s'.regPend ∧ s'.routes = s.routes) ∧
    (r.cur.isSome = true → exec (.rcmdRetire fn num) s = .next (s.putRoute { r with retiring := true })) ∧
    (r.cur = none → r.queue = [] → ∃ s', exec (.rcmdRetire fn num) s = .next s' ∧ s'.route fn num = none) := by
  refine ⟨fun hc => ?_, fun hc => ?_, fun hc hq => ?_⟩
  · rw [exec_rcmdRegister hn, registerRoute_running h hc]
    refine ⟨_, answer_real hs, ?_, rfl⟩
    split <;> rename_i hp
    · exact List.contains_iff_mem.1 hp
    · exact List.mem_append_right _ (List.mem_singleton_self _)
  · rw [exec_rcmdRetire hn h hf hr, Option.isNone_eq_false_iff.2 hc, Bool.false_and, if_neg Bool.false_ne_true]
    exact answer_real hs
  · rw [exec_rcmdRetire hn h hf hr, hc, hq]
    exact ⟨_, answer_real hs, route_dropRoute ..⟩

/-- O41, its part of RCMD_INVALID: the log takes a record of it (R73, R396). -/
theorem rcmdInvalid_logged {s : State} (hs : s.badPa = none) {fn : Nat} (h : LogOpen s fn) (ha : physOk (s.logSlot fn) = true)
    (value : BitVec 64) : ∃ s', exec (.rcmdInvalid fn value) s = .next s' ∧
      fld (s'.fnReg fn 0x28) 23 0 = (fld (s.fnReg fn 0x28) 23 0 + 1) % 2 ^ 24 ∧ s'.outbox = .msix fn 0 :: s.outbox ∧
      s'.ms.phys.nat (s.logSlot fn) 8 = 0x0C ∧ s'.ms.phys.nat (s.logSlot fn + 16) 8 = s.ptime.toNat ∧
      ∀ a, a < s.logSlot fn ∨ s.logSlot fn + 128 ≤ a → s'.ms.phys.byte a = s.ms.phys.byte a := by
  obtain ⟨m, e, hnat, hout⟩ := devWrite_record s ha (by rw [State.logSlot]; omega)
    (launchRecord lRouteBad s.ptime (fld value 9 0) 0 0xFFFF)
  change ∃ s', answer (s.launchError fn lRouteBad (fld value 9 0) 0 0xFFFF) = .next s' ∧ _
  rw [launchError_open h, e]
  have code := hnat 0 (BitVec.ofNat 64 lRouteBad) rfl
  rw [Nat.mul_zero, Nat.add_zero] at code
  refine ⟨_, answer_real hs, ?_, rfl, code, hnat 2 _ rfl, hout⟩
  exact (congrArg (fld · 23 0) (State.fnReg_setFnReg_same ..)).trans (fld_setFld_same _ (by omega) (Nat.mod_lt _ (by omega)))

/-- O41, its part of registrations and of commands that are none. -/
theorem registrations_hold {s : State} (hs : s.badPa = none) {fn num : Nat} {value : BitVec 64} :
    registrations s fn num value := by
  refine ⟨fun entry hn hr hw he => ⟨fun h0 => ?_, fun u v hdr body r h0 hz hu hh hv hb ho => ?_⟩,
    fun r hn h hf hr => registered_commands hs hn h hf hr, fun h0 hp hd ha hr => ?_, fun h => ?_⟩
  · rw [exec_rcmdRegister hn, registerRoute_idle hr hw, register_empty he h0]
    exact answer_real hs
  · obtain ⟨hnn, hnp, hc, -⟩ := routeOf_fields ho
    rw [exec_rcmdRegister hn, registerRoute_idle hr hw, register_registers hr he h0 hz hu hh hv ho]
    exact ⟨_, answer_real hb, rfl, hnn, hnp, hc⟩
  · exact rcmdInvalid_logged hs ⟨h0, hp, hd, hr⟩ ha value
  · change answer (s.launchError fn lRouteBad (fld value 9 0) 0 0xFFFF) = _
    rw [launchError_disabled h]
    exact answer_real hs

/-- O41, its part of replays: the oldest kick starts one, a LAUNCH node makes a consignment, and a JOIN node arrives. -/
theorem replays_hold {s : State} (hs : s.badPa = none) {fn num : Nat} {r : Route} (h : s.route fn num = some r) (hf : r.fn = fn)
    (hn : r.num = num) : replays s fn num r := by
  subst hf hn
  refine ⟨fun k rest hc hq hp => ?_, fun rp i n hc hi hm hw hb => ⟨fun hk hx => ?_, fun hk j m hj hl hnj hno h0 h1 => ?_⟩⟩
  · change execReplayStart r.fn r.num s = _
    simp only [execReplayStart, h, hc, hq, hp, Bool.false_eq_true, if_false]
    exact answer_real hs
  · rw [exec_nodeBegin h hc hi hm hw, beginNode_launch h hb hk (substitute_plain _ hx)]
    refine ⟨_, launchedCons s r _ i n, answer_real hs, rfl, rfl, rfl, rfl, rfl, rfl, rfl, rfl, rfl, ?_⟩
    exact route_putRoute h rfl rfl
  · have arrivals : n.succs.foldl (·.arrive r.nodes ·) { rp with ready := rp.ready.erase i, begins := rp.begins + 1 } =
        { rp with ready := rp.ready.erase i ++ [j], begins := rp.begins + 1, counts := sset 0 rp.counts j 0 } := by
      simp only [Node.succs, hj, hl, List.foldl_cons, List.foldl_nil, arrive_single hnj h0 h1]
      simp only [Replay.arrive, hno]
    rw [exec_nodeBegin h hc hi hm hw, beginNode_join h hb hk (by simp [arrivals]), arrivals]
    exact answer_real hs

/-- Settles O41: it holds, by what a kick, a registration and a node that begins come to. -/
theorem routeResult : Obligations.RouteResult :=
  fun _ _ hs => ⟨fun _ => kicks_hold, fun _ _ => registrations_hold hs, fun _ _ h hf hn => replays_hold hs h hf hn⟩

end Sys2Proof.Slice0
end

section
/-!
PROOFS. A caravan at its start tick that a pending abort takes away (O42).
-/
open Sys2Proof Sys2Proof.Machine Sys2Proof.Slice0

namespace Sys2Proof.Slice0

/-- A caravan that is to start at 1,000 ns. -/
def dueCav : Cav := { h := 5, cons := 4, carav := 0, st := .starting 1000, head := none, held := none }

/-- Its one crew, which is being restored and whose abort waits for the end of that (R362). -/
def dueCrew : Crew :=
  { crewAt 7 0 0 4 5 0 0 0 0 1 with st := .restoring, start := 1000, abort := some { cls := 1, code := 0x10 } }

/-- Their consignment. -/
def dueCons : Cons :=
  { h := 4, fn := 0, route := 9, node := 0, seq := 0, pasid := 0, packet := 1, st := .begun, order := 0, hdr := 0, obs := [],
    total := 1, ended := 0, failed := false, unmet := [], reread := none }

/-- The three of them at the tick. -/
def dueState : State := { State.reset with ptime := 1000, crews := [dueCrew], cons := [dueCons], cavs := [dueCav] }

/-- At the tick the abort takes effect, and the caravan ends with its last crew instead of running (R72, R353, R362). -/
theorem caravanStart_dueState : exec (.caravanStart 5) dueState =
    .next { dueState with crews := [], cavs := [], cons := [{ dueCons with failed := true, ended := 1 }] } := by
  rfl

/-- Refutes O42: a caravan that starts is said to be running then, whatever its crews; but where the abort of its last crew takes
effect at that tick the caravan has ended. -/
theorem not_consignmentResult : ¬ Obligations.ConsignmentResult := by
  intro h
  obtain ⟨-, -, start, -⟩ := (h dueState rfl).2 dueCav dueCons rfl rfl
  obtain ⟨s', e, ⟨x, hx, -⟩, -⟩ := (start 1000 rfl).2 (by decide)
  rw [show dueCav.h = 5 from rfl, caravanStart_dueState] at e
  obtain rfl := Host.Outcome.next.inj e
  exact List.not_mem_nil hx

end Sys2Proof.Slice0
end

section
/-!
PROOFS. The clock that the governor sets for a core (O44), after the cases of R96.
-/
open Sys2Proof Sys2Proof.Machine Sys2Proof.Slice0

namespace Sys2Proof.Machine

/-! ## The governor's choice (R96) -/

/-- Over the limit for four microseconds: one step of 75 MHz down, to 1,500 MHz at least. -/
theorem nextClock_over {overs : Nat} (h : 4 ≤ overs) (now : Nat) (bound : Bool) (live issued : Nat) :
    nextClock now overs bound live issued = max 1500 (now - 75) :=
  if_pos h

/-- The base clock: below it, over the limit, token-bound, or with no vector instruction or lanes at least three quarters live. -/
theorem nextClock_base {now overs live issued : Nat} {bound : Bool} (ho : overs < 4)
    (h : bound = true ∨ overs ≠ 0 ∨ now < 2250 ∨ issued = 0 ∨ 3 * (64 * issued) ≤ 4 * live) :
    nextClock now overs bound live issued = 2250 := by
  simp only [nextClock, if_neg (Nat.not_le.2 ho)]
  split
  · rfl
  · next hlow =>
    split
    · rfl
    · next hfree =>
      refine if_pos ?_
      simp only [Bool.and_eq_true, decide_eq_true_eq, not_and, Nat.not_lt] at hlow
      simp only [Bool.or_eq_true, bne_iff_ne, not_or, Bool.not_eq_true, Decidable.not_not] at hfree
      obtain ⟨hb, h0⟩ := hfree
      rcases h with h | h | h | h
      · simp [hb] at h
      · exact absurd h0 h
      · exact absurd (hlow h0) (Nat.not_le.2 h)
      · simp only [Bool.or_eq_true, decide_eq_true_eq]; omega

/-- A core at the base clock or above, not bound, with less than three quarters of its lanes live, is judged by these alone. -/
theorem nextClock_free {now live issued : Nat} (hn : 2250 ≤ now) (hl : live < 48 * issued) :
    nextClock now 0 false live issued = if 32 * issued ≤ live then 2475 else 2700 := by
  have low : ¬ now < 2250 := Nat.not_lt.2 hn
  have busy : ¬ (issued = 0 ∨ 48 * issued ≤ live) := by omega
  simp [nextClock, low, busy]

end Sys2Proof.Machine

namespace Sys2Proof.Slice0

/-- The state after the governor of a core has set its clock. -/
def governed (s : State) (core mhz : Nat) : State :=
  { s with pkg := { s.pkg with
    mhz := sset 2250 s.pkg.mhz core mhz, gov := sset 0 s.pkg.gov core (sget 0 s.pkg.gov core + 1) } }

theorem governed_clock_same (s : State) (core mhz : Nat) : (governed s core mhz).clock core = mhz := sget_sset_same

theorem governed_clock_ne (s : State) {core c : Nat} (h : c ≠ core) (mhz : Nat) : (governed s core mhz).clock c = s.clock c :=
  sget_sset_ne h

theorem governed_gov (s : State) (core mhz : Nat) : sget 0 (governed s core mhz).pkg.gov core = sget 0 s.pkg.gov core + 1 := by
  simp only [governed, sget_sset_same]

theorem exec_governorStep_notDue {s : State} (hs : s.badPa = none) {core : Nat} (h : s.pkg.refilled ≤ sget 0 s.pkg.gov core)
    (live issued : Nat) : exec (.governorStep core live issued) s = .next s :=
  (congrArg answer (if_pos h)).trans (answer_real hs)

theorem exec_governorStep_due {s : State} (hs : s.badPa = none) {core : Nat} (h : sget 0 s.pkg.gov core < s.pkg.refilled)
    (live issued : Nat) : exec (.governorStep core live issued) s = .next (governed s core
      (nextClock (s.clock core) s.pkg.overs (s.pkg.wasBound.getLsbD (core / 48)) live issued)) :=
  (congrArg answer (if_neg (Nat.not_le.2 h))).trans (answer_real hs)

/-- Settles O44: it holds, by the cases of the governor's choice. -/
theorem governorResult : Obligations.GovernorResult := by
  intro s core live issued hs now bound
  refine ⟨fun h => exec_governorStep_notDue hs h _ _, fun h => ⟨_, exec_governorStep_due hs h _ _, ?_⟩⟩
  simp only [governed_clock_same]
  refine ⟨fun ho => nextClock_over ho .., fun ho hc => nextClock_base ho hc, fun ho hb hn _ hl => ?_,
    fun ho hb hn hl hu => ?_, fun c hc => governed_clock_ne s hc _, governed_gov ..,  rfl, rfl⟩
  · rw [ho, show s.pkg.wasBound.getLsbD (core / 48) = false from hb, nextClock_free hn (by omega), if_neg (by omega)]
  · rw [ho, show s.pkg.wasBound.getLsbD (core / 48) = false from hb, nextClock_free hn (by omega), if_pos (by omega)]

end Sys2Proof.Slice0
end

section
/-!
PROOFS. The oldest pass of a quad (O37), after what sparse maps made from functions and folded sums read as.
-/
open Sys2Proof Sys2Proof.Machine Sys2Proof.Slice0

namespace Sys2Proof.Machine

/-! ## Maps made from functions -/

/-- The listed entries of a map that a function fills. -/
theorem slook_filterMap_of [DecidableEq α] (d : α) (g : Nat → α) (l : List Nat) (k : Nat) :
    slook (l.filterMap fun i => if g i = d then none else some (i, g i)) k =
      if k ∈ l ∧ g k ≠ d then some (g k) else none := by
  induction l with
  | nil => simp [slook]
  | cons i l ih =>
    by_cases hg : g i = d
    · simp only [List.filterMap_cons, if_pos hg, ih, List.mem_cons]
      by_cases hk : k = i
      · subst hk; simp only [hg, ne_eq, not_true_eq_false, and_false]
      · simp only [hk, false_or]
    · simp only [List.filterMap_cons, if_neg hg, slook, ih]
      by_cases hk : i = k
      · subst hk; simp [hg]
      · simp [hk, Ne.symm hk]

/-- A map filled from a function reads as the function below its bound. -/
theorem sget_mapOf [DecidableEq α] (d : α) (g : Nat → α) {n k : Nat} (h : k < n) : sget d (mapOf d n g) k = g k := by
  rw [sget, mapOf, slook_filterMap_of]
  by_cases hg : g k = d
  · simp [hg]
  · simp [h, hg]

/-- A map whose entries are all replaced under their keys reads as the replaced entry. -/
theorem slook_map_key {g : Nat × α → Nat × α} (h : ∀ x, (g x).1 = x.1) (m : SMap α) (k : Nat) :
    slook (m.map g) k = (slook m k).map fun v => (g (k, v)).2 := by
  induction m with
  | nil => rfl
  | cons x m ih =>
    obtain ⟨j, v⟩ := x
    simp only [List.map_cons, slook, ih, h]
    split
    · next e => subst e; rfl
    · rfl

/-- A map whose values are all replaced reads as the replaced value, where the default stays. -/
theorem sget_map_snd {d : α} {g : α → α} (h : g d = d) (m : SMap α) (k : Nat) :
    sget d (m.map fun x => (x.1, g x.2)) k = g (sget d m k) := by
  have key := slook_map_key (g := fun x : Nat × α => (x.1, g x.2)) (fun _ => rfl) m k
  rw [sget, key, sget]
  cases slook m k with
  | none => exact h.symm
  | some v => rfl

/-! ## Elements of a tile (R288, R296, R300) -/

/-- No number has the residue code that marks poison (R37). -/
theorem res_ne_poison (x : Nat) : res x ≠ 15 := by
  intro h
  have e := congrArg BitVec.toNat h
  have small : x % 15 < 15 := Nat.mod_lt _ (by decide)
  rw [res, BitVec.toNat_ofNat, Nat.mod_eq_of_lt (Nat.lt_trans small (by decide))] at e
  exact Nat.ne_of_lt small e

/-- An element that passes its check, or is poison, is read as it is stored (R300). -/
theorem scan_elem {t : Tile} {r n : Nat} (h : (t.elem r n).res = 15 ∨ (t.elem r n).res = res (t.elem r n).e.toNat) :
    t.scan.elem r n = t.elem r n := by
  refine (sget_map_snd (g := fun e : Elem => if e.res == 15 || e.res == res e.e.toNat then e else { e with res := 15 }) (by decide)
    t.elems (64 * r + n)).trans (if_pos ?_)
  rw [Bool.or_eq_true, beq_iff_eq, beq_iff_eq]
  exact h

/-- What fits in `w` bits of two's complement is not clamped. -/
theorem clampTo_fits {w : Nat} {x : Int} (lo : -(2 ^ (w - 1) : Int) ≤ x) (hi : x < 2 ^ (w - 1)) :
    clampTo w x = (BitVec.ofInt w x, false) := by
  have hlo : ¬ x < -(2 ^ (w - 1) : Int) := by omega
  have hhi : ¬ (2 ^ (w - 1) - 1 : Int) < x := by omega
  simp only [clampTo, Int.min_eq_right (show x ≤ 2 ^ (w - 1) - 1 by omega), Int.max_eq_right lo, hlo, hhi, decide_false, Bool.or_self]

/-- An element that holds the exact number `x`, with the marks of `e0`. -/
structure Elem.Holds (e0 : Elem) (x : Int) (e : Elem) : Prop where
  sum  : e.e.toInt = x
  spec : e.spec = e0.spec
  ovf  : e.ovf = e0.ovf
  res  : e.res = e0.res

/-- The numbers that an element holds (R288). -/
def FitsElem (x : Int) : Prop := -(2 ^ 127 : Int) ≤ x ∧ x < 2 ^ 127

theorem clampTo_elem {x : Int} (h : FitsElem x) : clampTo 128 x = (BitVec.ofInt 128 x, false) := clampTo_fits h.1 h.2

theorem toInt_ofInt_elem {x : Int} (h : FitsElem x) : (BitVec.ofInt 128 x).toInt = x :=
  BitVec.toInt_ofInt_eq_self (by decide) h.1 h.2

/-- A finite value, truncated to the window, is added exactly where the sum fits (R296). -/
theorem Elem.Holds.add {e0 e : Elem} {x : Int} (h : e0.Holds x e) {lsb : Int} {y : FV} (hy : specOf y = 0)
    (hf : FitsElem (x + (toWindow lsb y).1)) : e0.Holds (x + (toWindow lsb y).1) (e.add lsb y) := by
  obtain ⟨rfl, hs, ho, hr⟩ := h
  simp only [Elem.add, hy, bne_self_eq_false, Bool.false_eq_true, if_false, clampTo_elem hf, Bool.or_false]
  exact ⟨toInt_ofInt_elem hf, hs, ho, hr⟩

/-- The truncated product of two operand values, in units of the tile's lowest bit (R296). -/
def windowed (lsb sh : Int) (x : FV × FV) : Int := (toWindow lsb ((x.1.mul x.2).scale sh)).1

/-- Products are added exactly to an element where no sum on the way leaves it (R296). -/
theorem Elem.Holds.foldl_add {e0 : Elem} (lsb sh : Int) (l : List (FV × FV)) {e : Elem} {x : Int} (h : e0.Holds x e)
    (hs : ∀ y ∈ l, specOf ((y.1.mul y.2).scale sh) = 0)
    (hf : ∀ k ≤ l.length, FitsElem ((l.take k).foldl (fun a y => a + windowed lsb sh y) x)) :
    e0.Holds (l.foldl (fun a y => a + windowed lsb sh y) x) (l.foldl (fun e y => e.add lsb ((y.1.mul y.2).scale sh)) e) := by
  induction l generalizing e x with
  | nil => exact h
  | cons y l ih =>
    refine ih (h.add (hs y List.mem_cons_self) ?_) (fun z hz => hs z (List.mem_cons_of_mem _ hz)) fun k hk => ?_
    · exact hf 1 (Nat.succ_le_succ (Nat.zero_le _))
    · exact hf (k + 1) (Nat.succ_le_succ hk)

/-- A sum that starts from a number is that number and the sum. -/
theorem foldl_add_start (f : α → Int) (l : List α) (x y : Int) :
    l.foldl (fun a z => a + f z) (x + y) = x + l.foldl (fun a z => a + f z) y := by
  induction l generalizing y with
  | nil => rfl
  | cons z l ih => rw [List.foldl_cons, List.foldl_cons, Int.add_assoc, ih]

/-- An element formed anew is poison where its row, its column or the element was (R300). -/
theorem seal_res (poison : Bool) (e : Elem) : (e.seal poison).res = 15 ↔ poison = true ∨ e.res = 15 := by
  cases poison
  · simp only [Elem.seal, Bool.false_or, beq_iff_eq, Bool.false_eq_true, false_or]
    split
    · next h => exact iff_of_true rfl h
    · next h => exact iff_of_false (res_ne_poison _) h
  · exact iff_of_true rfl (.inl rfl)

/-! ## Passes (R290, R296, R301) -/

theorem aRow_length (p : Pass) (r : Nat) : (p.aRow r).length ≤ 64 := by
  simp only [Pass.aRow, List.length_map, List.length_range, passK]
  split <;> decide

/-- Where no multiplier is faulty the pass check finds nothing (R301). -/
theorem passCheck_faultless (t : Tile) (p : Pass) : passCheck t p [] = .clean := rfl

/-- The element of a tile after the products of its row and column of a pass are added to it as it is read. -/
def Tile.summed (t : Tile) (p : Pass) (r n : Nat) : Elem :=
  ((p.aRow r).zip (p.bCol n)).foldl (fun e x => e.add t.lsb ((x.1.mul x.2).scale p.sh.toInt)) (t.scan.elem r n)

/-- A pass without faults gives each element its sum, formed anew (R296, R300). -/
theorem addPass_elem (t : Tile) (p : Pass) {r n : Nat} (hr : r < 8) (hn : n < 64) (hf : FitsElem (t.summed p r n).e.toInt) :
    ((t.addPass p fun _ => 0).elem r n) = (t.summed p r n).seal (p.aBad r || p.bBad n) := by
  have hrow : (64 * r + n) / 64 = r := by omega
  have hcol : (64 * r + n) % 64 = n := by omega
  have row : ((List.range 8).map p.aRow).getD r [] = p.aRow r := by simp [hr]
  have col : ((List.range 64).map p.bCol).getD n [] = p.bCol n := by simp [hn]
  rw [Tile.elem, Tile.addPass, sget_mapOf _ _ (show 64 * r + n < 512 by omega)]
  simp only [hrow, hcol, row, col, Int.add_zero]
  change Elem.seal _ { t.summed p r n with
    e := (clampTo 128 (t.summed p r n).e.toInt).1
    ovf := (t.summed p r n).ovf || (clampTo 128 (t.summed p r n).e.toInt).2 } = _
  rw [clampTo_elem hf, BitVec.ofInt_toInt, Bool.or_false]

theorem addPass_anchor (t : Tile) (p : Pass) (extra : Nat → Int) : (t.addPass p extra).anchor = t.anchor := by
  unfold Tile.addPass
  rfl

/-- The oldest pass of a quad is added to its tile, where no multiplier is faulty (R298, R301). -/
theorem runPass_faultless {s : State} {p : Pass} {rest : List Pass} {w : Wave} (hp : s.passes = p :: rest)
    (hw : s.wave p.wk = some w) : runPass s 0 [] =
      ({ s with passes := rest } : State).putWave p.wk (w.setTile p.tile ((w.tile p.tile).addPass p fun _ => 0)) := by
  simp only [runPass, hp, List.getElem?_cons_zero, List.take_zero, List.any_nil, Bool.false_eq_true, if_false, hw,
    passCheck_faultless, List.filter_nil, List.foldl_nil, List.eraseIdx_cons_zero]

theorem tile_setTile_same (w : Wave) (n : Nat) (x : Tile) : (w.setTile n x).tile n = x := by
  simp only [Wave.setTile, Wave.tile, sget_sset_same]

theorem tile_setTile_ne (w : Wave) {n k : Nat} (h : k ≠ n) (x : Tile) : (w.setTile n x).tile k = w.tile k := by
  simp only [Wave.setTile, Wave.tile, sget_sset_ne h]

theorem wave_putWave_same (s : State) (wk : Nat) (w : Wave) : (s.putWave wk w).wave wk = some w := slook_sput_same

end Sys2Proof.Machine

namespace Sys2Proof.Slice0

/-- An element that is read as it is stored, of a row and column whose products are finite and whose sums all fit, after a pass. -/
theorem addPass_exact {t : Tile} {p : Pass} {r n : Nat} (hr : r < 8) (hn : n < 64)
    (hc : (t.elem r n).res = 15 ∨ (t.elem r n).res = res (t.elem r n).e.toNat)
    (hs : ∀ x ∈ (p.aRow r).zip (p.bCol n), specOf ((x.1.mul x.2).scale p.sh.toInt) = 0)
    (hf : ∀ k ≤ 64, FitsElem ((t.elem r n).e.toInt + partial' t.lsb p r n k)) :
    let e := t.elem r n
    let e' := (t.addPass p fun _ => 0).elem r n
    e'.e.toInt = e.e.toInt + partial' t.lsb p r n 64 ∧ e'.spec = e.spec ∧ e'.ovf = e.ovf ∧
      (e'.res = 15 ↔ p.aBad r = true ∨ p.bBad n = true ∨ e.res = 15) := by
  have len : ((p.aRow r).zip (p.bCol n)).length ≤ 64 := by
    rw [List.length_zip]
    exact Nat.le_trans (Nat.min_le_left _ _) (aRow_length p r)
  have start : ∀ k, (((p.aRow r).zip (p.bCol n)).take k).foldl (fun a x => a + windowed t.lsb p.sh.toInt x) (t.elem r n).e.toInt =
      (t.elem r n).e.toInt + partial' t.lsb p r n k := fun k => by
    have := foldl_add_start (windowed t.lsb p.sh.toInt) (((p.aRow r).zip (p.bCol n)).take k) (t.elem r n).e.toInt 0
    rwa [Int.add_zero] at this
  obtain ⟨hsum, hspec, hovf, hres⟩ : (t.elem r n).Holds ((t.elem r n).e.toInt + partial' t.lsb p r n 64) (t.summed p r n) := by
    have stored : (t.elem r n).Holds (t.elem r n).e.toInt (t.elem r n) := ⟨rfl, rfl, rfl, rfl⟩
    rw [Tile.summed, scan_elem hc, ← start 64, List.take_of_length_le len]
    exact stored.foldl_add _ _ _ hs fun k hk => start k ▸ hf k (Nat.le_trans hk len)
  simp only [addPass_elem t p hr hn (hsum ▸ hf 64 (Nat.le_refl _)), seal_res, hres, Bool.or_eq_true, or_assoc, iff_self, and_true]
  exact ⟨hsum, hspec, hovf⟩

/-- O37, its part of passes: the oldest pass, faultless, adds its products to the elements of its tile. -/
theorem matrixPassResult : MatrixPassResult := by
  intro s p rest w hp hs hw
  have e : exec (.matrixPass 0 []) s = .next (({ s with passes := rest } : State).putWave p.wk
      (w.setTile p.tile ((w.tile p.tile).addPass p fun _ => 0))) :=
    (congrArg answer (runPass_faultless hp hw)).trans (answer_real hs)
  refine ⟨_, _, e, rfl, wave_putWave_same .., rfl, rfl, rfl, rfl, fun n hn => tile_setTile_ne w hn _, ?_, ?_⟩
  all_goals rw [tile_setTile_same]
  · exact addPass_anchor ..
  · exact fun r hr n hn => addPass_exact hr hn

end Sys2Proof.Slice0
end

section
/-!
PROOFS. An MMA of register operands (O37), after the passes that it forms of its operands as they stand.
-/
open Sys2Proof Sys2Proof.Machine Sys2Proof.Slice0

namespace Sys2Proof.Machine

/-! ## Lists of equal blocks -/

theorem length_flatMap_blocks (m b : Nat) (g : Nat → Nat → α) :
    ((List.range m).flatMap fun i => (List.range b).map (g i)).length = b * m := by
  induction m with
  | zero => rfl
  | succ m ih =>
    rw [List.range_succ, List.flatMap_append, List.length_append, ih, List.flatMap_singleton, List.length_map, List.length_range,
      Nat.mul_succ]

/-- An entry of blocks of one length put end to end is the entry of its block. -/
theorem getD_flatMap_blocks {m b n w : Nat} (g : Nat → Nat → α) (hn : n < m) (hw : w < b) (d : α) :
    ((List.range m).flatMap fun i => (List.range b).map (g i)).getD (b * n + w) d = g n w := by
  induction m with
  | zero => cases hn
  | succ m ih =>
    have len := length_flatMap_blocks m b g
    rw [List.range_succ, List.flatMap_append, List.flatMap_singleton, List.getD_eq_getElem?_getD]
    rcases Nat.lt_succ_iff_lt_or_eq.1 hn with hn | rfl
    · have before : b * n + w < b * m := Nat.lt_of_lt_of_le (Nat.add_lt_add_left hw _) (Nat.mul_le_mul_left b hn)
      rw [List.getElem?_append_left (by rw [len]; exact before), ← List.getD_eq_getElem?_getD, ih hn]
    · rw [List.getElem?_append_right (by rw [len]; exact Nat.le_add_right _ _), len, Nat.add_sub_cancel_left, List.getElem?_map,
        List.getElem?_range hw]
      rfl

/-! ## Passes of register operands (R296, R299) -/

/-- The words of zero value pass their check. -/
theorem sound_zeroWord (ty : BitVec 5) : sound (zeroWord ty) = true := by
  rw [zeroWord]
  split <;> decide

theorem octTiles_eq (f : Fields) : octTiles f = tilesOf f := by
  have e : lanesOf (xOctm f) = (List.range 8).filter fun i => f.hi.getLsbD i := by
    refine List.filter_congr fun i hi => ?_
    simp [xOctm, List.mem_range.1 hi]
  rw [octTiles, tilesOf, e]

/-- The octets of an instruction are below 8. -/
theorem octTiles_lt {f : Fields} {x : Nat × Nat} (h : x ∈ octTiles f) : x.1 < 8 := by
  have := (List.of_mem_zip h).1
  exact List.mem_range.1 (List.mem_filter.1 this).1

/-- Word `w` of lane `L` of a register operand of type `ty` from register `r` on, as a pass takes it (R299). -/
def passWord (t : Th) (r : Nat) (ty : BitVec 5) (L w : Nat) : RWord 32 :=
  if t.p.exm.getLsbD L then t.vreg (r + w) L else zeroWord ty

theorem aWords_registers (t : Th) (f : Fields) (i j : Nat) :
    aWords t f none [] i j = fun r => (List.range 16).map (passWord t f.sa.toNat f.ty (8 * j + r)) := by
  funext r
  refine List.map_congr_left fun w _ => ?_
  simp only [passWord]
  cases t.p.exm.getLsbD (8 * j + r) <;> rfl

theorem bWords_registers (t : Th) (f : Fields) :
    bWords t f none [] = fun n => (List.range 16).map (passWord t f.sb.toNat (xBty f) n) := rfl

/-- The pass of octet and tile `x` of an MMA of register operands, but for the mark of its last one. -/
def registerPass (t : Th) (f : Fields) (x : Nat × Nat) : Pass :=
  { quad := t.w.quadN, wk := t.wk, eid := t.p.eid, ia := t.p.pia, tile := x.2, tiles := (kX f false).tiles, oct := x.1,
    last := false, ta := f.ty, tb := xBty f, sh := xAnch f,
    a := (List.range 8).flatMap fun r => (List.range 16).map (passWord t f.sa.toNat f.ty (8 * x.1 + r)), ascl := [],
    b := (List.range 64).flatMap fun n => (List.range 16).map (passWord t f.sb.toNat (xBty f) n), bscl := [] }

/-- The passes of an MMA of register operands, but for the mark of the last one: one for each octet with a lane that executes. -/
def livePasses (t : Th) (f : Fields) : List Pass :=
  ((octTiles f).filter fun x => t.p.exm.extractLsb' (8 * x.1) 8 != 0).map (registerPass t f)

/-- The list with its last pass marked. -/
def markLast (l : List Pass) : List Pass := l.dropLast ++ (l.getLast?.map fun p => { p with last := true }).toList

/-- Marking the last pass keeps the places of all. -/
theorem map_markLast (l : List Pass) : (markLast l).map (fun p => (p.oct, p.tile)) = l.map fun p => (p.oct, p.tile) := by
  rcases List.eq_nil_or_concat l with rfl | ⟨l, p, rfl⟩ <;> simp [markLast]

/-- A marked pass is one of the list but for its mark. -/
theorem mem_markLast {l : List Pass} {p : Pass} (h : p ∈ markLast l) : ∃ q ∈ l, ∃ b, p = { q with last := b } := by
  rcases List.mem_append.1 h with h | h
  · exact ⟨p, (List.dropLast_sublist l).subset h, p.last, rfl⟩
  · obtain ⟨q, hq, rfl⟩ := Option.map_eq_some_iff.1 (Option.mem_toList.1 h)
    exact ⟨q, List.mem_of_getLast? hq, true, rfl⟩

/-- The registers of both operands pass their checks in every lane (R300). -/
def SoundOperands (t : Th) (f : Fields) : Prop :=
  ∀ L < 64, ∀ w < 16, sound (t.vreg (f.sa.toNat + w) L) = true ∧ sound (t.vreg (f.sb.toNat + w) L) = true

theorem sound_passWord {t : Th} {r L w : Nat} (h : sound (t.vreg (r + w) L) = true) (ty : BitVec 5) :
    sound (passWord t r ty L w) = true := by
  rw [passWord]
  split
  · exact h
  · exact sound_zeroWord ty

theorem all_sound_passWords {t : Th} {r m : Nat} {lane : Nat → Nat}
    (h : ∀ i < m, ∀ w < 16, sound (t.vreg (r + w) (lane i)) = true) (ty : BitVec 5) :
    ((List.range m).flatMap fun i => (List.range 16).map (passWord t r ty (lane i))).all sound = true := by
  simp only [List.all_flatMap, List.all_map, List.all_eq_true, List.mem_range, Function.comp]
  exact fun i hi w hw => sound_passWord (h i hi w hw) ty

/-- The words of both operands of the passes pass their checks. -/
theorem livePasses_sound {t : Th} {f : Fields} (h : SoundOperands t f) {p : Pass} (hp : p ∈ livePasses t f) :
    p.a.all sound = true := by
  obtain ⟨x, hx, rfl⟩ := List.mem_map.1 hp
  have := octTiles_lt (List.mem_filter.1 hx).1
  exact all_sound_passWords (lane := fun r => 8 * x.1 + r) (fun r hr w hw => (h _ (by omega) w hw).1) _

/-- An MMA whose register operands pass their checks forms its passes, and none fails (R299, R300). -/
theorem mmaPasses_registers {t : Th} {f : Fields} (h : SoundOperands t f) :
    mmaPasses t f none none [] = { passes := markLast (livePasses t f), fail := none } := by
  have cols : ((List.range 64).flatMap fun n => (List.range 16).map (passWord t f.sb.toNat (xBty f) n)).all sound = true :=
    all_sound_passWords (lane := id) (fun L hL w hw => (h L hL w hw).2) _
  have good : (livePasses t f).filter (fun p => p.a.all sound) = livePasses t f :=
    List.filter_eq_self.2 fun _ hp => livePasses_sound h hp
  have fails : (livePasses t f).filter (fun p => !p.a.all sound) = [] :=
    List.filter_eq_nil_iff.2 fun _ hp => by simp [livePasses_sound h hp]
  simp only [mmaPasses, aWords_registers, bWords_registers, cols, Bool.not_true, Bool.not_false, Bool.true_and, Bool.false_or]
  exact congr (congrArg Issued.mk (congrArg markLast good)) (congrArg (fun l : List Pass => l.head?.map fun p => (p.oct, p.tile)) fails)

/-- Each pass of an MMA of register operands has its words as the operands stand. -/
theorem registerPass_words (t : Th) (f : Fields) (x : Nat × Nat) :
    (∀ r < 8, ∀ w < 16, (registerPass t f x).a.getD (16 * r + w) (zw 32) = passWord t f.sa.toNat f.ty (8 * x.1 + r) w) ∧
    ∀ n < 64, ∀ w < 16, (registerPass t f x).b.getD (16 * n + w) (zw 32) = passWord t f.sb.toNat (xBty f) n w :=
  ⟨fun _ hr _ hw => getD_flatMap_blocks (fun r => passWord t f.sa.toNat f.ty (8 * x.1 + r)) hr hw _,
    fun _ hn _ hw => getD_flatMap_blocks (passWord t f.sb.toNat (xBty f)) hn hw _⟩

/-! ## MMA (R93, R295) -/

/-- Registers are all that an MMA without memory operands reads: nothing is translated, and nothing is counted. -/
theorem operands_registers {t : Th} {op : Nat} {nd : Need} {k : Th → List (Nat × Loc) → Res} (h0 : t.w.d = 0)
    (hi : t.w.inj.getLsbD 63 = false) (hd : t.s.dbg = []) : operands t op [] nd k = k t [] := by
  have e : operands t op [] nd k = checked t op [] fun t => k t.arrayReads [] := rfl
  rw [e, checked_clean h0 hi (by simp), Th.arrayReads, count_untraced hd]

/-- An MMA waits while its quad's buffer lacks its tokens (R93). -/
theorem mma_short {t : Th} {f : Fields} (h : t.s.qbuf t.w.quadN < (octTiles f).length * passTokens f.ty.toNat (xBty f).toNat)
    (ex : BitVec 64) : mma f t ex = .hold { t with p := { t.p with tokWait := true } } := if_pos h

/-- An MMA of register operands draws its tokens, and its passes join the array (R93, R296, R299). -/
theorem mma_registers {t : Th} {f : Fields} (ha : xAkind f = false) (hb : xBkind f = false)
    (h : (octTiles f).length * passTokens f.ty.toNat (xBty f).toNat ≤ t.s.qbuf t.w.quadN) (h0 : t.w.d = 0)
    (hi : t.w.inj.getLsbD 63 = false) (hd : t.s.dbg = []) (hs : SoundOperands t f) (ex : BitVec 64) :
    mma f t ex = .done { t with s := { t.s.setQbuf t.w.quadN (t.s.qbuf t.w.quadN -
        (octTiles f).length * passTokens f.ty.toNat (xBty f).toNat) with
      passes := t.s.passes ++ markLast (livePasses t f) } } := by
  simp only [mma, if_neg (Nat.not_lt.2 h), ha, hb, Bool.false_eq_true, if_false, Option.toList_none, List.append_nil]
  rw [operands_registers (t := { t with s := t.s.setQbuf _ _ }) h0 hi hd]
  simp only [readOps, List.map_nil, List.isEmpty_nil, if_true]
  rw [mmaPasses_registers (t := { t with s := t.s.setQbuf _ _ }) hs]
  rfl

end Sys2Proof.Machine

namespace Sys2Proof.Slice0

/-- O37, its part of the instruction: what an MMA of register operands comes to on a plain path. -/
theorem mmaResult : MmaResult := by
  intro s t f ex h ha hb cost q
  have hp := h.plain
  obtain rfl := hp.state
  simp only [cost, q, ← octTiles_eq]
  refine ⟨fun hq => ?_, fun hq hi hs => ?_⟩
  · exact issue_hold (k := kX f false) h nofun (fun _ => rfl) (mma_short hq ex) hp.real
  · refine ⟨_, issue_done (k := kX f false) h nofun (fun _ => rfl)
      (mma_registers ha hb hq hp.noLoop hi hp.untraced hs ex) ⟨hp.untraced, hp.noJoin, hp.noExit, hp.noRegion⟩ hp.noLoop
      hp.real, ?_, fun p hm => ?_⟩
    · rw [map_markLast, livePasses, List.map_map]
      exact List.map_id _
    · obtain ⟨q, hq, b, rfl⟩ := mem_markLast hm
      obtain ⟨x, -, rfl⟩ := List.mem_map.1 hq
      exact ⟨rfl, rfl, rfl, rfl, rfl, rfl, rfl, registerPass_words t f x⟩

/-- Settles O37: it holds, by the passes that an MMA forms and by what its oldest pass adds. -/
theorem matrixResult : Obligations.MatrixResult := ⟨mmaResult, matrixPassResult⟩

end Sys2Proof.Slice0
end

section
/-!
PROOFS. A quad's cycle, the promotion of a path and the delivery of a line (O39), after what a cycle leaves of the state, what a
choice among ready paths picks, what a fetched line has passed, and what a trap makes of its path.
-/
open Sys2Proof Sys2Proof.Machine Sys2Proof.Slice0

namespace Sys2Proof.Machine

/-! ## The choice among ready paths (R90) -/

theorem eldest_mem {l : List (Nat × Wave × Path)} {x : Nat × Wave × Path} (h : eldest l = some x) : x ∈ l := by
  refine List.foldlRecOn (motive := fun m => ∀ x, m = some x → x ∈ l) l _ (fun _ h => by cases h) ?_ x h
  intro m hm y hy x hx
  cases m with
  | none => exact Option.some.inj hx ▸ hy
  | some z =>
    dsimp only at hx
    split at hx
    · exact Option.some.inj hx ▸ hy
    · exact hm x hx

/-- A quad picks one of its ready paths (R90). -/
theorem pick_mem {last : Option (Nat × Nat)} {l : List (Nat × Wave × Path)} {x : Nat × Wave × Path} (h : pick last l = some x) :
    x ∈ l := by
  simp only [pick] at h
  split at h
  · exact (List.mem_filter.1 (eldest_mem h)).1
  · split at h
    · next hf => exact (List.mem_filter.1 (List.mem_of_find?_eq_some (hf.trans h))).1
    · exact (List.mem_filter.1 (eldest_mem h)).1

/-- The offered paths of a quad are paths of its waves (R89). -/
theorem quadN_of_mem_quadPaths {s : State} {quad : Nat} {x : Nat × Wave × Path} (h : x ∈ quadPaths s quad) :
    x.2.1.quadN = quad := by
  obtain ⟨y, hy, hx⟩ := List.mem_flatMap.1 h
  obtain ⟨p, -, rfl⟩ := List.mem_map.1 hx
  exact beq_iff_eq.1 (List.mem_filter.1 hy).2

/-! ## What a cycle leaves of the state (R89, R90, R93) -/

/-- `s'` differs from `s` in no more than what schedules paths: the package's power and issue state, the counters, and of each wave
the records of its paths and its count of token-bound cycles. -/
structure Scheduled (s s' : State) : Prop where
  ms    : s'.ms = s.ms
  crews : s'.crews = s.crews
  ptime : s'.ptime = s.ptime
  badPa : s'.badPa = s.badPa
  sel   : s'.sel = s.sel
  waves : ∀ k w, s.wave k = some w →
    ∃ w', s'.wave k = some w' ∧ w'.v = w.v ∧ w'.sreg = w.sreg ∧ w'.p = w.p ∧ w'.tiles = w.tiles

theorem Scheduled.refl (s : State) : Scheduled s s := ⟨rfl, rfl, rfl, rfl, rfl, fun _ w h => ⟨w, h, rfl, rfl, rfl, rfl⟩⟩

theorem Scheduled.trans {s u v : State} (h : Scheduled s u) (k : Scheduled u v) : Scheduled s v where
  ms := k.ms.trans h.ms
  crews := k.crews.trans h.crews
  ptime := k.ptime.trans h.ptime
  badPa := k.badPa.trans h.badPa
  sel := k.sel.trans h.sel
  waves n w hw := by
    obtain ⟨w', hw', hv, hs, hp, ht⟩ := h.waves n w hw
    obtain ⟨w'', hw'', hv', hs', hp', ht'⟩ := k.waves n w' hw'
    exact ⟨w'', hw'', hv'.trans hv, hs'.trans hs, hp'.trans hp, ht'.trans ht⟩

/-- Where the package, the counters and the registers of contexts alone change, no more than the schedule does. -/
theorem Scheduled.aside (s : State) (pkg : Pkg) (dbg : SMap (BitVec 64)) (ctxs : SMap Ctx) :
    Scheduled s { s with pkg := pkg, dbg := dbg, ctxs := ctxs } :=
  ⟨rfl, rfl, rfl, rfl, rfl, fun _ w h => ⟨w, h, rfl, rfl, rfl, rfl⟩⟩

/-- A fold of steps that change the schedule alone changes it alone. -/
theorem scheduled_foldl {f : State → β → State} (h : ∀ s x, Scheduled s (f s x)) (l : List β) (s : State) :
    Scheduled s (l.foldl f s) :=
  List.foldlRecOn (motive := Scheduled s) l f (.refl s) fun u hu x _ => hu.trans (h u x)

theorem drawTokens_scheduled (s : State) (quad : Nat) (wants : Bool) : Scheduled s (drawTokens s quad wants) := by
  simp only [drawTokens]
  split
  · exact .aside s _ s.dbg s.ctxs
  · exact .refl s

theorem drawDie_scheduled (s : State) (quad : Nat) (wants : Bool) : Scheduled s (drawDie s quad wants) :=
  scheduled_foldl (fun s _ => drawTokens_scheduled s _ _) _ s

/-- Counting an event changes counters and registers of contexts alone (R369). -/
theorem count_keeps (s : State) (w : Wave) (code n : Nat) : ∃ d c, s.count w code n = { s with dbg := d, ctxs := c } := by
  rw [State.count, State.countAt]
  split
  · exact ⟨s.dbg, s.ctxs, rfl⟩
  · refine List.foldlRecOn (motive := fun u : State => ∃ d c, u = { s with dbg := d, ctxs := c }) _ _ ⟨s.dbg, s.ctxs, rfl⟩ ?_
    rintro _ ⟨d, c, rfl⟩ i -
    dsimp only
    split
    · rw [State.setDbgReg]
      split <;> exact ⟨_, _, rfl⟩
    · exact ⟨d, c, rfl⟩

/-- A wave that differs in its count of token-bound cycles is put back. -/
theorem tokwait_scheduled {s : State} {wk : Nat} {w : Wave} (h : s.wave wk = some w) (n : BitVec 32) :
    Scheduled s (s.putWave wk { w with tokwait := n }) := by
  refine ⟨rfl, rfl, rfl, rfl, rfl, fun k x hx => ?_⟩
  by_cases hk : k = wk
  · subst hk
    obtain rfl := Option.some.inj (h.symm.trans hx)
    exact ⟨_, wave_putWave_same .., rfl, rfl, rfl, rfl⟩
  · exact ⟨x, (slook_sput_ne hk).trans hx, rfl, rfl, rfl, rfl⟩

theorem countBound_scheduled (s : State) (quad : Nat) (l : List (Nat × Wave × Path)) : Scheduled s (countBound s quad l) := by
  simp only [countBound]
  split
  · exact .refl s
  · refine Scheduled.trans (.aside s _ s.dbg s.ctxs) (scheduled_foldl (fun u wk => ?_) _ _)
    cases hw : u.wave wk with
    | none => simpa only [hw] using .refl u
    | some w =>
      obtain ⟨d, c, e⟩ := count_keeps u w 0x0B 1
      simpa only [hw, e] using (Scheduled.aside u u.pkg d c).trans
        (tokwait_scheduled (s := { u with dbg := d, ctxs := c }) hw (w.tokwait + 1))

theorem ageAll_scheduled (s : State) (ready : List (Nat × Nat)) (picked : Option (Nat × Nat)) (quad : Nat) :
    Scheduled s (ageAll s ready picked quad) := by
  refine ⟨rfl, rfl, rfl, rfl, rfl, fun k w hw => ?_⟩
  have key := slook_map_key (g := fun x : Nat × Wave => if x.2.quadN == quad then (x.1, { x.2 with paths := x.2.paths.map fun p =>
    { p with yielded := false, age := if ready.contains (x.1, p.eid) && picked != some (x.1, p.eid) then p.age + 1 else p.age } })
    else x) (fun x => by dsimp only; split <;> rfl) s.waves k
  rw [show slook s.waves k = some w from hw] at key
  refine ⟨_, key, ?_⟩
  dsimp only
  split <;> exact ⟨rfl, rfl, rfl, rfl⟩

/-- Whether a path may issue does not rest on the schedule of the others. -/
theorem Scheduled.issuable_eq {s s' : State} (h : Scheduled s s') (w : Wave) (p : Path) : issuable s' w p = issuable s w p := by
  simp only [issuable, State.crewIs, State.crew, State.mustWait, PStore.holds, h.crews, h.ms]

/-- What a quad's cycle comes to: no more than the schedule changes, and at most one offered path of the quad that may issue is
selected (R89, R90). -/
theorem quadCycle_cases (s : State) (quad : Nat) : ∃ u, Scheduled s u ∧ (quadCycle s quad = u ∨
    ∃ y ∈ quadPaths s quad, issuable s y.2.1 y.2.2 = true ∧ ∃ pkg,
      quadCycle s quad = { u with sel := some (y.1, y.2.2.eid), pkg := pkg }) := by
  unfold quadCycle
  extract_lets clear l free short s1 s2 ready picked s3 note pkg
  have h2 : Scheduled s s2 := (drawDie_scheduled s quad _).trans (countBound_scheduled s1 quad _)
  refine ⟨s3, h2.trans (ageAll_scheduled s2 _ picked quad), ?_⟩
  cases hy : pick (slook s2.pkg.last quad) ready with
  | none => exact .inl (by simp only [picked, hy, Option.map_none])
  | some y =>
    obtain ⟨hfree, hready⟩ := List.mem_filter.1 (pick_mem hy)
    obtain ⟨i, hi, hsome⟩ := List.mem_filterMap.1 hfree
    have hl : y ∈ l := by
      split at hsome
      · cases hsome
      · exact Option.some.inj hsome ▸ (List.of_mem_zip hi).2
    refine .inr ⟨y, hl, ?_, _, by simp only [picked, hy, Option.map_some]; rfl⟩
    rw [← h2.issuable_eq]
    exact (Bool.and_eq_true_iff.1 hready).1

/-! ## Lines (R99, R103) -/

/-- A line fetched ahead of need touches the memory system and counts on SPDROP, and nothing else (R103, R254). -/
theorem fetchAhead_onlyMem (t : Th) : OnlyMem t.s (fetchAhead t) := by
  have drop : ∀ u : State, OnlyMem u (u.spdrop t.w.pasid 1) := fun u => ⟨u.ms, u.badPa, _, rfl⟩
  unfold fetchAhead
  extract_lets l a line
  have h := translate_onlyMem t.s t.w.die t.w.pasid a { x := true, spec := true } t.w.hmode 0
  split <;> rename_i heq <;> rw [heq] at h
  · exact h.trans (drop _)
  · dsimp only
    split
    · exact h.trans (drop _)
    · split
      · exact h
      · exact h.trans ⟨_, _, _, rfl⟩

/-- `u` is path `t` with the line `d` of its address delivered, and the line has passed its checks (R99). -/
structure Delivered (t u : Th) (d : BitVec 512) : Prop where
  line : u.p.line = some (t.p.pia.extractLsb' 6 58, d)
  pia  : u.p.pia = t.p.pia
  sums : slotMismatch d = 0
  good : lineBad d = false

/-- A line that the checks let through (R99). -/
theorem checkLine_delivers {t u : Th} {d again e : BitVec 512} (h : checkLine t d again = .ok u e) : Delivered t u e := by
  simp only [checkLine] at h
  split at h
  · next hd =>
    split at h
    · cases h
    · next hb => cases h; exact ⟨rfl, rfl, hd, Bool.eq_false_iff.2 hb⟩
  · split at h
    · next hd =>
      split at h
      · cases h
      · next hb => cases h; exact ⟨rfl, rfl, hd, Bool.eq_false_iff.2 hb⟩
    · cases h

/-- A path whose line is not there has it fetched. -/
theorem fetchLine_absent {t : Th} (h : lineHere t.p = false) : fetchLine t = fetchLine.go t (t.p.pia.extractLsb' 6 58) := by
  cases hl : t.p.line with
  | none => simp only [fetchLine, hl]
  | some x =>
    simp only [lineHere, hl] at h
    simp only [fetchLine, hl, h, Bool.false_eq_true, if_false]

/-- A line that is fetched and delivered has passed its checks (R99). -/
theorem fetchLine_delivers {t u : Th} {d : BitVec 512} (h : lineHere t.p = false) (hu : fetchLine t = .ok u d) : Delivered t u d := by
  rw [fetchLine_absent h, fetchLine.go] at hu
  dsimp only at hu
  split at hu
  · cases hu
  · split at hu
    · cases hu
    · split at hu
      · cases hu
      · obtain ⟨hl, hp, hs, hb⟩ := checkLine_delivers hu
        exact ⟨hl, hp, hs, hb⟩

section
variable {s : State} {wk eid : Nat} {t : Th} (hv : s.view wk eid = some t)
include hv

theorem view_state : t.s = s := by
  simp only [State.view] at hv
  split at hv
  · cases hv
  · split at hv <;> cases hv
    rfl

/-- Nothing is delivered to a path that is not offered (R99). -/
theorem exec_lineFetch_notOffered (h : ¬ ((offered s t.w).any fun p => p.eid == eid) = true) :
    exec (.lineFetchComplete wk eid) s = answer s := by
  change execLineFetchComplete wk eid s = _
  simp only [execLineFetchComplete, hv, h, Bool.not_false, if_true]

variable (ho : ((offered s t.w).any fun p => p.eid == eid) = true)
include ho

theorem exec_lineFetch_ahead (h : lineHere t.p = true) : exec (.lineFetchComplete wk eid) s = answer (fetchAhead t) := by
  change execLineFetchComplete wk eid s = _
  simp only [execLineFetchComplete, hv, ho, h, Bool.not_true, Bool.false_eq_true, if_false, if_true]

variable (h : lineHere t.p = false) (hh : targetHigh t = none)
include h hh

theorem exec_lineFetch_ok {u : Th} {d : BitVec 512} (hu : fetchLine t = .ok u d) :
    exec (.lineFetchComplete wk eid) s = answer u.commit := by
  change execLineFetchComplete wk eid s = _
  simp only [execLineFetchComplete, hv, ho, h, hh, hu, Bool.not_true, Bool.false_eq_true, if_false]

theorem exec_lineFetch_trap {u : Th} {x : Trap} (hu : fetchLine t = .trap u x) :
    exec (.lineFetchComplete wk eid) s = answer (enterTrap u x) := by
  change execLineFetchComplete wk eid s = _
  simp only [execLineFetchComplete, hv, ho, h, hh, hu, Bool.not_true, Bool.false_eq_true, if_false]

end

/-! ## Taking an exception (R141, R142) -/

/-- Where nothing is traced a failed check freezes nothing. -/
theorem failed_untraced {t : Th} (h : t.s.dbg = []) (x : Trap) : t.failed x = t := by
  rw [Th.failed, freezeDies_untraced h, ite_self]

end Sys2Proof.Machine

namespace Sys2Proof.Slice0

/-- R141, R142: a path that has a handler takes an exception in it. -/
theorem enterTrap_handles {t : Th} (x : Trap) (hd : t.s.dbg = []) (hh : Handles t) : enterTrap t x = (inHandler t x).commit := by
  obtain ⟨hm, hv, hlow⟩ := hh
  have path : tpathOf t = BitVec.ofNat 64 (t.p.idx + (if t.w.half then 2 ^ 3 else 0) + t.rsd * 2 ^ 4 + t.w.d * 2 ^ 12) :=
    congrArg (BitVec.ofNat 64) (by rw [show (2 ^ 3 : Nat) = 8 from rfl]; omega)
  rw [enterTrap, failed_untraced hd]
  simp only [hm, hv, decide_false, Bool.or_self, Bool.false_eq_true, if_false, if_neg (Nat.not_le.2 hlow)]
  rw [th_trace_untraced (by exact hd)]
  simp only [setTrapRecs, path]
  rfl

/-- R89: while a path is selected a quad's cycle changes nothing. -/
theorem exec_quadIssueCycle_selected {s : State} (hs : s.badPa = none) (h : s.sel ≠ none) (quad : Nat) :
    exec (.quadIssueCycle quad) s = .next s :=
  (congrArg answer (if_neg (mt Option.isNone_iff_eq_none.1 h))).trans (answer_real hs)

/-- R89, R90: while none is, it changes no more than the schedule, and selects at most one path of the quad that may issue. -/
theorem exec_quadIssueCycle_unselected {s : State} (hs : s.badPa = none) (h : s.sel = none) (quad : Nat) :
    ∃ u, Scheduled s u ∧ (exec (.quadIssueCycle quad) s = .next u ∨ ∃ y ∈ quadPaths s quad, issuable s y.2.1 y.2.2 = true ∧
      ∃ pkg, exec (.quadIssueCycle quad) s = .next { u with sel := some (y.1, y.2.2.eid), pkg := pkg }) := by
  have e : exec (.quadIssueCycle quad) s = answer (quadCycle s quad) := congrArg answer (if_pos (Option.isNone_iff_eq_none.2 h))
  obtain ⟨u, hu, ec | ⟨y, hy, hi, pkg, ec⟩⟩ := quadCycle_cases s quad
  all_goals rw [e, ec]
  · exact ⟨u, hu, .inl (answer_real (hu.badPa.trans hs))⟩
  · exact ⟨u, hu, .inr ⟨y, hy, hi, pkg, answer_real (hu.badPa.trans hs)⟩⟩

/-- Settles O39: it holds, by what a quad's cycle comes to, and by what a fetched line that is delivered or fails does. -/
theorem issueAndFetchResult : Obligations.IssueAndFetchResult := by
  intro s quad wk eid hs
  refine ⟨?_, answer_real hs, fun t hv => ?_⟩
  · by_cases hn : s.sel = none
    · obtain ⟨u, hu, e | ⟨y, hy, hi, pkg, e⟩⟩ := exec_quadIssueCycle_unselected hs hn quad
      · exact ⟨u, e, hu.ms, hu.crews, hu.ptime, fun h => absurd hn h, fun x _ hx => by simp [hu.sel, hn] at hx, hu.waves⟩
      · refine ⟨_, e, hu.ms, hu.crews, hu.ptime, fun h => absurd hn h, fun x _ hx => ?_, hu.waves⟩
        obtain rfl := Option.some.inj hx
        exact ⟨y.2.1, y.2.2, hy, rfl, hi, quadN_of_mem_quadPaths hy⟩
    · exact ⟨s, exec_quadIssueCycle_selected hs hn quad, rfl, rfl, rfl, fun _ => rfl, fun _ h => absurd h hn,
        (Scheduled.refl s).waves⟩
  · obtain rfl := view_state hv
    refine ⟨fun hn => (exec_lineFetch_notOffered hv hn).trans (answer_real hs), fun ho hl hr => ?_,
      fun u d ho hl hh hu hr => ?_, fun u x ho hl hh hu hd hr hu' => ?_⟩
    · obtain ⟨m, b, c, e⟩ := fetchAhead_onlyMem t
      exact ⟨_, (exec_lineFetch_ahead hv ho hl).trans (answer_real hr), by rw [e], by rw [e], by rw [e]⟩
    · obtain ⟨hline, hpia, hsum, hgood⟩ := fetchLine_delivers hl hu
      exact ⟨(exec_lineFetch_ok hv ho hl hh hu).trans (answer_real hr), hline, hpia, hsum, hgood⟩
    · rw [exec_lineFetch_trap hv ho hl hh hu, enterTrap_handles x hd hu']
      exact answer_real hr

end Sys2Proof.Slice0
end
